-- ==== Sys2Proof/Word.lean ====
section
/-! DEFINITION. The word types of the Hensor VL4 (spec/00_scope.md R1, R2) and the 40-bit word: 32 data
bits, the 8-bit lane check code that travels with them (R24), and the poison mark (R257). -/

namespace Sys2Proof

/-- A byte (R2). -/
abbrev Byte := BitVec 8
/-- A word, 32 bits (R2). -/
abbrev Word := BitVec 32
/-- A double, 64 bits (R2). -/
abbrev Double := BitVec 64
/-- A quad, 128 bits (R2). -/
abbrev Quad := BitVec 128
/-- One bit per lane; bit l is lane l (R28). -/
abbrev Mask := BitVec 64

/-- A stored or carried word: its data, the lane check code it travels with (R24), and the poison mark
that a correction layer put on it (R257). -/
structure W40 where
  v : Word
  c : Byte
  p : Bool
  deriving DecidableEq, Repr

/-- The word that zeroed storage holds: data zero with code 0 (R229, R253). -/
def W40.zero : W40 := ⟨0, 0, false⟩

/-- A dyadic rational m × 2^e, the exact numbers of R91 and R173. -/
structure Dyadic2 where
  m : Int
  e : Int
  deriving DecidableEq, Repr

end Sys2Proof
end

