-- ==== Sys2Proof/Syntax.lean ====
section
/-! DEFINITION. The steps of the part: one constructor of `Instr` for every row of spec/opcode_table.json.

A Gelpi node carries its instruction word's fields by format (spec/03_blocks_and_encoding.md Table 3.10), a
truss element operation carries the fields of its 96-bit word (spec/07_truss_fabric.md Table 7.2), and an
event carries the agent that acts or, for an event that comes from outside the module, the input itself. -/

namespace Sys2Proof

/-- Format A (Table 3.10): MOD, two targets, LAT, EXT. -/
structure FmtA where
  pm : BitVec 2
  mod : BitVec 5
  t0 : BitVec 10
  t1 : BitVec 10
  lat : BitVec 3
  ext : BitVec 25
  deriving DecidableEq, Repr

/-- Format I (Table 3.10): MOD, two targets, LAT, IMM25 as operand b. -/
structure FmtI where
  pm : BitVec 2
  mod : BitVec 5
  t0 : BitVec 10
  t1 : BitVec 10
  lat : BitVec 3
  imm : BitVec 25
  deriving DecidableEq, Repr

/-- Format K (Table 3.10): MOD, one target, LAT, IMM32. -/
structure FmtK where
  pm : BitVec 2
  mod : BitVec 5
  t0 : BitVec 10
  lat : BitVec 3
  imm : BitVec 32
  deriving DecidableEq, Repr

/-- Format M (Table 3.10): MOD, one target, LSID, SPACE, ORDER, SCOPE, CACHE, LAT, OFFSET. -/
structure FmtM where
  pm : BitVec 2
  mod : BitVec 5
  t0 : BitVec 10
  lsid : BitVec 6
  space : BitVec 3
  order : BitVec 2
  scope : BitVec 3
  cache : BitVec 2
  lat : BitVec 2
  ofs : BitVec 20
  deriving DecidableEq, Repr

/-- Format X (Table 3.10): EXIT and the offset; KIND is the constructor (R78). -/
structure FmtX where
  pm : BitVec 2
  exit : BitVec 2
  ofs : BitVec 48
  deriving DecidableEq, Repr

/-- Format E (Table 3.10): MOD, status target, LSID, resource index, IMM24. -/
structure FmtE where
  pm : BitVec 2
  mod : BitVec 5
  t0 : BitVec 10
  lsid : BitVec 6
  res : BitVec 8
  imm : BitVec 24
  deriving DecidableEq, Repr

/-- The fields of an element instruction (spec/07_truss_fabric.md Table 7.2) but for OP, which is the
constructor. -/
structure ElemWord where
  pcare : BitVec 8
  pval : BitVec 8
  need : BitVec 4
  htest : BitVec 8
  srca : BitVec 3
  srcb : BitVec 3
  deq : BitVec 4
  omask : BitVec 4
  otag : BitVec 2
  psetf : BitVec 8
  pclrf : BitVec 8
  imm : BitVec 16
  ldst : BitVec 3
  deriving DecidableEq, Repr

/-- A warp, or a half-warp under W32: logical bay, warp slot, half-warp number (R17, R29, R268). -/
structure WarpId where
  bay : Nat
  slot : Nat
  half : Nat
  deriving DecidableEq, Repr

/-- A truss element: logical bay, row and column of the bay's grid (R196). -/
structure ElemId where
  bay : Nat
  row : Nat
  col : Nat
  deriving DecidableEq, Repr

/-- A port element: logical bay and row; its column is 0 (R196). -/
structure PortId where
  bay : Nat
  row : Nat
  deriving DecidableEq, Repr

/-- A copy request in progress: its bay, and its place among those of the bay (R156). -/
structure CopyId where
  bay : Nat
  n : Nat
  deriving DecidableEq, Repr

/-- An agent of the module that can move next (spec/09_scheduling_and_leases.md and the engines' chapters). -/
inductive Actor where
  | env
  | king
  | power
  | warp (w : WarpId)
  | issue (bay k : Nat)
  | copy (c : CopyId)
  | matrix (bay : Nat)
  | elem (e : ElemId)
  | hop (e : ElemId) (k : Nat)
  | portReq (p : PortId)
  | portRep (p : PortId)
  | sink (p : PortId)
  | streamIn (p : PortId)
  | streamOut (p : PortId)
  | exportRet (p : PortId)
  | scan (bay region : Nat)
  | loader (bay region : Nat)
  | window (bay k : Nat)
  | lease (bay : Nat)
  | team (bay gid tid : Nat)
  | grid (gid : Nat)
  | resv (level : Nat)
  | ctx (c : Nat)
  | safe (c : Nat)
  | merge
  | report
  | sill (stack : Nat)
  | repair (bay : Nat)
  | firmware
  deriving DecidableEq, Repr

/-- What an access does to the page it names (Table 16.2 DETAIL, Table 16.7): an atomic needs R and W. -/
inductive Access where
  | read | write | atomic | fetch
  deriving DecidableEq, Repr

/-- A TLB miss handed to a walker (R371, R373): the context and address, what the access needs, the agent that
waits, and for a warp the node and the lanes that wait on this page. -/
structure WalkReq where
  agent : Actor
  ctx : Nat
  va : Double
  acc : Access
  node : Nat
  lanes : Mask
  deriving DecidableEq, Repr

/-- A BAR0 write: byte offset, size in bytes, value (R352). -/
structure RegWrite where
  ofs : Nat
  size : Nat
  val : Double
  deriving DecidableEq, Repr

/-- A remote write on a Voling stream (R251, R364): source module, peer it travels to, stream, sequence number,
byte address at the receiver, length in bytes, its coded words, and the REL bit. -/
structure VolingWrite where
  src : Nat
  peer : Nat
  stream : Nat
  seq : Nat
  addr : Nat
  len : Nat
  words : List W40
  rel : Bool
  deriving DecidableEq, Repr

/-- What the power domains and bays request and the mean draw the sensors read (R393, R394): six domain
requests in W, the requests of bays that ask for less than full power, and the draw. -/
structure PowerDemand where
  req : List Nat
  bays : List (Nat × Nat)
  draw : Nat
  deriving DecidableEq, Repr

/-- A link with spare electrical lanes (R405). -/
inductive LinkId where
  | voling (port : Nat)
  | die (die : Nat)
  deriving DecidableEq, Repr

/-- Where a soft error or stuck bit strikes (R254, R257, R210). -/
inductive ErrorSite where
  | dram (pa : Nat)
  /-- the copy of a line in the ridge cache, which is where its home keeps it (R254, R398) -/
  | ridge (pa : Nat)
  /-- the copy engine's buffers, while they hold a request in progress (R157): a layer corrects the error or reports it -/
  | copyBuffer (bay request : Nat)
  | pad (bay ofs : Nat)
  | l1 (bay pa : Nat)
  | lane (w : WarpId) (reg lane : Nat)
  | uniform (w : WarpId) (reg : Nat)
  | sram (e : ElemId) (index : Nat)
  | plane (bay plane index : Nat)
  | firing (e : ElemId)
  deriving DecidableEq, Repr

/-- What becomes of the struck word where it is next read (R254): corrected by the layer, poisoned because the
layer finds it uncorrectable (R257), or altered beneath the layer's notice, so that only its lane check code
tells (the data and code patterns that change). -/
inductive ErrorKind where
  | corrected
  | uncorrectable
  | silent (data : Word) (code : Byte)
  deriving DecidableEq, Repr

/-- A soft error or stuck bit (R254). -/
structure SoftError where
  site : ErrorSite
  kind : ErrorKind
  deriving DecidableEq, Repr

/-- An entry of a safe-point map (Table 14.9): virtual register, kind (0 lane register, 1 lane-private word), place. -/
structure MapEntry where
  xreg : Nat
  kind : Nat
  loc : Nat
  deriving DecidableEq, Repr

/-- A map record (Table 14.8): native block address, virtual block and handler, stepping tag, runtime block, entries. -/
structure MapRecord where
  addr : Double
  vb : Nat
  hnd : Nat
  step : Nat
  rblk : Nat
  entries : List MapEntry
  deriving DecidableEq, Repr

/-- A native block of a translation: its address, its words, and the virtual block that it comes from (0xFFFF for a block
of the runtime). -/
structure NativeBlock where
  addr : Double
  words : List Double
  virt : Nat
  deriving DecidableEq, Repr

/-- What the runtime brings to `translate(type t)` of R340: the context, the base of the type's module, the type, the
base of the binding table, the native blocks of the handler and their maps with the address of the map array, the
handler's entry, whether the translation succeeded, the reject handler's entry, which serves a failure, and the words of
the truss image into which an exported handler is translated (R336). For type 0 these are the runtime's own blocks (R328,
R338). -/
structure Translation where
  ctx : Nat
  base : Double
  typ : Nat
  table : Double
  code : List NativeBlock
  maps : List MapRecord
  mapsAt : Double
  entry : Double
  ok : Bool
  reject : Double
  truss : List Word
  deriving DecidableEq, Repr

/-- The steps of the part, one per row of spec/opcode_table.json: events, element operations, then the nodes by
format X, E, M, K, I, A. Format A stands last because compiled Lean code can build only the first 245 constructors
of a type (`opsA` in Decode.lean is noncomputable for that reason, and only for that reason). -/
inductive Instr where
  /-- BLOCK_DISPATCH (R83). -/
  | blockDispatch (w : WarpId)
  /-- CAPTURE_COMPLETE (R323). -/
  | captureComplete (w : WarpId)
  /-- BLOCK_COMMIT (R40). -/
  | blockCommit (w : WarpId)
  /-- SUBWORD_MERGE (R256). -/
  | subwordMerge
  /-- HOME_CHECK_FAILURE (R259). -/
  | homeCheckFailure
  /-- ENGINE_ERROR (R157). -/
  | engineError (w : WarpId)
  /-- PREEMPT_BLOCK_TIMEOUT (R51). -/
  | preemptBlockTimeout (w : WarpId)
  /-- WAITANY_WAKE (R147). -/
  | waitanyWake (w : WarpId)
  /-- WAITADDR_WAKE (R149). -/
  | waitaddrWake (w : WarpId)
  /-- EXPORT_RETURN (R224). -/
  | exportReturn (p : PortId)
  /-- TEAM_RETIRE (R50). -/
  | teamRetire (bay gid tid : Nat)
  /-- GRID_RETIRE (R53). -/
  | gridRetire (gid : Nat)
  /-- KINGPOST_ROUND (R262). -/
  | kingpostRound
  /-- RESERVATION (R263). -/
  | reservation (level : Nat)
  /-- DEVICE_GRID_PASSED_OVER (R280). -/
  | deviceGridPassedOver (gid : Nat)
  /-- LEASE_TURN_END (R274). -/
  | leaseTurnEnd (bay window : Nat)
  /-- LEASE_INTERVAL_END (R272). -/
  | leaseIntervalEnd (bay : Nat)
  /-- COPY_REQUEST_START (R247). -/
  | copyRequestStart (bay : Nat)
  /-- COPY_CHUNK_LAND (R155). -/
  | copyChunkLand (c : CopyId)
  /-- COPY_COMPLETION (R155). -/
  | copyCompletion (c : CopyId)
  /-- MATRIX_ROW_GROUP_COMPLETE (R189). -/
  | matrixRowGroupComplete (bay : Nat)
  /-- PORT_LOAD_REQUEST (R212). -/
  | portLoadRequest (p : PortId)
  /-- PORT_LOAD_REPLY (R212). -/
  | portLoadReply (p : PortId)
  /-- SINK_DEQUEUE (R213). -/
  | sinkDequeue (p : PortId)
  /-- SINK_RECHECK (R213). -/
  | sinkRecheck (p : PortId)
  /-- STREAM_IN_WORD (R214). -/
  | streamInWord (p : PortId)
  /-- STREAM_OUT_WORD (R214). -/
  | streamOutWord (p : PortId)
  /-- QUIESCENCE_SCAN (R222). -/
  | quiescenceScan (bay region : Nat)
  /-- TRUSS_IMAGE_LOAD (R220). -/
  | trussImageLoad (bay region : Nat)
  /-- CONFIG_PACKET_DELIVER (R219). -/
  | configPacketDeliver (bay region : Nat)
  /-- PAGE_WALK (R371). -/
  | pageWalk (q : WalkReq)
  /-- RECORD_DEFERRED_WRITE (R367). -/
  | recordDeferredWrite (ctx : Nat)
  /-- RESUME_WRITE (R369). -/
  | resumeWrite (r : RegWrite)
  /-- TLB_INV_WRITE (R374). -/
  | tlbInvWrite (r : RegWrite)
  /-- TLB_INVALIDATION_DONE (R374). -/
  | tlbInvalidationDone (ctx : Nat)
  /-- POIS_CLR_ENTRY (R376). -/
  | poisClrEntry (r : RegWrite)
  /-- POIS_CLR_ALL (R376). -/
  | poisClrAll (r : RegWrite)
  /-- CTX_SAVE (R377). -/
  | ctxSave (r : RegWrite)
  /-- CTX_SAVE_DONE (R377). -/
  | ctxSaveDone (ctx : Nat)
  /-- CTX_RESTORE (R377). -/
  | ctxRestore (r : RegWrite)
  /-- BRKALL_WRITE (R380). -/
  | brkallWrite (r : RegWrite)
  /-- DBG_STEP_WRITE (R381). -/
  | dbgStepWrite (r : RegWrite)
  /-- SAFE_STOP_REQUEST (R346). -/
  | safeStopRequest (r : RegWrite)
  /-- SAFE_RELEASE (R346). -/
  | safeRelease (r : RegWrite)
  /-- SAFE_LATE (R345). -/
  | safeLate (ctx : Nat)
  /-- QUEUE_DOORBELL (R354). -/
  | queueDoorbell (r : RegWrite)
  /-- QUEUE_SCHED_WRITE (R260). -/
  | queueSchedWrite (r : RegWrite)
  /-- QUEUE_CONFIG_WRITE (R353). -/
  | queueConfigWrite (r : RegWrite)
  /-- REGISTER_WRITE (R352). -/
  | registerWrite (r : RegWrite)
  /-- BAR2_WRITE (R350). -/
  | bar2Write (ofs : Nat) (data : List Byte)
  /-- BAR2_READ (R350). -/
  | bar2Read (ofs n : Nat)
  /-- VOLING_WRITE_RECEIVE (R251). -/
  | volingWriteReceive (m : VolingWrite)
  /-- VOLING_ACK_RECEIVE (R251). -/
  | volingAckReceive (peer stream seq : Nat) (outside : Bool)
  /-- VOLING_LINK_FAILURE (R251). -/
  | volingLinkFailure (peer stream : Nat)
  /-- COLD_RESET (R384). -/
  | coldReset
  /-- WARM_RESET (R10). -/
  | warmReset
  /-- ATT_REQUEST (R390). -/
  | attRequest (r : RegWrite)
  /-- ATT_REPORT_DONE (R390). -/
  | attReportDone
  /-- POWER_INTERVAL (R394). -/
  | powerInterval (d : PowerDemand)
  /-- POWER_REGISTER_WRITE (R395). -/
  | powerRegisterWrite (r : RegWrite)
  /-- BANK_COUNT_INTERVAL (R399). -/
  | bankCountInterval (stack bank : Nat)
  /-- SILL_DROP_WRITE (R399). -/
  | sillDropWrite (r : RegWrite)
  /-- DRIFT_LINE_MOVE (R400). -/
  | driftLineMove (stack : Nat)
  /-- BAY_RETIRE_WRITE (R403). -/
  | bayRetireWrite (r : RegWrite)
  /-- AUTO_BAY_RETIRE (R396). -/
  | autoBayRetire (bay : Nat)
  /-- LINK_LANE_REPLACE (R405). -/
  | linkLaneReplace (l : LinkId)
  /-- FW_UPD_WRITE (R406). -/
  | fwUpdWrite (r : RegWrite)
  /-- FW_COMPONENT_SWITCH (R406). -/
  | fwComponentSwitch
  /-- MGMT_SNAP_TRIGGER (R407). -/
  | mgmtSnapTrigger
  /-- SNAP_ARM_WRITE (R407). -/
  | snapArmWrite (r : RegWrite)
  /-- MODULE_LOAD (R333). -/
  | moduleLoad (ctx : Nat) (base : Double)
  /-- HANDLER_TRANSLATE (R340). -/
  | handlerTranslate (t : Translation)
  /-- TOKEN_HOP (R199). -/
  | tokenHop (e : ElemId) (k : Nat)
  /-- PLANE_LOAD_COMPLETE (R187). -/
  | planeLoadComplete (bay : Nat)
  /-- RC_REGISTER_READ (R9). -/
  | rcRegisterRead (ofs size : Nat)
  /-- FUSED_MINIMUM_RAISE (R389). -/
  | fusedMinimumRaise (comp value : Nat)
  /-- SOFT_ERROR (R254). -/
  | softError (e : SoftError)
  /-- ELEM_ADD (R204). -/
  | elemAdd (x : ElemWord)
  /-- ELEM_SUB (R204). -/
  | elemSub (x : ElemWord)
  /-- ELEM_MUL (R204). -/
  | elemMul (x : ElemWord)
  /-- ELEM_FADD (R204). -/
  | elemFadd (x : ElemWord)
  /-- ELEM_FMUL (R204). -/
  | elemFmul (x : ElemWord)
  /-- ELEM_FFMA (R204). -/
  | elemFfma (x : ElemWord)
  /-- ELEM_AND (R204). -/
  | elemAnd (x : ElemWord)
  /-- ELEM_OR (R204). -/
  | elemOr (x : ElemWord)
  /-- ELEM_XOR (R204). -/
  | elemXor (x : ElemWord)
  /-- ELEM_SHL (R204). -/
  | elemShl (x : ElemWord)
  /-- ELEM_SHR (R204). -/
  | elemShr (x : ElemWord)
  /-- ELEM_CMPEQ (R205). -/
  | elemCmpeq (x : ElemWord)
  /-- ELEM_CMPLT (R205). -/
  | elemCmplt (x : ElemWord)
  /-- ELEM_CMPLTN (R205). -/
  | elemCmpltn (x : ElemWord)
  /-- ELEM_MIN (R204). -/
  | elemMin (x : ElemWord)
  /-- ELEM_MAX (R204). -/
  | elemMax (x : ElemWord)
  /-- ELEM_SEL (R204). -/
  | elemSel (x : ElemWord)
  /-- ELEM_MOV (R204). -/
  | elemMov (x : ElemWord)
  /-- ELEM_DEQ (R204). -/
  | elemDeq (x : ElemWord)
  /-- ELEM_TAG (R204). -/
  | elemTag (x : ElemWord)
  /-- ELEM_PSET (R205). -/
  | elemPset (x : ElemWord)
  /-- ELEM_PCLR (R204). -/
  | elemPclr (x : ElemWord)
  /-- ELEM_CNT (R206). -/
  | elemCnt (x : ElemWord)
  /-- ELEM_LD (R207). -/
  | elemLd (x : ElemWord)
  /-- ELEM_ST (R207). -/
  | elemSt (x : ElemWord)
  /-- ELEM_TAS (R207). -/
  | elemTas (x : ElemWord)
  /-- ELEM_UPD (R207). -/
  | elemUpd (x : ElemWord)
  /-- ELEM_GEN (R206). -/
  | elemGen (x : ElemWord)
  /-- ELEM_STEER (R208). -/
  | elemSteer (x : ElemWord)
  /-- ELEM_MERGE (R208). -/
  | elemMerge (x : ElemWord)
  /-- ELEM_JOIN (R206). -/
  | elemJoin (x : ElemWord)
  /-- ELEM_ERR (R204). -/
  | elemErr (x : ElemWord)
  /-- BR (R131). -/
  | br (f : FmtX)
  /-- BRI (R129). -/
  | bri (f : FmtX)
  /-- CALL (R130). -/
  | call (f : FmtX)
  /-- CALLI (R130). -/
  | calli (f : FmtX)
  /-- RET (R131). -/
  | ret (f : FmtX)
  /-- HALT (R42). -/
  | halt (f : FmtX)
  /-- TRAP (R131). -/
  | trap (f : FmtX)
  /-- BRK (R380). -/
  | brk (f : FmtX)
  /-- BINIT (R141). -/
  | binit (f : FmtE)
  /-- BRET (R141). -/
  | bret (f : FmtE)
  /-- BBIND (R141). -/
  | bbind (f : FmtE)
  /-- BARV (R141). -/
  | barv (f : FmtE)
  /-- BARX (R141). -/
  | barx (f : FmtE)
  /-- BGEN (R141). -/
  | bgen (f : FmtE)
  /-- BPAR (R142). -/
  | bpar (f : FmtE)
  /-- BSTAT (R141). -/
  | bstat (f : FmtE)
  /-- EVBIND (R145). -/
  | evbind (f : FmtE)
  /-- EVUNB (R145). -/
  | evunb (f : FmtE)
  /-- EVMASK_SET (R145). -/
  | evmaskSet (f : FmtE)
  /-- EVMASK_CLR (R145). -/
  | evmaskClr (f : FmtE)
  /-- EVMASK_WR (R145). -/
  | evmaskWr (f : FmtE)
  /-- EVPOST (R145). -/
  | evpost (f : FmtE)
  /-- EVCLR (R145). -/
  | evclr (f : FmtE)
  /-- WAITANY (R147). -/
  | waitany (f : FmtE)
  /-- WAITADDR (R149). -/
  | waitaddr (f : FmtE)
  /-- SEND (R152). -/
  | send (f : FmtE)
  /-- TRYRECV (R153). -/
  | tryrecv (f : FmtE)
  /-- MBSTAT (R151). -/
  | mbstat (f : FmtE)
  /-- CPKICK (R156). -/
  | cpkick (f : FmtE)
  /-- CPSTAT (R156). -/
  | cpstat (f : FmtE)
  /-- STRBIND (R214). -/
  | strbind (f : FmtE)
  /-- TLOAD (R216). -/
  | tload (f : FmtE)
  /-- TSTART (R216). -/
  | tstart (f : FmtE)
  /-- TSTOP (R216). -/
  | tstop (f : FmtE)
  /-- TSTAT (R158). -/
  | tstat (f : FmtE)
  /-- LDSTAT (R187). -/
  | ldstat (f : FmtE)
  /-- SWAPST (R188). -/
  | swapst (f : FmtE)
  /-- MMS (R189). -/
  | mms (f : FmtE)
  /-- ACCZ (R190). -/
  | accz (f : FmtE)
  /-- ACCRD (R191). -/
  | accrd (f : FmtE)
  /-- ACCSC (R192). -/
  | accsc (f : FmtE)
  /-- ACCLD (R193). -/
  | accld (f : FmtE)
  /-- MESTAT (R194). -/
  | mestat (f : FmtE)
  /-- LAUNCH (R159). -/
  | launch (f : FmtE)
  /-- LSTAT (R160). -/
  | lstat (f : FmtE)
  /-- LEASE_SET (R161). -/
  | leaseSet (f : FmtE)
  /-- LEASE_MEAS (R161). -/
  | leaseMeas (f : FmtE)
  /-- SNAP (R162). -/
  | snap (f : FmtE)
  /-- TRET (R369). -/
  | tret (f : FmtE)
  /-- INJ_CODE (R162). -/
  | injCode (f : FmtE)
  /-- INJ_DATA (R162). -/
  | injData (f : FmtE)
  /-- LD (R134). -/
  | ld (f : FmtM)
  /-- ST (R134). -/
  | st (f : FmtM)
  /-- PREF (R135). -/
  | pref (f : FmtM)
  /-- FENCE (R138). -/
  | fence (f : FmtM)
  /-- CINV (R138). -/
  | cinv (f : FmtM)
  /-- CWB (R138). -/
  | cwb (f : FmtM)
  /-- ATOM_ADD (R136). -/
  | atomAdd (f : FmtM)
  /-- ATOM_MIN (R136). -/
  | atomMin (f : FmtM)
  /-- ATOM_MAX (R136). -/
  | atomMax (f : FmtM)
  /-- ATOM_AND (R136). -/
  | atomAnd (f : FmtM)
  /-- ATOM_OR (R136). -/
  | atomOr (f : FmtM)
  /-- ATOM_XOR (R136). -/
  | atomXor (f : FmtM)
  /-- ATOM_EXCH (R136). -/
  | atomExch (f : FmtM)
  /-- ATOM_CAS (R136). -/
  | atomCas (f : FmtM)
  /-- ATOM_INC (R136). -/
  | atomInc (f : FmtM)
  /-- ATOM_DEC (R136). -/
  | atomDec (f : FmtM)
  /-- ATOM_FADD (R136). -/
  | atomFadd (f : FmtM)
  /-- ATOM_BFADD2 (R136). -/
  | atomBfadd2 (f : FmtM)
  /-- RED_ADD (R136). -/
  | redAdd (f : FmtM)
  /-- RED_MIN (R136). -/
  | redMin (f : FmtM)
  /-- RED_MAX (R136). -/
  | redMax (f : FmtM)
  /-- RED_AND (R136). -/
  | redAnd (f : FmtM)
  /-- RED_OR (R136). -/
  | redOr (f : FmtM)
  /-- RED_XOR (R136). -/
  | redXor (f : FmtM)
  /-- RED_INC (R136). -/
  | redInc (f : FmtM)
  /-- RED_DEC (R136). -/
  | redDec (f : FmtM)
  /-- RED_FADD (R136). -/
  | redFadd (f : FmtM)
  /-- RED_BFADD2 (R136). -/
  | redBfadd2 (f : FmtM)
  /-- MOVI (R105). -/
  | movi (f : FmtK)
  /-- MOVHI (R105). -/
  | movhi (f : FmtK)
  /-- ADD_I (R99). -/
  | addI (f : FmtI)
  /-- SUB_I (R99). -/
  | subI (f : FmtI)
  /-- ADDSAT_I (R99). -/
  | addsatI (f : FmtI)
  /-- SUBSAT_I (R99). -/
  | subsatI (f : FmtI)
  /-- MUL_I (R99). -/
  | mulI (f : FmtI)
  /-- MULHI_I (R99). -/
  | mulhiI (f : FmtI)
  /-- MAD_I (R99). -/
  | madI (f : FmtI)
  /-- MADHI_I (R99). -/
  | madhiI (f : FmtI)
  /-- DIV_I (R100). -/
  | divI (f : FmtI)
  /-- REM_I (R100). -/
  | remI (f : FmtI)
  /-- MIN_I (R99). -/
  | minI (f : FmtI)
  /-- MAX_I (R99). -/
  | maxI (f : FmtI)
  /-- SAD_I (R99). -/
  | sadI (f : FmtI)
  /-- LEA_I (R99). -/
  | leaI (f : FmtI)
  /-- AND_I (R99). -/
  | andI (f : FmtI)
  /-- OR_I (R99). -/
  | orI (f : FmtI)
  /-- XOR_I (R99). -/
  | xorI (f : FmtI)
  /-- ANDN_I (R99). -/
  | andnI (f : FmtI)
  /-- ORN_I (R99). -/
  | ornI (f : FmtI)
  /-- SHL_I (R101). -/
  | shlI (f : FmtI)
  /-- SHR_I (R101). -/
  | shrI (f : FmtI)
  /-- SAR_I (R101). -/
  | sarI (f : FmtI)
  /-- ROL_I (R101). -/
  | rolI (f : FmtI)
  /-- ROR_I (R101). -/
  | rorI (f : FmtI)
  /-- FSHL_I (R101). -/
  | fshlI (f : FmtI)
  /-- BFE_I (R102). -/
  | bfeI (f : FmtI)
  /-- BFI_I (R102). -/
  | bfiI (f : FmtI)
  /-- PRMT_I (R103). -/
  | prmtI (f : FmtI)
  /-- TST_I (R99). -/
  | tstI (f : FmtI)
  /-- CMP_EQ_I (R99). -/
  | cmpEqI (f : FmtI)
  /-- CMP_NE_I (R99). -/
  | cmpNeI (f : FmtI)
  /-- CMP_LT_I (R99). -/
  | cmpLtI (f : FmtI)
  /-- CMP_LE_I (R99). -/
  | cmpLeI (f : FmtI)
  /-- CMP_GT_I (R99). -/
  | cmpGtI (f : FmtI)
  /-- CMP_GE_I (R99). -/
  | cmpGeI (f : FmtI)
  /-- SEL_I (R99). -/
  | selI (f : FmtI)
  /-- SHFL_IDX_I (R121). -/
  | shflIdxI (f : FmtI)
  /-- SHFL_UP_I (R121). -/
  | shflUpI (f : FmtI)
  /-- SHFL_DOWN_I (R121). -/
  | shflDownI (f : FmtI)
  /-- SHFL_XOR_I (R121). -/
  | shflXorI (f : FmtI)
  /-- ADD (R99). -/
  | add (f : FmtA)
  /-- SUB (R99). -/
  | sub (f : FmtA)
  /-- ADDSAT (R99). -/
  | addsat (f : FmtA)
  /-- SUBSAT (R99). -/
  | subsat (f : FmtA)
  /-- MUL (R99). -/
  | mul (f : FmtA)
  /-- MULHI (R99). -/
  | mulhi (f : FmtA)
  /-- MAD (R99). -/
  | mad (f : FmtA)
  /-- MADHI (R99). -/
  | madhi (f : FmtA)
  /-- DIV (R100). -/
  | div (f : FmtA)
  /-- REM (R100). -/
  | rem (f : FmtA)
  /-- MIN (R99). -/
  | min (f : FmtA)
  /-- MAX (R99). -/
  | max (f : FmtA)
  /-- SAD (R99). -/
  | sad (f : FmtA)
  /-- LEA (R99). -/
  | lea (f : FmtA)
  /-- NEG (R99). -/
  | neg (f : FmtA)
  /-- ABS (R99). -/
  | abs (f : FmtA)
  /-- AND (R99). -/
  | and (f : FmtA)
  /-- OR (R99). -/
  | or (f : FmtA)
  /-- XOR (R99). -/
  | xor (f : FmtA)
  /-- ANDN (R99). -/
  | andn (f : FmtA)
  /-- ORN (R99). -/
  | orn (f : FmtA)
  /-- NOT (R99). -/
  | not (f : FmtA)
  /-- SHL (R101). -/
  | shl (f : FmtA)
  /-- SHR (R101). -/
  | shr (f : FmtA)
  /-- SAR (R101). -/
  | sar (f : FmtA)
  /-- ROL (R101). -/
  | rol (f : FmtA)
  /-- ROR (R101). -/
  | ror (f : FmtA)
  /-- FSHL (R101). -/
  | fshl (f : FmtA)
  /-- POPC (R99). -/
  | popc (f : FmtA)
  /-- CLZ (R99). -/
  | clz (f : FmtA)
  /-- CTZ (R99). -/
  | ctz (f : FmtA)
  /-- BREV (R99). -/
  | brev (f : FmtA)
  /-- BFE (R102). -/
  | bfe (f : FmtA)
  /-- BFI (R102). -/
  | bfi (f : FmtA)
  /-- PRMT (R103). -/
  | prmt (f : FmtA)
  /-- TST (R99). -/
  | tst (f : FmtA)
  /-- CMP_EQ (R99). -/
  | cmpEq (f : FmtA)
  /-- CMP_NE (R99). -/
  | cmpNe (f : FmtA)
  /-- CMP_LT (R99). -/
  | cmpLt (f : FmtA)
  /-- CMP_LE (R99). -/
  | cmpLe (f : FmtA)
  /-- CMP_GT (R99). -/
  | cmpGt (f : FmtA)
  /-- CMP_GE (R99). -/
  | cmpGe (f : FmtA)
  /-- SEL (R99). -/
  | sel (f : FmtA)
  /-- PAND (R99). -/
  | pand (f : FmtA)
  /-- POR (R99). -/
  | por (f : FmtA)
  /-- PXOR (R99). -/
  | pxor (f : FmtA)
  /-- PNOT (R99). -/
  | pnot (f : FmtA)
  /-- MOV (R105). -/
  | mov (f : FmtA)
  /-- MOV4 (R105). -/
  | mov4 (f : FmtA)
  /-- NULL (R105). -/
  | null (f : FmtA)
  /-- SRD (R106). -/
  | srd (f : FmtA)
  /-- SWR (R106). -/
  | swr (f : FmtA)
  /-- FADD (R108). -/
  | fadd (f : FmtA)
  /-- FSUB (R108). -/
  | fsub (f : FmtA)
  /-- FMUL (R108). -/
  | fmul (f : FmtA)
  /-- FFMA (R108). -/
  | ffma (f : FmtA)
  /-- FMIN (R110). -/
  | fmin (f : FmtA)
  /-- FMAX (R110). -/
  | fmax (f : FmtA)
  /-- FCLASS (R111). -/
  | fclass (f : FmtA)
  /-- FRCP (R108). -/
  | frcp (f : FmtA)
  /-- FRSQ (R108). -/
  | frsq (f : FmtA)
  /-- FSQRT (R108). -/
  | fsqrt (f : FmtA)
  /-- FDIV (R108). -/
  | fdiv (f : FmtA)
  /-- FEXP2 (R108). -/
  | fexp2 (f : FmtA)
  /-- FLOG2 (R108). -/
  | flog2 (f : FmtA)
  /-- FSIN (R108). -/
  | fsin (f : FmtA)
  /-- FCOS (R108). -/
  | fcos (f : FmtA)
  /-- FTANH (R108). -/
  | ftanh (f : FmtA)
  /-- FCMP_EQ (R112). -/
  | fcmpEq (f : FmtA)
  /-- FCMP_NE (R112). -/
  | fcmpNe (f : FmtA)
  /-- FCMP_LT (R112). -/
  | fcmpLt (f : FmtA)
  /-- FCMP_LE (R112). -/
  | fcmpLe (f : FmtA)
  /-- FCMP_GT (R112). -/
  | fcmpGt (f : FmtA)
  /-- FCMP_GE (R112). -/
  | fcmpGe (f : FmtA)
  /-- DADD (R108). -/
  | dadd (f : FmtA)
  /-- DMUL (R108). -/
  | dmul (f : FmtA)
  /-- DFMA (R108). -/
  | dfma (f : FmtA)
  /-- DMIN (R110). -/
  | dmin (f : FmtA)
  /-- DMAX (R110). -/
  | dmax (f : FmtA)
  /-- DDIV (R108). -/
  | ddiv (f : FmtA)
  /-- DSQRT (R108). -/
  | dsqrt (f : FmtA)
  /-- DCMP_EQ (R112). -/
  | dcmpEq (f : FmtA)
  /-- DCMP_NE (R112). -/
  | dcmpNe (f : FmtA)
  /-- DCMP_LT (R112). -/
  | dcmpLt (f : FmtA)
  /-- DCMP_LE (R112). -/
  | dcmpLe (f : FmtA)
  /-- DCMP_GT (R112). -/
  | dcmpGt (f : FmtA)
  /-- DCMP_GE (R112). -/
  | dcmpGe (f : FmtA)
  /-- HADD2 (R113). -/
  | hadd2 (f : FmtA)
  /-- HMUL2 (R113). -/
  | hmul2 (f : FmtA)
  /-- HFMA2 (R113). -/
  | hfma2 (f : FmtA)
  /-- HMIN2 (R113). -/
  | hmin2 (f : FmtA)
  /-- HMAX2 (R113). -/
  | hmax2 (f : FmtA)
  /-- HCMP2_EQ (R112). -/
  | hcmp2Eq (f : FmtA)
  /-- HCMP2_NE (R112). -/
  | hcmp2Ne (f : FmtA)
  /-- HCMP2_LT (R112). -/
  | hcmp2Lt (f : FmtA)
  /-- HCMP2_LE (R112). -/
  | hcmp2Le (f : FmtA)
  /-- HCMP2_GT (R112). -/
  | hcmp2Gt (f : FmtA)
  /-- HCMP2_GE (R112). -/
  | hcmp2Ge (f : FmtA)
  /-- CVT (R116). -/
  | cvt (f : FmtA)
  /-- CVTPK (R117). -/
  | cvtpk (f : FmtA)
  /-- CVTSC (R118). -/
  | cvtsc (f : FmtA)
  /-- SHFL_IDX (R121). -/
  | shflIdx (f : FmtA)
  /-- SHFL_UP (R121). -/
  | shflUp (f : FmtA)
  /-- SHFL_DOWN (R121). -/
  | shflDown (f : FmtA)
  /-- SHFL_XOR (R121). -/
  | shflXor (f : FmtA)
  /-- BALLOT (R122). -/
  | ballot (f : FmtA)
  /-- VOTE_ANY (R122). -/
  | voteAny (f : FmtA)
  /-- VOTE_ALL (R122). -/
  | voteAll (f : FmtA)
  /-- VOTE_UNI (R122). -/
  | voteUni (f : FmtA)
  /-- REDUX (R123). -/
  | redux (f : FmtA)
  /-- SCAN (R123). -/
  | scan (f : FmtA)
  /-- MATCH (R122). -/
  | matchLanes (f : FmtA)
  /-- ESC (R321). -/
  | esc (k : BitVec 4) (f : FmtA)
  deriving DecidableEq, Repr

end Sys2Proof
end

