-- ==== Sys2Proof/WellFormed.lean ====
section
/-! DEFINITION. When a step's operands are well formed.

For a Gelpi node the checks are those that an instruction word faces by itself: every field value is assigned
(spec/03_blocks_and_encoding.md R81) and every bit that the format or the description marks zero is zero (R82).
The tables of slots and widths that the block checks use (R96) stand here too, because they are read from the
same instruction tables. For an element operation the checks are those of R220 on one instruction. -/

namespace Sys2Proof

/-- The fields of a Gelpi node by format (Table 3.10). -/
inductive NodeFmt where
  | a (f : FmtA) | i (f : FmtI) | k (f : FmtK) | m (f : FmtM) | x (kind : BitVec 3) (f : FmtX) | e (f : FmtE)
  deriving DecidableEq, Repr

/-- The opcode and fields of a Gelpi node (Tables 3.12 to 3.14); none for an element operation or an event. -/
def Instr.node : Instr → Option (BitVec 9 × NodeFmt)
  | .add f => some (0x0, .a f)
  | .sub f => some (0x1, .a f)
  | .addsat f => some (0x2, .a f)
  | .subsat f => some (0x3, .a f)
  | .mul f => some (0x4, .a f)
  | .mulhi f => some (0x5, .a f)
  | .mad f => some (0x6, .a f)
  | .madhi f => some (0x7, .a f)
  | .div f => some (0x8, .a f)
  | .rem f => some (0x9, .a f)
  | .min f => some (0xa, .a f)
  | .max f => some (0xb, .a f)
  | .sad f => some (0xc, .a f)
  | .lea f => some (0xd, .a f)
  | .neg f => some (0xe, .a f)
  | .abs f => some (0xf, .a f)
  | .and f => some (0x10, .a f)
  | .or f => some (0x11, .a f)
  | .xor f => some (0x12, .a f)
  | .andn f => some (0x13, .a f)
  | .orn f => some (0x14, .a f)
  | .not f => some (0x15, .a f)
  | .shl f => some (0x16, .a f)
  | .shr f => some (0x17, .a f)
  | .sar f => some (0x18, .a f)
  | .rol f => some (0x19, .a f)
  | .ror f => some (0x1a, .a f)
  | .fshl f => some (0x1b, .a f)
  | .popc f => some (0x1c, .a f)
  | .clz f => some (0x1d, .a f)
  | .ctz f => some (0x1e, .a f)
  | .brev f => some (0x1f, .a f)
  | .bfe f => some (0x20, .a f)
  | .bfi f => some (0x21, .a f)
  | .prmt f => some (0x22, .a f)
  | .tst f => some (0x23, .a f)
  | .cmpEq f => some (0x24, .a f)
  | .cmpNe f => some (0x25, .a f)
  | .cmpLt f => some (0x26, .a f)
  | .cmpLe f => some (0x27, .a f)
  | .cmpGt f => some (0x28, .a f)
  | .cmpGe f => some (0x29, .a f)
  | .sel f => some (0x2a, .a f)
  | .pand f => some (0x2b, .a f)
  | .por f => some (0x2c, .a f)
  | .pxor f => some (0x2d, .a f)
  | .pnot f => some (0x2e, .a f)
  | .mov f => some (0x2f, .a f)
  | .mov4 f => some (0x30, .a f)
  | .null f => some (0x31, .a f)
  | .srd f => some (0x32, .a f)
  | .swr f => some (0x33, .a f)
  | .movi f => some (0x34, .k f)
  | .movhi f => some (0x35, .k f)
  | .addI f => some (0x40, .i f)
  | .subI f => some (0x41, .i f)
  | .addsatI f => some (0x42, .i f)
  | .subsatI f => some (0x43, .i f)
  | .mulI f => some (0x44, .i f)
  | .mulhiI f => some (0x45, .i f)
  | .madI f => some (0x46, .i f)
  | .madhiI f => some (0x47, .i f)
  | .divI f => some (0x48, .i f)
  | .remI f => some (0x49, .i f)
  | .minI f => some (0x4a, .i f)
  | .maxI f => some (0x4b, .i f)
  | .sadI f => some (0x4c, .i f)
  | .leaI f => some (0x4d, .i f)
  | .andI f => some (0x50, .i f)
  | .orI f => some (0x51, .i f)
  | .xorI f => some (0x52, .i f)
  | .andnI f => some (0x53, .i f)
  | .ornI f => some (0x54, .i f)
  | .shlI f => some (0x56, .i f)
  | .shrI f => some (0x57, .i f)
  | .sarI f => some (0x58, .i f)
  | .rolI f => some (0x59, .i f)
  | .rorI f => some (0x5a, .i f)
  | .fshlI f => some (0x5b, .i f)
  | .bfeI f => some (0x60, .i f)
  | .bfiI f => some (0x61, .i f)
  | .prmtI f => some (0x62, .i f)
  | .tstI f => some (0x63, .i f)
  | .cmpEqI f => some (0x64, .i f)
  | .cmpNeI f => some (0x65, .i f)
  | .cmpLtI f => some (0x66, .i f)
  | .cmpLeI f => some (0x67, .i f)
  | .cmpGtI f => some (0x68, .i f)
  | .cmpGeI f => some (0x69, .i f)
  | .selI f => some (0x6a, .i f)
  | .fadd f => some (0x80, .a f)
  | .fsub f => some (0x81, .a f)
  | .fmul f => some (0x82, .a f)
  | .ffma f => some (0x83, .a f)
  | .fmin f => some (0x84, .a f)
  | .fmax f => some (0x85, .a f)
  | .fclass f => some (0x86, .a f)
  | .frcp f => some (0x87, .a f)
  | .frsq f => some (0x88, .a f)
  | .fsqrt f => some (0x89, .a f)
  | .fdiv f => some (0x8a, .a f)
  | .fexp2 f => some (0x8b, .a f)
  | .flog2 f => some (0x8c, .a f)
  | .fsin f => some (0x8d, .a f)
  | .fcos f => some (0x8e, .a f)
  | .ftanh f => some (0x8f, .a f)
  | .fcmpEq f => some (0x90, .a f)
  | .fcmpNe f => some (0x91, .a f)
  | .fcmpLt f => some (0x92, .a f)
  | .fcmpLe f => some (0x93, .a f)
  | .fcmpGt f => some (0x94, .a f)
  | .fcmpGe f => some (0x95, .a f)
  | .dadd f => some (0xa0, .a f)
  | .dmul f => some (0xa1, .a f)
  | .dfma f => some (0xa2, .a f)
  | .dmin f => some (0xa3, .a f)
  | .dmax f => some (0xa4, .a f)
  | .ddiv f => some (0xa5, .a f)
  | .dsqrt f => some (0xa6, .a f)
  | .dcmpEq f => some (0xa8, .a f)
  | .dcmpNe f => some (0xa9, .a f)
  | .dcmpLt f => some (0xaa, .a f)
  | .dcmpLe f => some (0xab, .a f)
  | .dcmpGt f => some (0xac, .a f)
  | .dcmpGe f => some (0xad, .a f)
  | .hadd2 f => some (0xc0, .a f)
  | .hmul2 f => some (0xc1, .a f)
  | .hfma2 f => some (0xc2, .a f)
  | .hmin2 f => some (0xc3, .a f)
  | .hmax2 f => some (0xc4, .a f)
  | .hcmp2Eq f => some (0xc8, .a f)
  | .hcmp2Ne f => some (0xc9, .a f)
  | .hcmp2Lt f => some (0xca, .a f)
  | .hcmp2Le f => some (0xcb, .a f)
  | .hcmp2Gt f => some (0xcc, .a f)
  | .hcmp2Ge f => some (0xcd, .a f)
  | .cvt f => some (0xf0, .a f)
  | .cvtpk f => some (0xf1, .a f)
  | .cvtsc f => some (0xf2, .a f)
  | .shflIdx f => some (0xf8, .a f)
  | .shflUp f => some (0xf9, .a f)
  | .shflDown f => some (0xfa, .a f)
  | .shflXor f => some (0xfb, .a f)
  | .shflIdxI f => some (0xfc, .i f)
  | .shflUpI f => some (0xfd, .i f)
  | .shflDownI f => some (0xfe, .i f)
  | .shflXorI f => some (0xff, .i f)
  | .ballot f => some (0x100, .a f)
  | .voteAny f => some (0x101, .a f)
  | .voteAll f => some (0x102, .a f)
  | .voteUni f => some (0x103, .a f)
  | .redux f => some (0x104, .a f)
  | .scan f => some (0x105, .a f)
  | .matchLanes f => some (0x106, .a f)
  | .ld f => some (0x120, .m f)
  | .st f => some (0x121, .m f)
  | .pref f => some (0x122, .m f)
  | .fence f => some (0x123, .m f)
  | .cinv f => some (0x124, .m f)
  | .cwb f => some (0x125, .m f)
  | .atomAdd f => some (0x128, .m f)
  | .atomMin f => some (0x129, .m f)
  | .atomMax f => some (0x12a, .m f)
  | .atomAnd f => some (0x12b, .m f)
  | .atomOr f => some (0x12c, .m f)
  | .atomXor f => some (0x12d, .m f)
  | .atomExch f => some (0x12e, .m f)
  | .atomCas f => some (0x12f, .m f)
  | .atomInc f => some (0x130, .m f)
  | .atomDec f => some (0x131, .m f)
  | .atomFadd f => some (0x132, .m f)
  | .atomBfadd2 f => some (0x133, .m f)
  | .redAdd f => some (0x138, .m f)
  | .redMin f => some (0x139, .m f)
  | .redMax f => some (0x13a, .m f)
  | .redAnd f => some (0x13b, .m f)
  | .redOr f => some (0x13c, .m f)
  | .redXor f => some (0x13d, .m f)
  | .redInc f => some (0x13e, .m f)
  | .redDec f => some (0x13f, .m f)
  | .redFadd f => some (0x140, .m f)
  | .redBfadd2 f => some (0x141, .m f)
  | .binit f => some (0x160, .e f)
  | .bret f => some (0x161, .e f)
  | .bbind f => some (0x162, .e f)
  | .barv f => some (0x163, .e f)
  | .barx f => some (0x164, .e f)
  | .bgen f => some (0x165, .e f)
  | .bpar f => some (0x166, .e f)
  | .bstat f => some (0x167, .e f)
  | .evbind f => some (0x170, .e f)
  | .evunb f => some (0x171, .e f)
  | .evmaskSet f => some (0x172, .e f)
  | .evmaskClr f => some (0x172, .e f)
  | .evmaskWr f => some (0x172, .e f)
  | .evpost f => some (0x173, .e f)
  | .evclr f => some (0x174, .e f)
  | .waitany f => some (0x175, .e f)
  | .waitaddr f => some (0x176, .e f)
  | .send f => some (0x180, .e f)
  | .tryrecv f => some (0x181, .e f)
  | .mbstat f => some (0x182, .e f)
  | .cpkick f => some (0x1a0, .e f)
  | .cpstat f => some (0x1a1, .e f)
  | .strbind f => some (0x1a2, .e f)
  | .tload f => some (0x1a8, .e f)
  | .tstart f => some (0x1a9, .e f)
  | .tstop f => some (0x1aa, .e f)
  | .tstat f => some (0x1ab, .e f)
  | .ldstat f => some (0x1b0, .e f)
  | .swapst f => some (0x1b1, .e f)
  | .mms f => some (0x1b2, .e f)
  | .accz f => some (0x1b3, .e f)
  | .accrd f => some (0x1b4, .e f)
  | .accsc f => some (0x1b5, .e f)
  | .accld f => some (0x1b6, .e f)
  | .mestat f => some (0x1b7, .e f)
  | .br f => some (0x1C0, .x 0 f)
  | .bri f => some (0x1C0, .x 1 f)
  | .call f => some (0x1C0, .x 2 f)
  | .calli f => some (0x1C0, .x 3 f)
  | .ret f => some (0x1C0, .x 4 f)
  | .halt f => some (0x1C0, .x 5 f)
  | .trap f => some (0x1C0, .x 6 f)
  | .brk f => some (0x1C0, .x 7 f)
  | .launch f => some (0x1c8, .e f)
  | .lstat f => some (0x1c9, .e f)
  | .leaseSet f => some (0x1ca, .e f)
  | .leaseMeas f => some (0x1ca, .e f)
  | .snap f => some (0x1e0, .e f)
  | .tret f => some (0x1e1, .e f)
  | .injCode f => some (0x1e2, .e f)
  | .injData f => some (0x1e2, .e f)
  | .esc k f => some (0x1F0 + k.setWidth 9, .a f)
  | _ => none

/-- The OP and fields of a truss element operation (spec/07_truss_fabric.md Table 7.3). -/
def Instr.elem : Instr → Option (BitVec 5 × ElemWord)
  | .elemAdd x => some (0, x)
  | .elemSub x => some (1, x)
  | .elemMul x => some (2, x)
  | .elemFadd x => some (3, x)
  | .elemFmul x => some (4, x)
  | .elemFfma x => some (5, x)
  | .elemAnd x => some (6, x)
  | .elemOr x => some (7, x)
  | .elemXor x => some (8, x)
  | .elemShl x => some (9, x)
  | .elemShr x => some (10, x)
  | .elemCmpeq x => some (11, x)
  | .elemCmplt x => some (12, x)
  | .elemCmpltn x => some (13, x)
  | .elemMin x => some (14, x)
  | .elemMax x => some (15, x)
  | .elemSel x => some (16, x)
  | .elemMov x => some (17, x)
  | .elemDeq x => some (18, x)
  | .elemTag x => some (19, x)
  | .elemPset x => some (20, x)
  | .elemPclr x => some (21, x)
  | .elemCnt x => some (22, x)
  | .elemLd x => some (23, x)
  | .elemSt x => some (24, x)
  | .elemTas x => some (25, x)
  | .elemUpd x => some (26, x)
  | .elemGen x => some (27, x)
  | .elemSteer x => some (28, x)
  | .elemMerge x => some (29, x)
  | .elemJoin x => some (30, x)
  | .elemErr x => some (31, x)
  | _ => none
/-! ## Type codes (Table 3.11) -/

/-- Width in bits of a type code of Table 3.11 (0 for a code that is not one). -/
def typeWidth (t : Nat) : Nat :=
  if t = 0 ∨ t = 1 ∨ t = 4 ∨ t = 8 ∨ t = 9 ∨ t = 0xA then 32
  else if t = 2 ∨ t = 3 ∨ t = 5 ∨ t = 0xB then 64
  else if t = 6 then 128 else 0

/-- A signed integer type code (Table 3.11). -/
def typeSigned (t : Nat) : Bool := t = 0 || t = 2

/-- The type codes of Table 4.1 for an integer or logic opcode in its register form. -/
def intTypes (opc : Nat) : List Nat :=
  if opc ≤ 0x0B ∨ opc = 0x20 ∨ (0x24 ≤ opc ∧ opc ≤ 0x29) then [0, 1, 2, 3]
  else if opc = 0x0C ∨ opc = 0x0D then [0, 1]
  else if opc = 0x0E ∨ opc = 0x0F then [0, 2]
  else if (0x10 ≤ opc ∧ opc ≤ 0x1F) ∨ opc = 0x21 ∨ opc = 0x23 then [4, 5]
  else if opc = 0x22 ∨ (0x2B ≤ opc ∧ opc ≤ 0x2E) then [4]
  else if opc = 0x2A ∨ opc = 0x2F ∨ opc = 0x30 ∨ opc = 0x31 then [4, 5, 6]
  else if opc = 0x32 then [4, 5]
  else if opc = 0x33 then [4]
  else []

/-- The opcodes whose I form exists (R80, Table 4.1): the register form's opcode. -/
def hasImmediate (opc : Nat) : Bool :=
  opc ≤ 0x2A && !([0x0E, 0x0F, 0x15, 0x1C, 0x1D, 0x1E, 0x1F].contains opc)

/-- The type codes of Table 5.4 for the operation with this number in the order of Table 3.13: add min max and
or xor exch cas inc dec fadd bfadd2. -/
def atomTypes (op : Nat) : List Nat :=
  if op ≤ 2 then [0, 1, 2, 3] else if op ≤ 7 then [4, 5] else if op ≤ 9 then [1]
  else if op = 10 then [0xA] else if op = 11 then [8] else []

/-- The operation number of an ATOM or RED opcode (Table 3.13), in the order of `atomTypes`. -/
def atomOp (opc : Nat) : Option Nat :=
  if 0x128 ≤ opc ∧ opc ≤ 0x133 then some (opc - 0x128)
  else if 0x138 ≤ opc ∧ opc ≤ 0x13D then some (opc - 0x138)
  else if opc = 0x13E then some 8 else if opc = 0x13F then some 9
  else if opc = 0x140 then some 10 else if opc = 0x141 then some 11 else none

/-- A format code of Table 4.5 that names a number format (not a scale). -/
def cvtFormat (t : Nat) : Bool :=
  t ≤ 3 || t = 8 || t = 9 || t = 0xA || t = 0xB || (0x10 ≤ t && t ≤ 0x19)

/-- Width of a value of a conversion format in a lane (R116): 64 for s64, n64 and f64, otherwise 32. -/
def cvtWidth (t : Nat) : Nat := if t = 2 ∨ t = 3 ∨ t = 0xB then 64 else 32

/-- Element width w of `CVTPK` and `CVTSC` (R117): 16 for bf and hf, 4 for I4, N4 and E2M1, 8 for the others
that a packed word holds; 0 for a format that neither instruction packs. -/
def packWidth (t : Nat) : Nat :=
  if t = 8 ∨ t = 9 then 16
  else if t = 0x12 ∨ t = 0x13 ∨ t = 0x14 then 4
  else if t = 0x10 ∨ t = 0x11 ∨ (0x15 ≤ t ∧ t ≤ 0x18) then 8 else 0

/-- The formats that `ACCRD` and `ACCLD` name (spec/06 Table 6.8). -/
def accFormat (t : Nat) : Bool :=
  t ≤ 3 || t = 6 || t = 8 || t = 9 || t = 0xA || t = 0xB || t = 0x17 || t = 0x18 || t = 0x19

/-! ## Field values (R81) -/

/-- The floating group's MOD and RND fields hold assigned values (R76, R107): modifiers only on slots that the
instruction uses, no SAT where Table 4.4 says so, RND at most 0b101. -/
def floatFieldOk (opc : Nat) (f : FmtA) : Bool :=
  let oneOperand := opc = 0x87 || opc = 0x88 || opc = 0x89 || (0x8B ≤ opc && opc ≤ 0x8F) || opc = 0xA6
  let isCmp := (0x90 ≤ opc && opc ≤ 0x95) || (0xA8 ≤ opc && opc ≤ 0xAD) || (0xC8 ≤ opc && opc ≤ 0xCD)
  let noSat := isCmp || opc = 0x86
  (f.ext.extractLsb' 22 3).toNat ≤ 5 &&
  (!noSat || !f.mod.getLsbD 4) &&
  (!oneOperand || f.mod.extractLsb' 2 2 == 0) &&
  (opc != 0x86 || f.mod == 0)

/-- The pairing of type and OP that `REDUX` and `SCAN` allow (R120). -/
def reduxOk (t op rnd : Nat) : Bool :=
  ((t ≤ 3 || t = 0xA) && op ≤ 2 || (t = 4 || t = 5) && 3 ≤ op && op ≤ 5) && (rnd ≤ 5) && (t = 0xA || rnd = 0)

/-- Every field of a format A node holds a value that its description assigns (R81). -/
def fieldOkA (opc : Nat) (f : FmtA) : Bool :=
  let t := f.mod.toNat
  if opc ≤ 0x33 then (intTypes opc).contains t
  else if (0x80 ≤ opc && opc ≤ 0x95) || (0xA0 ≤ opc && opc ≤ 0xAD) || (0xC0 ≤ opc && opc ≤ 0xCD) then
    floatFieldOk opc f
  else if opc = 0xF0 then
    cvtFormat t && cvtFormat (f.ext.extractLsb' 16 5).toNat && (f.ext.extractLsb' 22 3).toNat ≤ 5
  else if opc = 0xF1 then
    packWidth t != 0 && (f.ext.extractLsb' 16 5).toNat = 0xA && (f.ext.extractLsb' 22 3).toNat ≤ 5 &&
      (f.ext.extractLsb' 0 2).toNat < 16 / packWidth t
  else if opc = 0xF2 then
    (0x10 ≤ t && t ≤ 0x18) && ((f.ext.extractLsb' 16 5).toNat = 0x1C || (f.ext.extractLsb' 16 5).toNat = 0x1D) &&
      (f.ext.extractLsb' 22 3).toNat ≤ 5 && (f.ext.extractLsb' 0 3).toNat < 32 / packWidth t
  else if 0xF8 ≤ opc && opc ≤ 0xFB then t = 4 || t = 5
  else if opc = 0x100 || opc = 0x103 || opc = 0x106 then t = 4 || t = 5
  else if opc = 0x101 || opc = 0x102 then t = 4
  else if opc = 0x104 || opc = 0x105 then
    reduxOk t (f.ext.extractLsb' 0 3).toNat (f.ext.extractLsb' 22 3).toNat
  else 0x1F0 ≤ opc

/-- Every field of a format I node holds an assigned value (R81, R98, R120). -/
def fieldOkI (opc : Nat) (f : FmtI) : Bool :=
  let t := f.mod.toNat
  if 0xFC ≤ opc ∧ opc ≤ 0xFF then t = 4 || t = 5 else (intTypes (opc - 0x40)).contains t

/-- Every field of a format K node holds an assigned value (Table 4.3). -/
def fieldOkK (opc : Nat) (f : FmtK) : Bool :=
  let t := f.mod.toNat
  if opc = 0x34 then t ≤ 5 else t = 5

/-- A SCOPE code that R77 assigns. -/
def scopeOk (s : Nat) : Bool := s ≤ 5

/-- Every field of a format M node holds an assigned value (R77, R133, R135, R136, R138). -/
def fieldOkM (opc : Nat) (f : FmtM) : Bool :=
  let width := (f.mod.extractLsb' 0 4).toNat
  let sx := f.mod.getLsbD 4
  let sp := f.space.toNat
  let ord := f.order.toNat
  let sc := f.scope.toNat
  let ca := f.cache.toNat
  if opc = 0x120 then
    width ≤ 4 && (!sx || width ≤ 1) && sp ≤ 4 && (ord = 0 || ord = 1) && scopeOk sc && (ord != 0 || sc = 0) &&
      (ca = 0 || sp = 0)
  else if opc = 0x121 then
    width ≤ 4 && !sx && sp ≤ 4 && (ord = 0 || ord = 2) && scopeOk sc && (ord != 0 || sc = 0) && (ca = 0 || sp = 0)
  else if opc = 0x122 then f.mod == 0 && ord = 0 && sc = 0 && sp = 0 && ca ≤ 1
  else if opc = 0x123 then f.mod == 0 && sp = 0 && ca = 0 && ord != 0 && scopeOk sc
  else if opc = 0x124 || opc = 0x125 then f.mod == 0 && ord = 0 && sc = 0 && ca = 0 && sp = 0
  else match atomOp opc with
    | some op => (atomTypes op).contains f.mod.toNat && sp ≤ 4 && ca = 0 && scopeOk sc && (ord != 0 || sc = 0)
    | none => false

/-- A memory space code that a barrier record may lie in (R141): every code of R77 but `.lps`. -/
def recordSpace (s : Nat) : Bool := s = 0 || s = 2 || s = 3 || s = 4

/-- `row0 + rows` of a row-stepped matrix command, rows being the field plus 1 (Table 6.7). -/
def matrixRowsOk (imm : BitVec 24) : Bool :=
  (imm.extractLsb' 6 6).toNat + (imm.extractLsb' 0 6).toNat + 1 ≤ 64

/-- Every field of a format E node holds an assigned value (Tables 5.7 to 5.14, 6.7). -/
def fieldOkE (opc : Nat) (f : FmtE) : Bool :=
  let m := f.mod.toNat
  let lo3 := (f.imm.extractLsb' 0 3).toNat
  if opc = 0x160 || opc = 0x162 then m ≤ 1 && recordSpace lo3
  else if opc = 0x163 || opc = 0x165 || opc = 0x166 then m = 0 && scopeOk lo3
  else if opc = 0x164 then m ≤ 1 && scopeOk lo3
  else if opc = 0x170 then m ≤ 8
  else if opc = 0x172 then m ≤ 2
  else if opc = 0x176 then m = 0 && (lo3 = 0 || lo3 = 4) && scopeOk (f.imm.extractLsb' 3 3).toNat
  else if opc = 0x180 || opc = 0x181 then m = 0 && scopeOk lo3
  else if opc = 0x1A2 then m ≤ 1
  else if opc = 0x1B0 then m ≤ 3
  else if opc = 0x1B2 then m ≤ 7 && matrixRowsOk f.imm
  else if opc = 0x1B3 || opc = 0x1B5 then m ≤ 1 && matrixRowsOk f.imm
  else if opc = 0x1B4 then
    m ≤ 1 && matrixRowsOk f.imm && accFormat (f.imm.extractLsb' 13 5).toNat &&
      (f.imm.extractLsb' 19 3).toNat ≤ 5 && !((f.imm.extractLsb' 13 5).toNat = 6 && f.imm.getLsbD 18)
  else if opc = 0x1B6 then m ≤ 1 && matrixRowsOk f.imm && accFormat (f.imm.extractLsb' 13 5).toNat
  else if opc = 0x1CA then m ≤ 1
  else if opc = 0x1E2 then m ≤ 1 && lo3 ≤ 4
  else m = 0

/-- R81 for one node: every field value is assigned. KIND has eight codes, all assigned. -/
def fieldOk (opc : Nat) : NodeFmt → Bool
  | .a f => fieldOkA opc f
  | .i f => fieldOkI opc f
  | .k f => fieldOkK opc f
  | .m f => fieldOkM opc f
  | .x _ _ => true
  | .e f => fieldOkE opc f

/-! ## Bits that must be zero, and fixed targets (R82, R125) -/

/-- The special registers of Table 3.2: number, width, writable. -/
def specialRegs : List (Nat × Nat × Bool) :=
  [(0x00, 32, false), (0x01, 32, false), (0x02, 32, false), (0x03, 32, false), (0x04, 32, false),
   (0x05, 32, false), (0x06, 32, false), (0x08, 32, true), (0x09, 32, false), (0x0A, 32, true),
   (0x0B, 32, false), (0x0C, 64, false), (0x0E, 64, false), (0x10, 32, false), (0x11, 64, false)]

/-- The width of a special register, none for a number that Table 3.2 does not list. -/
def specialWidth (n : Nat) : Option Nat := (specialRegs.lookup n).map (·.1)

/-- A special register that Table 3.2 marks RW. -/
def specialWritable (n : Nat) : Bool := ((specialRegs.lookup n).map (·.2)).getD false

/-- The null target (Table 3.9). -/
def nullTarget : BitVec 10 := 0x3FF

/-- A target of Table 3.9: an operand slot, a predicate input, a write slot, or nothing. -/
inductive Target where
  | slot (node : Nat) (which : Nat)
  | pred (node : Nat)
  | write (j : Nat)
  | nothing
  deriving DecidableEq, Repr

/-- Reads a target field (Table 3.9); none for a reserved value. -/
def target (t : BitVec 10) : Option Target :=
  let hi := (t.extractLsb' 8 2).toNat
  let mid := (t.extractLsb' 6 2).toNat
  let lo := (t.extractLsb' 0 6).toNat
  if t = nullTarget then some .nothing
  else if hi ≤ 2 then if mid = 0 then some (.slot lo hi) else none
  else if mid = 0 then if lo < 32 then some (.write lo) else none
  else if mid = 1 then some (.pred lo) else none

/-- A target that names a write slot or nothing, as a commit operation's T0 must (R33, R125). -/
def writeOrNull (t : BitVec 10) : Bool :=
  match target t with
  | some (.write _) => true
  | some .nothing => true
  | _ => false

/-- Bits that format A's description marks zero are zero, and the structural demands on the fields hold (R82,
R98, R104, R106, R107, R115, R120). -/
def zeroOkA (opc : Nat) (f : FmtA) : Bool :=
  let e := f.ext
  if opc = 0x0D then e.extractLsb' 3 22 == 0
  else if opc = 0x30 then e.extractLsb' 0 5 == 0
  else if opc = 0x32 then e.extractLsb' 8 17 == 0 && (specialWidth (e.extractLsb' 0 8).toNat).isSome
  else if opc = 0x33 then
    e.extractLsb' 8 17 == 0 && specialWritable (e.extractLsb' 0 8).toNat && f.t0 == nullTarget && f.t1 == nullTarget
  else if opc ≤ 0x33 then e == 0
  else if (0x80 ≤ opc && opc ≤ 0x95) || (0xA0 ≤ opc && opc ≤ 0xAD) then e.extractLsb' 0 22 == 0
  else if 0xC0 ≤ opc && opc ≤ 0xCD then e.extractLsb' 0 21 == 0
  else if opc = 0xF0 then e.extractLsb' 0 16 == 0
  else if opc = 0xF1 then e.extractLsb' 4 12 == 0 && e.extractLsb' 2 1 == 0
  else if opc = 0xF2 then e.extractLsb' 3 13 == 0
  else if 0xF8 ≤ opc && opc ≤ 0xFB then e.extractLsb' 1 24 == 0
  else if opc = 0x104 then e.extractLsb' 3 19 == 0
  else if opc = 0x105 then e.extractLsb' 4 18 == 0
  else if 0x1F0 ≤ opc then true
  else e == 0

/-- Format M: held operations and `FENCE` have T0 = 0x3FF, `ATOM` a write slot or 0x3FF (Table 5.1); `FENCE` has
a zero OFFSET (R138). -/
def zeroOkM (opc : Nat) (f : FmtM) : Bool :=
  if opc = 0x120 then true
  else if 0x128 ≤ opc && opc ≤ 0x133 then writeOrNull f.t0
  else f.t0 == nullTarget && (opc != 0x123 || f.ofs == 0)

/-- Format X: the offset bits that the kind does not use are zero (R78). -/
def zeroOkX (kind : BitVec 3) (f : FmtX) : Bool :=
  if kind = 0 ∨ kind = 2 then true
  else if kind = 6 ∨ kind = 7 then f.ofs.extractLsb' 16 32 == 0
  else f.ofs == 0

/-- How many low bits of the resource index a format E opcode uses; the bits above are zero. `WAITADDR` takes no
slot, but R145 gives every event instruction a slot number and excepts only three from it. -/
def resBits (opc : Nat) (f : FmtE) : Nat :=
  if 0x160 ≤ opc ∧ opc ≤ 0x167 then 4
  else if opc = 0x170 ∨ opc = 0x171 ∨ opc = 0x173 ∨ opc = 0x176 then 4
  else if opc = 0x181 ∨ opc = 0x182 then 4
  else if opc = 0x1A2 then 3
  else if opc = 0x1A8 then 4
  else if (opc = 0x1B2 ∨ opc = 0x1B4) ∧ f.imm.getLsbD 12 then 4
  else 0

/-- The bits of IMM24 that a format E opcode uses, as a mask; the others are zero. Under an unassigned MOD (R81) no bit is
zero that some assigned one uses. -/
def immMask (opc : Nat) (f : FmtE) : BitVec 24 :=
  if opc = 0x160 ∨ opc = 0x162 ∨ opc = 0x163 ∨ opc = 0x164 ∨ opc = 0x165 ∨ opc = 0x166 then 0x7
  else if opc = 0x170 then
    if f.mod = 0 ∨ f.mod = 2 ∨ f.mod = 3 ∨ f.mod = 4 then 0xF else if f.mod = 1 ∨ 9 ≤ f.mod then 0xFF else 0
  else if opc = 0x172 ∨ opc = 0x174 ∨ opc = 0x175 then 0xFFFF
  else if opc = 0x176 then 0x3F
  else if opc = 0x180 ∨ opc = 0x181 then 0x7
  else if opc = 0x1A2 ∨ (0x1A8 ≤ opc ∧ opc ≤ 0x1AB) then 0xF
  else if opc = 0x1B2 then 0x1FFF
  else if opc = 0x1B3 ∨ opc = 0x1B5 then 0xFFF
  else if opc = 0x1B4 then 0x3FFFFF
  else if opc = 0x1B6 then 0x3EFFF
  else if opc = 0x1CA then if f.mod = 1 then 0 else 0xFF
  else if opc = 0x1E0 then 0xFFFF
  else if opc = 0x1E2 then if f.mod = 1 then 0x7 else 0xFF07
  else 0

/-- Read-class format E opcodes, whose T0 may be any target (Table 5.1). -/
def readClassE (opc : Nat) : Bool :=
  [0x165, 0x166, 0x167, 0x182, 0x1A1, 0x1AB, 0x1B7, 0x1C9].contains opc

/-- Commit-class format E opcodes (Table 5.1). -/
def commitClassE (opc : Nat) : Bool := [0x180, 0x181, 0x1C8].contains opc

/-- Format E: unused resource and IMM24 bits are zero, and T0 fits the class (R82, Table 5.1, R163). -/
def zeroOkE (opc : Nat) (f : FmtE) : Bool :=
  (f.res.toNat < 2 ^ resBits opc f) && (f.imm &&& ~~~(immMask opc f) == 0) &&
  (readClassE opc || (commitClassE opc && writeOrNull f.t0) || f.t0 == nullTarget)

/-- R82 for one node taken alone. -/
def zeroOk (opc : Nat) : NodeFmt → Bool
  | .a f => zeroOkA opc f
  | .i _ => true
  | .k _ => true
  | .m f => zeroOkM opc f
  | .x k f => zeroOkX k f
  | .e f => zeroOkE opc f

/-! ## Slots and results (R96) -/

/-- The widths of the operand slots a node uses and of the results its targets T0 and T1 receive; none where
the slot or result does not exist. -/
structure NodeShape where
  a : Option Nat
  b : Option Nat
  c : Option Nat
  r0 : Option Nat
  r1 : Option Nat
  deriving DecidableEq, Repr

/-- A node that delivers one width to both targets. -/
def NodeShape.both (a b c : Option Nat) (r : Nat) : NodeShape := ⟨a, b, c, some r, some r⟩

/-- A node with one target. -/
def NodeShape.one (a b c r : Option Nat) : NodeShape := ⟨a, b, c, r, none⟩

/-- Slots and result of an integer or logic opcode (Table 4.1), `n` the type's width; `imm` when operand b is
the immediate. -/
def intShape (opc n : Nat) (imm : Bool) : NodeShape :=
  let b (w : Nat) : Option Nat := if imm then none else some w
  if opc ≤ 0x05 ∨ (0x08 ≤ opc ∧ opc ≤ 0x0B) ∨ (0x10 ≤ opc ∧ opc ≤ 0x14) then .both (some n) (b n) none n
  else if opc = 0x06 ∨ opc = 0x07 then .both (some n) (b n) (some n) n
  else if opc = 0x0C ∨ opc = 0x22 then .both (some 32) (b 32) (some 32) 32
  else if opc = 0x0D then .both (some 64) (b 32) none 64
  else if opc = 0x0E ∨ opc = 0x0F ∨ opc = 0x15 ∨ opc = 0x1F then .both (some n) none none n
  else if (0x16 ≤ opc ∧ opc ≤ 0x1A) ∨ opc = 0x20 then .both (some n) (b 32) none n
  else if opc = 0x1B ∨ opc = 0x21 then .both (some n) (b 32) (some n) n
  else if 0x1C ≤ opc ∧ opc ≤ 0x1E then .both (some n) none none 32
  else if opc = 0x23 ∨ (0x24 ≤ opc ∧ opc ≤ 0x29) then .both (some n) (b n) none 32
  else if opc = 0x2A then .both (some n) (b n) (some 32) n
  else if 0x2B ≤ opc ∧ opc ≤ 0x2D then .both (some 32) (some 32) none 32
  else if opc = 0x2E then .both (some 32) none none 32
  else if opc = 0x2F ∨ opc = 0x30 then .both (some n) none none n
  else if opc = 0x31 ∨ opc = 0x32 then .both none none none n
  else .one (some 32) none none none

/-- Slots and result of a floating-point opcode (Table 4.4). -/
def floatShape (opc : Nat) : NodeShape :=
  if 0xA0 ≤ opc ∧ opc ≤ 0xAD then
    if opc = 0xA2 then .both (some 64) (some 64) (some 64) 64
    else if opc = 0xA6 then .both (some 64) none none 64
    else if 0xA8 ≤ opc then .both (some 64) (some 64) none 32
    else .both (some 64) (some 64) none 64
  else if opc = 0x83 ∨ opc = 0xC2 then .both (some 32) (some 32) (some 32) 32
  else if 0x86 ≤ opc ∧ opc ≤ 0x8F ∧ opc ≠ 0x8A then .both (some 32) none none 32
  else .both (some 32) (some 32) none 32

/-- Slots and results of a format A node. -/
def shapeA (opc : Nat) (f : FmtA) : NodeShape :=
  let n := typeWidth f.mod.toNat
  if opc ≤ 0x33 then intShape opc n false
  else if 0x80 ≤ opc ∧ opc ≤ 0xCD then floatShape opc
  else if opc = 0xF0 then
    .both (some (cvtWidth (f.ext.extractLsb' 16 5).toNat)) none none (cvtWidth f.mod.toNat)
  else if opc = 0xF1 then .both (some 32) (some 32) (if f.ext.getLsbD 3 then some 32 else none) 32
  else if opc = 0xF2 then .both (some 32) (some 32) (if f.ext.getLsbD 21 then none else some 32) 32
  else if 0xF8 ≤ opc ∧ opc ≤ 0xFB then .both (some n) (some 32) none n
  else if opc = 0x100 then .both (some 32) none none n
  else if opc = 0x101 ∨ opc = 0x102 then .both (some 32) none none 32
  else if opc = 0x103 then .both (some n) none none 32
  else if opc = 0x104 ∨ opc = 0x105 then .both (some n) none none n
  else if opc = 0x106 then .both (some n) none none 64
  else ⟨none, none, none, none, none⟩

/-- Slots and results of a format M node (R133, R135, R136, R138). -/
def shapeM (opc : Nat) (f : FmtM) : NodeShape :=
  let w := (f.mod.extractLsb' 0 4).toNat
  let data := if w = 3 then 64 else if w = 4 then 128 else 32
  let n := typeWidth f.mod.toNat
  if opc = 0x120 then .one (some 64) none none (some data)
  else if opc = 0x121 then .one (some 64) (some data) none none
  else if opc = 0x122 ∨ opc = 0x124 ∨ opc = 0x125 then .one (some 64) none none none
  else if opc = 0x123 then .one none none none none
  else if opc = 0x12F then .one (some 64) (some n) (some n) (some n)
  else if opc ≤ 0x133 then .one (some 64) (some n) none (some n)
  else .one (some 64) (some n) none none

/-- Slots and results of a format E node (Tables 5.7 to 5.14, 6.7). -/
def shapeE (opc : Nat) (f : FmtE) : NodeShape :=
  let w32 : Option Nat := some 32
  let w64 : Option Nat := some 64
  if opc = 0x160 then .one w64 w32 none none
  else if opc = 0x162 ∨ opc = 0x170 ∨ opc = 0x1A8 ∨ opc = 0x1E1 then .one w64 none none none
  else if opc = 0x164 ∨ opc = 0x173 ∨ opc = 0x1A0 ∨ opc = 0x1A2 ∨ opc = 0x1B5 then .one w32 none none none
  else if opc = 0x165 ∨ opc = 0x166 ∨ opc = 0x1C9 then .one w32 none none w32
  else if opc = 0x167 then .one none none none (some 128)
  else if opc = 0x176 then .one w64 w32 none none
  else if opc = 0x180 then .one w32 (some 128) none w32
  else if opc = 0x181 then .one none none none (some 128)
  else if opc = 0x182 ∨ opc = 0x1A1 ∨ opc = 0x1AB ∨ opc = 0x1B7 then .one none none none w32
  else if opc = 0x1B0 ∨ opc = 0x1B2 then .one w32 w32 w32 none
  else if opc = 0x1B4 ∨ opc = 0x1B6 then .one w32 w32 none none
  else if opc = 0x1C8 then .one w64 none none w32
  else if opc = 0x1E2 then .one w64 (if f.mod = 1 then w32 else none) none none
  else .one none none none none

/-- Slots and results of a node. -/
def nodeShape (opc : Nat) : NodeFmt → NodeShape
  | .a f => shapeA opc f
  | .i f =>
    if 0xFC ≤ opc ∧ opc ≤ 0xFF then .both (some (typeWidth f.mod.toNat)) none none (typeWidth f.mod.toNat)
    else intShape (opc - 0x40) (typeWidth f.mod.toNat) true
  | .k f => if opc = 0x34 then .one none none none (some (typeWidth f.mod.toNat))
            else .one (some 32) none none (some 64)
  | .m f => shapeM opc f
  | .x k _ => if k = 1 ∨ k = 3 then .one (some 64) none none none else .one none none none none
  | .e f => shapeE opc f

/-- The predicate mode of a node (R35). -/
def NodeFmt.pm : NodeFmt → BitVec 2
  | .a f => f.pm | .i f => f.pm | .k f => f.pm | .m f => f.pm | .x _ f => f.pm | .e f => f.pm

/-- The LSID of a node of format M or E (R79). -/
def NodeFmt.lsid : NodeFmt → Option Nat
  | .m f => some f.lsid.toNat
  | .e f => some f.lsid.toNat
  | _ => none

/-- The target fields of a node with the width each receives, in order (Table 3.10, R105 for MOV4). -/
def nodeTargets (opc : Nat) (f : NodeFmt) : List (BitVec 10 × Nat) :=
  let s := nodeShape opc f
  match f with
  | .a g =>
    if opc = 0x33 then []
    else if opc = 0x30 then
      [g.t0, g.t1, g.ext.extractLsb' 15 10, g.ext.extractLsb' 5 10].map (·, s.r0.getD 32)
    else [(g.t0, s.r0.getD 32), (g.t1, s.r1.getD 32)]
  | .i g => [(g.t0, s.r0.getD 32), (g.t1, s.r1.getD 32)]
  | .k g => [(g.t0, s.r0.getD 32)]
  | .m g => match s.r0 with | some w => [(g.t0, w)] | none => []
  | .x _ _ => []
  | .e g => match s.r0 with | some w => [(g.t0, w)] | none => []

/-! ## Element instructions (R204, R208, R220) -/

/-- Which sources an element operation uses (Table 7.3): a and b. -/
def elemUses (op : Nat) (x : ElemWord) : Bool × Bool :=
  if op ≤ 16 ∨ op = 24 ∨ op = 26 ∨ op = 29 then (true, true)
  else if op = 17 ∨ op = 18 ∨ op = 20 ∨ op = 23 ∨ op = 25 ∨ op = 28 then (true, false)
  else if op = 30 then (x.srcb = 1, false)
  else (false, false)

/-- A source that the operation uses names a local, an input in NEED, or for b the immediate (R202, Table 7.2). -/
def sourceOk (need : BitVec 4) (src : BitVec 3) : Bool := 4 ≤ src.toNat || need.getLsbD src.toNat

/-- One instruction of an image passes the checks of R220: used sources name a local or an input in NEED, unused
fields are zero, DEQ is a subset of NEED, HTEST is zero outside NEED, and the rules of Table 7.3, R204, R206, R207
and R208 on LDST, IMM, OTAG and the selectors hold. -/
def elemOk (op : Nat) (x : ElemWord) : Bool :=
  let (ua, ub) := elemUses op x
  let ldst := x.ldst.toNat
  let imm := x.imm
  (x.deq &&& ~~~x.need == 0) &&
  ([0, 1, 2, 3].all fun k => x.need.getLsbD k || x.htest.extractLsb' (2 * k) 2 == 0) &&
  (if ua then sourceOk x.need x.srca else x.srca == 0) &&
  (if op = 30 then x.srcb.toNat ≤ 1 else if ub then sourceOk x.need x.srcb else x.srcb == 0) &&
  ldst ≤ 4 &&
  (if op = 5 ∨ op = 22 ∨ op = 30 then ldst ≤ 3 else true) &&
  (if op = 27 then ldst ≤ 2 else true) &&
  (if op = 18 ∨ op = 20 ∨ op = 21 ∨ op = 31 then ldst = 4 else true) &&
  (if op = 18 then x.otag == 0 else true) &&
  (if op = 20 ∨ op = 21 then x.omask == 0 else true) &&
  (if op = 16 then imm.extractLsb' 3 13 == 0
   else if op = 26 then (imm.extractLsb' 3 13 == 0 || x.srcb == 7) && imm.extractLsb' 0 3 != 7
   else if op = 28 then imm.extractLsb' 3 5 == 0 && imm.extractLsb' 12 4 == 0
   else if op = 19 ∨ op = 22 ∨ op = 23 ∨ op = 24 ∨ op = 27 ∨ op = 30 ∨ op = 31 then true
   else if ub ∧ x.srcb = 7 then true
   else imm == 0) &&
  (if op = 29 then
     x.srca.toNat ≤ 3 && x.srcb.toNat ≤ 3 && x.srca != x.srcb && x.need.getLsbD x.srca.toNat &&
       x.need.getLsbD x.srcb.toNat && x.htest.extractLsb' (2 * x.srca.toNat) 2 == 3 &&
       x.htest.extractLsb' (2 * x.srcb.toNat) 2 == 3
   else true)

/-! ## Well-formed steps -/

/-- A warp name that exists: bay below 192, slot below 32, half below 2 (R17, Table 1.1, R29). -/
def WarpId.ok (w : WarpId) : Bool := w.bay < 192 && w.slot < 32 && w.half < 2

/-- A port name that exists (R196). -/
def PortId.ok (p : PortId) : Bool := p.bay < 192 && p.row < 8

/-- An element name that exists (R196). -/
def ElemId.ok (e : ElemId) : Bool := e.bay < 192 && e.row < 8 && e.col < 8

/-- A register access of 4 or 8 bytes, naturally aligned, inside the 64 MiB of BAR0 (R352, Table 15.1). -/
def RegWrite.ok (r : RegWrite) : Bool :=
  (r.size = 4 || r.size = 8) && r.ofs % r.size = 0 && r.ofs + r.size ≤ 0x400_0000

/-- The opcode of a node is one of those where MOD decides between several rows of the table. -/
def modSelects (i : Instr) : Bool :=
  match i with
  | .evmaskSet f => f.mod == 0
  | .evmaskClr f => f.mod == 1
  | .evmaskWr f => f.mod == 2
  | .leaseSet f => f.mod == 0
  | .leaseMeas f => f.mod == 1
  | .injCode f => f.mod == 0
  | .injData f => f.mod == 1
  | _ => true

/-- The operands of an event name agents and units that exist. -/
def eventOk : Instr → Bool
  | .blockDispatch w | .captureComplete w | .blockCommit w | .engineError w | .preemptBlockTimeout w
  | .waitanyWake w | .waitaddrWake w => w.ok
  | .exportReturn p | .portLoadRequest p | .portLoadReply p | .sinkDequeue p | .sinkRecheck p | .streamInWord p
  | .streamOutWord p => p.ok
  | .teamRetire bay _ _ => bay < 192
  | .reservation level => level < 8
  | .leaseTurnEnd bay window => bay < 192 && window < 4
  | .copyChunkLand c | .copyCompletion c => c.bay < 192
  | .leaseIntervalEnd bay | .copyRequestStart bay
  | .matrixRowGroupComplete bay | .autoBayRetire bay | .planeLoadComplete bay => bay < 192
  | .quiescenceScan bay _ | .trussImageLoad bay _ | .configPacketDeliver bay _ => bay < 192
  | .recordDeferredWrite c | .tlbInvalidationDone c | .ctxSaveDone c | .safeLate c => c < 4096
  | .resumeWrite r | .tlbInvWrite r | .poisClrEntry r | .poisClrAll r | .ctxSave r | .ctxRestore r | .brkallWrite r
  | .dbgStepWrite r | .safeStopRequest r | .safeRelease r | .queueDoorbell r | .queueSchedWrite r
  | .queueConfigWrite r | .registerWrite r | .attRequest r | .powerRegisterWrite r | .sillDropWrite r
  | .bayRetireWrite r | .fwUpdWrite r | .snapArmWrite r => r.ok
  | .bar2Write o d => o + d.length ≤ 2 ^ 30
  | .bar2Read o n => o + n ≤ 2 ^ 30
  | .volingWriteReceive m => m.src < 4096 && m.stream < 4096 && m.seq < 2 ^ 48
  | .volingAckReceive p st q _ => p < 4096 && st < 4096 && q < 2 ^ 48
  | .volingLinkFailure p st => p < 4096 && st < 4096
  | .bankCountInterval st b => st < 12 && b < 256
  | .driftLineMove st => st < 12
  | .powerInterval d => d.req.length = 6
  | .linkLaneReplace l => (match l with | .voling p => p < 16 | .die d => d < 4)
  | .moduleLoad c b => c < 4096 && b.toNat % 64 = 0
  | .handlerTranslate t => t.ctx < 4096 && t.typ < 4096
  | .tokenHop e k => e.ok && k < 4
  | .rcRegisterRead o n => (n = 4 || n = 8) && o % n = 0
  | .fusedMinimumRaise c _ => c < 4
  | .pageWalk q => q.ctx < 4096
  | .softError e => (match e.site with
    | .pad bay _ | .l1 bay _ | .plane bay _ _ => bay < 192
    | .lane w r l => w.ok && r < 256 && l < 64
    | .uniform w r => w.ok && r < 64
    | .sram e i => e.ok && i < 1024
    | .firing e => e.ok
    | .copyBuffer bay _ => bay < 192 && (match e.kind with | .silent _ _ => false | _ => true)
    | .dram _ | .ridge _ => true)
  | _ => true

/-- A well-formed step: a node passes R81 and R82 taken alone, an element operation passes R220, and an event
names agents that exist. -/
def Instr.wf (i : Instr) : Bool :=
  match i.node, i.elem with
  | some (opc, f), _ => fieldOk opc.toNat f && zeroOk opc.toNat f && modSelects i
  | none, some (op, x) => elemOk op.toNat x
  | none, none => eventOk i

end Sys2Proof
end

