-- ==== Sys2Proof/Decode.lean ====
section
/-! DEFINITION. The decoder and the encoder: the 64-bit words of Gelpi nodes (spec/03_blocks_and_encoding.md
Tables 3.9 to 3.14, R75 to R82) and the 96-bit words of truss element operations (spec/07_truss_fabric.md
Tables 7.2, 7.3). The decoder is total and rejects by name. -/

namespace Sys2Proof

/-- Why a word is not the word of an instruction. -/
inductive Reject where
  /-- an OPC that Tables 3.12 to 3.14 do not assign (R81) -/
  | unassignedOpc
  /-- a field with a value that its description leaves unassigned (R81) -/
  | unassignedField
  /-- a bit that must be zero is not, or a structural demand on the word fails (R82, R220) -/
  | reservedBits
  deriving DecidableEq, Repr

/-! ## Fields (Table 3.10) -/

/-- The fields of format A. -/
def unpackA (w : Double) : FmtA :=
  ⟨w.extractLsb' 53 2, w.extractLsb' 48 5, w.extractLsb' 38 10, w.extractLsb' 28 10, w.extractLsb' 25 3,
   w.extractLsb' 0 25⟩

/-- The fields of format I. -/
def unpackI (w : Double) : FmtI :=
  ⟨w.extractLsb' 53 2, w.extractLsb' 48 5, w.extractLsb' 38 10, w.extractLsb' 28 10, w.extractLsb' 25 3,
   w.extractLsb' 0 25⟩

/-- The fields of format K. -/
def unpackK (w : Double) : FmtK :=
  ⟨w.extractLsb' 53 2, w.extractLsb' 48 5, w.extractLsb' 38 10, w.extractLsb' 35 3, w.extractLsb' 0 32⟩

/-- The fields of format M. -/
def unpackM (w : Double) : FmtM :=
  ⟨w.extractLsb' 53 2, w.extractLsb' 48 5, w.extractLsb' 38 10, w.extractLsb' 32 6, w.extractLsb' 29 3,
   w.extractLsb' 27 2, w.extractLsb' 24 3, w.extractLsb' 22 2, w.extractLsb' 20 2, w.extractLsb' 0 20⟩

/-- The fields of format X but for KIND. -/
def unpackX (w : Double) : FmtX :=
  ⟨w.extractLsb' 53 2, w.extractLsb' 51 2, w.extractLsb' 0 48⟩

/-- The fields of format E. -/
def unpackE (w : Double) : FmtE :=
  ⟨w.extractLsb' 53 2, w.extractLsb' 48 5, w.extractLsb' 38 10, w.extractLsb' 32 6, w.extractLsb' 24 8,
   w.extractLsb' 0 24⟩

/-- The fields of an element instruction (Table 7.2). -/
def unpackElem (w : BitVec 96) : ElemWord :=
  ⟨w.extractLsb' 88 8, w.extractLsb' 80 8, w.extractLsb' 76 4, w.extractLsb' 68 8, w.extractLsb' 60 3,
   w.extractLsb' 57 3, w.extractLsb' 53 4, w.extractLsb' 49 4, w.extractLsb' 47 2, w.extractLsb' 39 8,
   w.extractLsb' 31 8, w.extractLsb' 15 16, w.extractLsb' 12 3⟩

/-- The word of a node from its opcode and fields (Table 3.10). -/
def packNode (opc : BitVec 9) : NodeFmt → Double
  | .a f => (opc ++ f.pm ++ f.mod ++ f.t0 ++ f.t1 ++ f.lat ++ f.ext).setWidth 64
  | .i f => (opc ++ f.pm ++ f.mod ++ f.t0 ++ f.t1 ++ f.lat ++ f.imm).setWidth 64
  | .k f => (opc ++ f.pm ++ f.mod ++ f.t0 ++ f.lat ++ (0 : BitVec 3) ++ f.imm).setWidth 64
  | .m f =>
    (opc ++ f.pm ++ f.mod ++ f.t0 ++ f.lsid ++ f.space ++ f.order ++ f.scope ++ f.cache ++ f.lat ++ f.ofs).setWidth 64
  | .x kind f => (opc ++ f.pm ++ f.exit ++ kind ++ f.ofs).setWidth 64
  | .e f => (opc ++ f.pm ++ f.mod ++ f.t0 ++ f.lsid ++ f.res ++ f.imm).setWidth 64

/-- The word of an element instruction (Table 7.2). -/
def packElem (op : BitVec 5) (x : ElemWord) : BitVec 96 :=
  (x.pcare ++ x.pval ++ x.need ++ x.htest ++ op ++ x.srca ++ x.srcb ++ x.deq ++ x.omask ++ x.otag ++ x.psetf ++
    x.pclrf ++ x.imm ++ x.ldst ++ (0 : BitVec 12)).setWidth 96

/-! ## The opcode map (Tables 3.12 to 3.14) -/

/-- The format A opcodes (Tables 3.12, 3.13) and the nodes they are. -/
noncomputable def opsA : List (Nat × (FmtA → Instr)) :=
  [(0x0, Instr.add), (0x1, Instr.sub), (0x2, Instr.addsat), (0x3, Instr.subsat),
   (0x4, Instr.mul), (0x5, Instr.mulhi), (0x6, Instr.mad), (0x7, Instr.madhi),
   (0x8, Instr.div), (0x9, Instr.rem), (0xa, Instr.min), (0xb, Instr.max),
   (0xc, Instr.sad), (0xd, Instr.lea), (0xe, Instr.neg), (0xf, Instr.abs)] ++
  [(0x10, Instr.and), (0x11, Instr.or), (0x12, Instr.xor), (0x13, Instr.andn),
   (0x14, Instr.orn), (0x15, Instr.not), (0x16, Instr.shl), (0x17, Instr.shr),
   (0x18, Instr.sar), (0x19, Instr.rol), (0x1a, Instr.ror), (0x1b, Instr.fshl),
   (0x1c, Instr.popc), (0x1d, Instr.clz), (0x1e, Instr.ctz), (0x1f, Instr.brev)] ++
  [(0x20, Instr.bfe), (0x21, Instr.bfi), (0x22, Instr.prmt), (0x23, Instr.tst),
   (0x24, Instr.cmpEq), (0x25, Instr.cmpNe), (0x26, Instr.cmpLt), (0x27, Instr.cmpLe),
   (0x28, Instr.cmpGt), (0x29, Instr.cmpGe), (0x2a, Instr.sel), (0x2b, Instr.pand),
   (0x2c, Instr.por), (0x2d, Instr.pxor), (0x2e, Instr.pnot), (0x2f, Instr.mov)] ++
  [(0x30, Instr.mov4), (0x31, Instr.null), (0x32, Instr.srd), (0x33, Instr.swr),
   (0x80, Instr.fadd), (0x81, Instr.fsub), (0x82, Instr.fmul), (0x83, Instr.ffma),
   (0x84, Instr.fmin), (0x85, Instr.fmax), (0x86, Instr.fclass), (0x87, Instr.frcp),
   (0x88, Instr.frsq), (0x89, Instr.fsqrt), (0x8a, Instr.fdiv), (0x8b, Instr.fexp2)] ++
  [(0x8c, Instr.flog2), (0x8d, Instr.fsin), (0x8e, Instr.fcos), (0x8f, Instr.ftanh),
   (0x90, Instr.fcmpEq), (0x91, Instr.fcmpNe), (0x92, Instr.fcmpLt), (0x93, Instr.fcmpLe),
   (0x94, Instr.fcmpGt), (0x95, Instr.fcmpGe), (0xa0, Instr.dadd), (0xa1, Instr.dmul),
   (0xa2, Instr.dfma), (0xa3, Instr.dmin), (0xa4, Instr.dmax), (0xa5, Instr.ddiv)] ++
  [(0xa6, Instr.dsqrt), (0xa8, Instr.dcmpEq), (0xa9, Instr.dcmpNe), (0xaa, Instr.dcmpLt),
   (0xab, Instr.dcmpLe), (0xac, Instr.dcmpGt), (0xad, Instr.dcmpGe), (0xc0, Instr.hadd2),
   (0xc1, Instr.hmul2), (0xc2, Instr.hfma2), (0xc3, Instr.hmin2), (0xc4, Instr.hmax2),
   (0xc8, Instr.hcmp2Eq), (0xc9, Instr.hcmp2Ne), (0xca, Instr.hcmp2Lt), (0xcb, Instr.hcmp2Le)] ++
  [(0xcc, Instr.hcmp2Gt), (0xcd, Instr.hcmp2Ge), (0xf0, Instr.cvt), (0xf1, Instr.cvtpk),
   (0xf2, Instr.cvtsc), (0xf8, Instr.shflIdx), (0xf9, Instr.shflUp), (0xfa, Instr.shflDown),
   (0xfb, Instr.shflXor), (0x100, Instr.ballot), (0x101, Instr.voteAny), (0x102, Instr.voteAll),
   (0x103, Instr.voteUni), (0x104, Instr.redux), (0x105, Instr.scan), (0x106, Instr.matchLanes)]

/-- The format I opcodes (Tables 3.12, 3.13) and the nodes they are. -/
def opsI : List (Nat × (FmtI → Instr)) :=
  [(0x40, Instr.addI), (0x41, Instr.subI), (0x42, Instr.addsatI), (0x43, Instr.subsatI),
   (0x44, Instr.mulI), (0x45, Instr.mulhiI), (0x46, Instr.madI), (0x47, Instr.madhiI),
   (0x48, Instr.divI), (0x49, Instr.remI), (0x4a, Instr.minI), (0x4b, Instr.maxI),
   (0x4c, Instr.sadI), (0x4d, Instr.leaI), (0x50, Instr.andI), (0x51, Instr.orI)] ++
  [(0x52, Instr.xorI), (0x53, Instr.andnI), (0x54, Instr.ornI), (0x56, Instr.shlI),
   (0x57, Instr.shrI), (0x58, Instr.sarI), (0x59, Instr.rolI), (0x5a, Instr.rorI),
   (0x5b, Instr.fshlI), (0x60, Instr.bfeI), (0x61, Instr.bfiI), (0x62, Instr.prmtI),
   (0x63, Instr.tstI), (0x64, Instr.cmpEqI), (0x65, Instr.cmpNeI), (0x66, Instr.cmpLtI)] ++
  [(0x67, Instr.cmpLeI), (0x68, Instr.cmpGtI), (0x69, Instr.cmpGeI), (0x6a, Instr.selI),
   (0xfc, Instr.shflIdxI), (0xfd, Instr.shflUpI), (0xfe, Instr.shflDownI), (0xff, Instr.shflXorI)]

/-- The format K opcodes (Tables 3.12, 3.13) and the nodes they are. -/
def opsK : List (Nat × (FmtK → Instr)) :=
  [(0x34, Instr.movi), (0x35, Instr.movhi)]

/-- The format M opcodes (Tables 3.12, 3.13) and the nodes they are. -/
def opsM : List (Nat × (FmtM → Instr)) :=
  [(0x120, Instr.ld), (0x121, Instr.st), (0x122, Instr.pref), (0x123, Instr.fence),
   (0x124, Instr.cinv), (0x125, Instr.cwb), (0x128, Instr.atomAdd), (0x129, Instr.atomMin),
   (0x12a, Instr.atomMax), (0x12b, Instr.atomAnd), (0x12c, Instr.atomOr), (0x12d, Instr.atomXor),
   (0x12e, Instr.atomExch), (0x12f, Instr.atomCas), (0x130, Instr.atomInc), (0x131, Instr.atomDec)] ++
  [(0x132, Instr.atomFadd), (0x133, Instr.atomBfadd2), (0x138, Instr.redAdd), (0x139, Instr.redMin),
   (0x13a, Instr.redMax), (0x13b, Instr.redAnd), (0x13c, Instr.redOr), (0x13d, Instr.redXor),
   (0x13e, Instr.redInc), (0x13f, Instr.redDec), (0x140, Instr.redFadd), (0x141, Instr.redBfadd2)]

/-- The format E opcodes with one node each (Tables 3.13, 3.14). -/
def opsE : List (Nat × (FmtE → Instr)) :=
  [(0x160, Instr.binit), (0x161, Instr.bret), (0x162, Instr.bbind), (0x163, Instr.barv),
   (0x164, Instr.barx), (0x165, Instr.bgen), (0x166, Instr.bpar), (0x167, Instr.bstat),
   (0x170, Instr.evbind), (0x171, Instr.evunb), (0x173, Instr.evpost), (0x174, Instr.evclr),
   (0x175, Instr.waitany), (0x176, Instr.waitaddr), (0x180, Instr.send), (0x181, Instr.tryrecv)] ++
  [(0x182, Instr.mbstat), (0x1a0, Instr.cpkick), (0x1a1, Instr.cpstat), (0x1a2, Instr.strbind),
   (0x1a8, Instr.tload), (0x1a9, Instr.tstart), (0x1aa, Instr.tstop), (0x1ab, Instr.tstat),
   (0x1b0, Instr.ldstat), (0x1b1, Instr.swapst), (0x1b2, Instr.mms), (0x1b3, Instr.accz),
   (0x1b4, Instr.accrd), (0x1b5, Instr.accsc), (0x1b6, Instr.accld), (0x1b7, Instr.mestat)] ++
  [(0x1c8, Instr.launch), (0x1c9, Instr.lstat), (0x1e0, Instr.snap), (0x1e1, Instr.tret)]

/-- The exits by KIND (R78). -/
def opsX : List (Nat × (FmtX → Instr)) :=
  [(0, Instr.br), (1, Instr.bri), (2, Instr.call), (3, Instr.calli),
   (4, Instr.ret), (5, Instr.halt), (6, Instr.trap), (7, Instr.brk)]

/-- The element operations by OP (spec/07_truss_fabric.md Table 7.3). -/
def opsElem : List (Nat × (ElemWord → Instr)) :=
  [(0, Instr.elemAdd), (1, Instr.elemSub), (2, Instr.elemMul), (3, Instr.elemFadd),
   (4, Instr.elemFmul), (5, Instr.elemFfma), (6, Instr.elemAnd), (7, Instr.elemOr),
   (8, Instr.elemXor), (9, Instr.elemShl), (10, Instr.elemShr), (11, Instr.elemCmpeq),
   (12, Instr.elemCmplt), (13, Instr.elemCmpltn), (14, Instr.elemMin), (15, Instr.elemMax)] ++
  [(16, Instr.elemSel), (17, Instr.elemMov), (18, Instr.elemDeq), (19, Instr.elemTag),
   (20, Instr.elemPset), (21, Instr.elemPclr), (22, Instr.elemCnt), (23, Instr.elemLd),
   (24, Instr.elemSt), (25, Instr.elemTas), (26, Instr.elemUpd), (27, Instr.elemGen),
   (28, Instr.elemSteer), (29, Instr.elemMerge), (30, Instr.elemJoin), (31, Instr.elemErr)]

/-- The three opcodes whose MOD names the row of the table (Tables 5.9, 5.14, R163); an unassigned MOD keeps the
first row's format. -/
def byMod (opc : Nat) (f : FmtE) : Option Instr :=
  if opc = 0x172 then some (if f.mod = 1 then .evmaskClr f else if f.mod = 2 then .evmaskWr f else .evmaskSet f)
  else if opc = 0x1CA then some (if f.mod = 1 then .leaseMeas f else .leaseSet f)
  else if opc = 0x1E2 then some (if f.mod = 1 then .injData f else .injCode f)
  else none

/-- The opcodes of format A that Tables 3.12 to 3.14 assign. -/
def isOpcA (n : Nat) : Bool :=
  n ≤ 0x33 || (0x80 ≤ n && n ≤ 0x95) || (0xA0 ≤ n && n ≤ 0xAD && n != 0xA7) || (0xC0 ≤ n && n ≤ 0xC4) ||
    (0xC8 ≤ n && n ≤ 0xCD) || (0xF0 ≤ n && n ≤ 0xF2) || (0xF8 ≤ n && n ≤ 0xFB) || (0x100 ≤ n && n ≤ 0x106)

/-- The opcodes of format M that Table 3.13 assigns. -/
def isOpcM (n : Nat) : Bool :=
  (0x120 ≤ n && n ≤ 0x125) || (0x128 ≤ n && n ≤ 0x133) || (0x138 ≤ n && n ≤ 0x141)

/-- The opcodes of format E that Tables 3.13 and 3.14 assign. -/
def isOpcE (n : Nat) : Bool :=
  (0x160 ≤ n && n ≤ 0x167) || (0x170 ≤ n && n ≤ 0x176) || (0x180 ≤ n && n ≤ 0x182) || (0x1A0 ≤ n && n ≤ 0x1A2) ||
    (0x1A8 ≤ n && n ≤ 0x1AB) || (0x1B0 ≤ n && n ≤ 0x1B7) || (0x1C8 ≤ n && n ≤ 0x1CA) || (0x1E0 ≤ n && n ≤ 0x1E2)

/-- The opcode and fields of a node word, its fields unchecked; none for an OPC that Tables 3.12 to 3.14 do not
assign. The range 0x1F0 to 0x1FF is `ESC` (R321). -/
def nodeOf (w : Double) : Option (BitVec 9 × NodeFmt) :=
  let o := w.extractLsb' 55 9
  let n := o.toNat
  if isOpcA n || 0x1F0 ≤ n then some (o, .a (unpackA w))
  else if (0x40 ≤ n && n ≤ 0x6A && hasImmediate (n - 0x40)) || (0xFC ≤ n && n ≤ 0xFF) then some (o, .i (unpackI w))
  else if isOpcM n then some (o, .m (unpackM w))
  else if isOpcE n then some (o, .e (unpackE w))
  else if n = 0x34 || n = 0x35 then some (o, .k (unpackK w))
  else if n = 0x1C0 then some (o, .x (w.extractLsb' 48 3) (unpackX w))
  else none

/-- The node with this opcode and word, whatever its field values hold; none for an unassigned OPC. The range
0x1F0 to 0x1FF is `ESC` (R321). -/
noncomputable def buildNode (w : Double) : Option Instr :=
  let opc := (w.extractLsb' 55 9).toNat
  match opsA.lookup opc with
  | some k => some (k (unpackA w))
  | none =>
  match opsI.lookup opc with
  | some k => some (k (unpackI w))
  | none =>
  match opsM.lookup opc with
  | some k => some (k (unpackM w))
  | none =>
  match opsE.lookup opc with
  | some k => some (k (unpackE w))
  | none =>
  match opsK.lookup opc with
  | some k => some (k (unpackK w))
  | none =>
  if opc = 0x1C0 then
    (opsX.lookup (w.extractLsb' 48 3).toNat).map fun k => k (unpackX w)
  else if 0x1F0 ≤ opc then some (.esc (w.extractLsb' 55 4) (unpackA w))
  else byMod opc (unpackE w)

/-- The bits of format K that Table 3.10 marks zero (R82). -/
def wordZeroOk (w : Double) : NodeFmt → Bool
  | .k _ => w.extractLsb' 32 3 == 0
  | _ => true

/-- The bits and demands of R82 that one node's word decides alone. -/
def nodeZeroOk (w : Double) (i : Instr) : Bool :=
  match i.node with
  | some (opc, f) => zeroOk opc.toNat f && wordZeroOk w f
  | none => false

/-- R81 for a node: its fields hold assigned values. -/
def nodeFieldOk (i : Instr) : Bool :=
  match i.node with
  | some (opc, f) => fieldOk opc.toNat f
  | none => false

/-- The instruction that a 64-bit word holds. R83 puts the ill-formed check before the unassigned field. -/
noncomputable def decodeNode (w : Double) : Except Reject Instr :=
  match buildNode w with
  | none => .error .unassignedOpc
  | some i =>
    if !nodeZeroOk w i then .error .reservedBits
    else if !nodeFieldOk i then .error .unassignedField
    else .ok i

/-- The element operation that a 96-bit word holds (Table 7.2), whatever its other fields are. -/
def buildElem (w : BitVec 96) : Option Instr :=
  (opsElem.lookup (w.extractLsb' 63 5).toNat).map fun k => k (unpackElem w)

/-- The element operation of an instruction word that the checks of R220 pass. -/
def decodeElem (w : BitVec 96) : Except Reject Instr :=
  match buildElem w with
  | none => .error .unassignedOpc
  | some i =>
    match i.elem with
    | some (op, x) => if w.extractLsb' 0 12 == 0 && elemOk op.toNat x then .ok i else .error .reservedBits
    | none => .error .unassignedOpc

/-- The instruction that the bits of a row of spec/opcode_table.json hold: a 64-bit node word, or a 96-bit element
word, both little-endian (R1), so that bit 0 is bit 0 of the word. -/
noncomputable def decodeTableWord (nbits w : Nat) : Option Instr :=
  if nbits ≤ 64 then (decodeNode (BitVec.ofNat 64 w)).toOption
  else (decodeElem (BitVec.ofNat 96 w)).toOption

/-! ## The encoder -/

/-- The word of a Gelpi node; none for a step that has no node word. -/
def encodeNode (i : Instr) : Option Double := i.node.map fun (opc, f) => packNode opc f

/-- The word of an element operation; none for any other step. -/
def encodeElem (i : Instr) : Option (BitVec 96) := i.elem.map fun (op, x) => packElem op x

/-- The bits of an instruction's word and their number, numbered as `decodeTableWord` reads them. -/
def encode (i : Instr) : Option (Nat × Nat) :=
  match encodeNode i with
  | some w => some (64, w.toNat)
  | none => (encodeElem i).map fun w => (96, w.toNat)

end Sys2Proof
end

