-- ==== Sys2Proof/Config.lean ====
section
/-! DEFINITION. What an implementation fixes: the sizes of spec/01_the_machine.md, and, as opaque constants, what
the spec does not promise (R12, spec/13_compatibility_contract.md Table 13.2). An opaque constant has no body,
so every statement holds whatever it is. -/

namespace Sys2Proof.Config

/-- Logical bays (R17). -/
def bays : Nat := 192

/-- DRAM bytes (R350). -/
def dramBytes : Nat := 576000000000

/-- Physical base of the loft (R350). -/
def loftBase : Nat := 0x000FF00000000000

/-- Bytes of the loft (R350). -/
def loftBytes : Nat := 0x4000000

/-- Bytes of a bay's scratchpad (Table 1.1). -/
def padBytes : Nat := 0x80000

/-- Words of a bay's lane register file (R19). -/
def regWords : Nat := 131072

/-- L1 lines of a bay (Table 1.1). -/
def l1Lines : Nat := 2048

/-- The L1 set of a line: not promised (R235, Table 13.2). Free; notes/assumptions/8.md. -/
opaque l1Set : Nat → Nat

/-- The L1's ways beyond eight: not promised (R235). Free; notes/assumptions/8.md. -/
opaque l1MoreWays : Nat

/-- The ways of the L1, at least eight (R235). -/
def l1Ways : Nat := 8 + l1MoreWays

/-- The n-th register-file row that a placement hands out as REGBASE: not promised (R17, R64). Free;
notes/assumptions/6.md. -/
opaque regBase : Nat → BitVec 32

/-- A fetch of a block word that a bay holds in an older copy takes the copy: bay, address, time (R341). Free;
notes/assumptions/32.md. -/
opaque fetchesCopy : Nat → Nat → Nat → Bool

/-- The device's RSA signature of signed words (R391). Free; notes/assumptions/10.md. -/
opaque rsaSign : List Word → List Word

/-- The device's SLH-DSA signature of signed words (R391). Free; notes/assumptions/10.md. -/
opaque slhSign : List Word → List Word

/-- The device's RSA modulus and SLH-DSA public key (R391). Free; notes/assumptions/10.md. -/
opaque deviceKeys : List Word

/-- The module's serial number (Table 17.6). Free; notes/assumptions/10.md. -/
opaque serial : BitVec 64

/-- The image of a component in carrier flash (R384, R388). Free; notes/assumptions/16.md. -/
opaque flashImage : Nat → List Word

/-- The RSA firmware key in flash: the 3072-bit modulus (R387, R388). Free; notes/assumptions/16.md. -/
opaque rsaKey : List Word
/-- The SLH-DSA firmware key in flash: 48 octets (R387, R388). Free; notes/assumptions/16.md. -/
opaque slhKey : List Word

/-- The digests of the firmware keys that are fused into the ridge die (R388). Free; notes/assumptions/16.md. -/
opaque fusedRsaDigest : List Word
/-- The fused digest of the SLH-DSA firmware key (R388). -/
opaque fusedSlhDigest : List Word

/-- What goes wrong in the hardware at a boot (R384, R386), modulo 4: nothing, DRAM training, zeroing in phase 2, zeroing
in phase 3. Free; notes/assumptions/16.md. -/
opaque bootHardware : Nat → Nat

/-- The draw in W of a bay at a frequency step (R394). Free; notes/assumptions/17.md. -/
opaque stepDraw : Nat → Nat

/-- The power in W that a bay requests at full speed (R394). Free; notes/assumptions/17.md. -/
opaque fullDraw : Nat

/-- The stack that holds a DRAM line: not given (R350). Free; notes/assumptions/11.md. -/
opaque stackOf : Nat → Nat

/-- The place of a DRAM line in its stack's range, in lines: not given (R350, R400). Free, taken modulo the lines of a
stack; notes/assumptions/11.md. -/
opaque stackPlace : Nat → Nat

/-- The bank on which a stack's first hash, over all 256 banks, places a line: not given (R399). Free, taken modulo 256;
notes/assumptions/11.md. -/
opaque bankOf : Nat → Nat

/-- The bank, among those that remain, to which a line of a dropped bank goes: the line, the dropped bank, how many banks
remain (R400). Free, taken modulo the number of banks; notes/assumptions/11.md. -/
opaque bankSpread : Nat → Nat → Nat → Nat

/-- The accesses that a bank of a stack has served by a clock: what reaches a bank depends on the caches before it, whose
working is not promised (R399). Free; notes/assumptions/11.md. -/
opaque bankAccesses : Nat → Nat → Nat → Nat

/-- What the domains and bays ask and draw in a power interval (R393, R394). Free; notes/assumptions/17.md. -/
opaque powerDemand : Nat → List Nat × List (Nat × Nat) × Nat

end Sys2Proof.Config
end

