-- ==== Sys2Proof/Machine/State.lean ====
section
/-! DEFINITION. The state of a Hensor VL4 module as plain data, the reasons a step can stop, and the state after
reset. INVENTORY.md lists every field with its rule and its reset value. -/

namespace Sys2Proof.Machine

/-! ## Containers -/

/-- A finite map from numbers: keys strictly rising, an absent key reads the default its reader names. -/
abbrev Assoc (α : Type) := List (Nat × α)

/-- A non-null token: its words, least significant first (R34). Null is the absence of a token. -/
abbrev Tok := List W40

/-- A memory of words with their codes and poison marks (R24, R257): bytes by address, codes by word number,
poisoned word numbers. Keys rise strictly and no entry is zero, so equal memories are equal data; an unlisted
byte is 0 with code 0 (R229, R385). -/
structure Memory where
  bytes : List Host.Cell
  codes : List Host.Cell
  poison : List Nat
  deriving DecidableEq, Repr

/-- A team's name: grid and team number (R25). -/
structure TeamKey where
  gid : Nat
  tid : Nat
  deriving DecidableEq, Repr

/-- Where a word is held (R229, R236, R363): device physical memory with the loft, a bay's scratchpad, or a page
of a peer module. -/
inductive Loc where
  | phys (pa : Nat)
  | pad (bay ofs : Nat)
  | remote (peer pa : Nat)
  deriving DecidableEq, Repr

/-- The identity of a word in a check record (R258). -/
inductive WordIdent where
  | mem (space addr : Nat)
  | lane (reg lane : Nat)
  | uniform (reg lane : Nat)
  | engine
  deriving DecidableEq, Repr

/-! ## Warps -/

/-- One operand slot, predicate input or write slot of a dispatched block (R34): its producers, how many of them
have delivered, and the non-null tokens by lane. -/
structure Slot where
  prod : Nat
  got : Nat
  toks : Assoc Tok
  deriving DecidableEq, Repr

/-- One lane of a held or commit operation: its operand tokens, and the location its address translated to at
firing (R127). -/
structure HeldLane where
  lane : Nat
  a : Tok
  b : Tok
  c : Tok
  va : Double
  loc : Option Loc
  deriving DecidableEq, Repr

/-- A fired operation that waits for commit (R37, R39, R125). -/
structure HeldOp where
  node : Nat
  lsid : Nat
  lanes : List HeldLane
  deriving DecidableEq, Repr

/-- A fired exit node: its lanes and, for the indirect kinds, their targets (R38, R129). -/
structure ExitVote where
  node : Nat
  lanes : Mask
  targets : Assoc Double
  deriving DecidableEq, Repr

/-- Operand capture of an unimplemented block (R322, R323): the unimplemented node, and whether every node that
does not depend on it has fired. -/
structure Capture where
  node : Nat
  deriving DecidableEq, Repr

/-- A status that a read clears: a mailbox's refusal bit, the team's copy error, the matrix engine's ERR with its cause
(R151, R156, R194). -/
inductive Cleared where
  | mbox (m : Nat)
  | copy
  | matrix (cause : Nat)
  deriving DecidableEq, Repr

/-- A group that the truss takes (R46): its target, the region's index and the port's row, and how many tokens it
sends. -/
structure ExportPlan where
  addr : Double
  region : Nat
  row : Nat
  toks : Nat
  deriving DecidableEq, Repr

/-- A dispatched block (R33 to R41). -/
structure Blk where
  addr : Double
  words : List Double
  m : Mask
  mode : Word
  slots : Assoc Slot
  fired : BitVec 64
  votes : List ExitVote
  held : List HeldOp
  cop : Option HeldOp
  /-- the wait nodes that have fired, in the order of firing (R147) -/
  waits : List HeldOp
  /-- the EVMASK that the block's own wait is tested with, where the block's register writes change it (R106) -/
  evtest : Option (BitVec 16)
  capture : Option Capture
  since : Nat
  /-- commit has begun: held operations still to release (R40, R51) -/
  releasing : Option (List HeldOp)
  /-- word locations that the block's loads have read (R57) -/
  reads : List Loc
  /-- status bits that the block's reads have cleared, to come back if it is discarded (R41) -/
  cleared : List Cleared
  /-- what became of the block's released operations, by node: the number of the request that an engine took, or none for
  one that was faulted (R382) -/
  issued : List (Nat × Option Nat)
  /-- the groups that the truss takes, decided once as the commit begins (R46, R278) -/
  exporting : List ExportPlan
  deriving DecidableEq, Repr

/-- Kinds of split-stack entries (R45). -/
inductive EntryKind where
  | pending | call | join
  deriving DecidableEq, Repr

/-- A split-stack entry (R45). -/
structure StackEntry where
  kind : EntryKind
  addr : Double
  mask : Mask
  out : Mask
  deriving DecidableEq, Repr

/-- What a group does when its turn to run comes, beside continuing (R130, R131). -/
inductive GroupAct where
  | none
  | call (ret : Double)
  | trap (code : BitVec 16) (block : Double) (m : Mask)
  | brk (code : BitVec 16) (block : Double) (m : Mask)
  deriving DecidableEq, Repr

/-- A successor group with its action (R43, R131). -/
structure Group where
  exit : Nat
  addr : Double
  mask : Mask
  act : GroupAct
  deriving DecidableEq, Repr

/-- Why a warp is parked (R49), with what it waits for. `service` names the record (by the model's record
number) and what follows `TRET`: restart of the block, or a group. -/
inductive Park where
  | running
  | waitAny (slots : BitVec 16) (mask : Mask)
  | waitAddr (loc : Loc) (va : Double) (space : Nat) (val : Word) (target : Double) (mask : Mask)
  | exportReturn
  | service (rec : Nat) (next : Option Group)
  | safePoint
  deriving DecidableEq, Repr

/-- An event binding (R144): kind 0 to 8, selector, handler. `gen` is a `.bar` record's GEN at a save (R148). -/
structure EventBind where
  kind : Nat
  sel : Nat
  handler : Double
  gen : Word
  loc : Option Loc
  deriving DecidableEq, Repr

/-- A region-entry record (R56). -/
structure RegionEntry where
  addr : Double
  mask : Mask
  depth : Nat
  deriving DecidableEq, Repr

/-- An error that a warp serves at its next block boundary (R157, R181, R259): a rollback cause with the word it
names, one that a home has reported between two blocks and that the boundary after the next block serves (R259, Table
12.8), a matrix command error, which is a precise fault, or an exported lane whose retry found no room on the split stack
(R45). -/
inductive BoundaryError where
  | cause (ident : WordIdent) (w : W40)
  | home (ident : WordIdent) (w : W40)
  | command (opc : Nat) (cause : Nat)
  | overflow (lane : Nat)
  deriving DecidableEq, Repr

/-- A warp, or a half-warp under W32 (R28, R29). -/
structure Warp where
  key : TeamKey
  wid : Nat
  half : Nat
  lanes : Nat
  pc : Double
  mask : Mask
  mode : Word
  regs : Assoc W40
  uregs : Assoc W40
  evpend : BitVec 16
  evmask : BitVec 16
  binds : Assoc EventBind
  leaseDecl : Nat
  leaseMeas : Nat
  measured : Bool
  hist : List (List Nat)
  touched : List Nat
  selfLoss : Nat
  commits : Nat
  regBase : Word
  stack : List StackEntry
  spilled : Nat
  acts : List Group
  region : Option RegionEntry
  /-- word locations that the region's committed blocks have read (R57) -/
  rdset : List Loc
  check : Option WordIdent
  since : Nat
  park : Park
  woken : Bool
  active : Bool
  stamp : Nat
  unbroken : Bool
  demote : Bool
  blk : Option Blk
  errs : List BoundaryError
  stop : Bool
  stepping : Bool
  /-- a step record, by the model's number, that a warp parked by its own wait has delivered (R381) -/
  stepRec : Option Nat
  /-- addresses whose prefetch has been issued and that have not been dispatched since (R71) -/
  prefetched : List Double
  /-- exported lanes: the region's index and the path's entry address (R47) -/
  outs : Assoc (Nat × Double)
  started : Bool
  retired : Bool
  preempt : Option Nat
  deriving DecidableEq, Repr

/-! ## Teams, grids, queues -/

/-- A team on a bay (R26, R30): its slots, allocation and owned units. -/
structure Team where
  key : TeamKey
  ctx : Nat
  slots : List Nat
  dim : Nat
  w32 : Bool
  regs : Nat
  bsp : Nat
  /-- the `.bsp` declaration before it is rounded: offsets below it exist (R231) -/
  decl : Nat
  bspBase : Nat
  lps : Nat
  lpsBase : Nat
  spl : Nat
  splBase : Nat
  alloc : Nat
  nb : Assoc Double
  mxe : Bool
  mbox : BitVec 16
  clustered : Bool
  rank : Nat
  clsize : Nat
  retired : Bool
  cpErr : Bool
  /-- a save has stopped it and has still to take it (R377) -/
  leaving : Bool
  deriving DecidableEq, Repr

/-- A live grid (R25, R53). -/
structure Grid where
  gid : Nat
  ctx : Nat
  packet : List W40
  queue : Option Nat
  depth : Nat
  parent : Option TeamKey
  pool : Option Nat
  nteam : Nat
  placed : Nat
  retired : Nat
  children : Nat
  args : List W40
  images : List (Nat × Nat × List W40)
  lftDone : Bool
  faultInfo : Double
  passed : Option Nat
  named : Bool
  deriving DecidableEq, Repr

/-- A launch-pool entry (R55): part 0 is the shared part, part d + 1 the reserve of depth d. -/
structure PoolEntry where
  used : Bool
  part : Nat
  uses : Nat
  gid : Nat
  launcher : Option TeamKey
  held : Option TeamKey
  deriving DecidableEq, Repr

/-- A host work queue (R260, R353). -/
structure Queue where
  base : Nat
  size : Nat
  en : Bool
  prio : Nat
  wt : Nat
  tail : Word
  head : Word
  ctx : Nat
  rej : Bool
  err : Bool
  credit : Nat
  packet : Option (List W40)
  met : BitVec 2
  grid : Option Nat
  passed : Option Nat
  /-- PRIO and WT as written, until the next round of the old level (R260) -/
  sched : Option (Nat × Nat)
  deriving DecidableEq, Repr

/-- A reservation of a priority level (R263): bay or bent. -/
structure Reservation where
  bent : Bool
  unit : Nat
  gid : Nat
  deriving DecidableEq, Repr

/-! ## Engines of a bay -/

/-- A line that an engine holds (R180, R247): the 128-byte line, whether the engine will write it, the engine (0
matrix, 1 copy, 2 + 2·row + dir stream), its request's number, and the hold's place in the order of taking. -/
structure LineHold where
  loc : Loc
  write : Bool
  engine : Nat
  seq : Nat
  ord : Nat
  deriving DecidableEq, Repr

/-- A mailbox (R150 to R153, R361). -/
structure Mailbox where
  owner : Option TeamKey
  msgs : List Tok
  spillHead : Nat
  spillCount : Nat
  refused : Bool
  deriving DecidableEq, Repr

/-- A kicked chain of copy requests (R156): the request to run next, whether the chain has left the kick queue, and its
number. -/
structure CopyKick where
  key : TeamKey
  warp : WarpId
  ofs : Nat
  started : Bool
  chain : Nat
  deriving DecidableEq, Repr

/-- A copy request in progress (R155, R157). -/
structure CopyRun where
  kick : CopyKick
  req : List W40
  moved : Nat
  stalled : Option Nat
  seq : Nat
  deriving DecidableEq, Repr

/-- A matrix command in the queue, with its captured operands and record (R179, R187, R189). -/
structure MxCmd where
  warp : WarpId
  key : TeamKey
  opc : Nat
  f : FmtE
  a : Word
  b : Word
  c : Word
  mode : Word
  record : List W40
  /-- a source byte, scale or band address that the record gives lies outside the allocation or is misaligned (R186) -/
  outside : Bool
  seq : Nat
  deriving DecidableEq, Repr

/-- A stationary plane (R178, R183): element words with codes, scale words per column, band scales, checksum
column (absent for a k whose sum is not finite). -/
structure MxPlane where
  loaded : Bool
  fmt : Nat
  kind : Nat
  words : Assoc W40
  scales : Assoc (List Byte)
  bands : List (BitVec 16)
  csum : List (Option Dyadic2)
  deriving DecidableEq, Repr

/-- The matrix engine of a bay (R177 to R184, R194). -/
structure Matrix where
  owner : Option TeamKey
  acc : Assoc (BitVec 128)
  pa : MxPlane
  pb : MxPlane
  act : Bool
  queue : List MxCmd
  cur : Option MxCmd
  rows : Nat
  err : Bool
  cause : Nat
  deriving DecidableEq, Repr

/-- A truss token (R198). -/
structure TTok where
  w : W40
  tag : BitVec 2
  deriving DecidableEq, Repr

/-- A route's destination (R218). -/
structure Route where
  row : Nat
  col : Nat
  inp : Nat
  deriving DecidableEq, Repr

/-- A truss element (R196 to R203, R221): queues, tokens in flight by output, planes as 48 words each, and whether an
error will make the two computations of its next firing differ (R210). -/
structure Elem where
  started : Bool
  preds : Byte
  locals : Assoc W40
  queues : Assoc (List TTok)
  flight : Assoc (List TTok)
  routes : Assoc Route
  planes : Assoc W40
  act : Bool
  pref : Nat
  sram : Assoc W40
  glitch : Bool
  deriving DecidableEq, Repr

/-- A stream binding of a port (R158, R214). -/
structure StreamBind where
  key : TeamKey
  warp : WarpId
  ofs : Nat
  req : List W40
  moved : Nat
  stalled : Option Nat
  ending : Bool
  seq : Nat
  deriving DecidableEq, Repr

/-- A port load request (R212): its offset, or a token that passes in its place (R290, R200). -/
structure PortReq where
  ofs : Word
  pass : Option TTok
  deriving DecidableEq, Repr

/-- A port element (R211 to R214, R223 to R225). -/
structure Port where
  cfg : Assoc W40
  inBind : Option StreamBind
  outBind : Option StreamBind
  reqs : List PortReq
  stalled : Option Nat
  exports : List TTok
  retMark : Option TTok
  retToks : List TTok
  sinkWait : Bool
  sinkKick : Bool
  sinkStop : Bool
  endOut : Bool
  deriving DecidableEq, Repr

/-- A configuration packet on its way to an element (R217, R219): kind, element, first slot, payload. -/
structure CfgPacket where
  kind : Nat
  row : Nat
  col : Nat
  slot : Nat
  words : List W40
  deriving DecidableEq, Repr

/-- A `TLOAD` that the loader has not yet performed (R216, R220). -/
structure ImageLoad where
  warp : WarpId
  va : Double
  loc : Option Loc
  image : Nat
  seq : Nat
  deriving DecidableEq, Repr

/-- A truss region (R197, R215 to R222). -/
structure Region where
  key : TeamKey
  idx : Nat
  row : Nat
  col : Nat
  h : Nat
  w : Nat
  pat : BitVec 2
  image : Option Nat
  loaded : Bool
  running : Bool
  quiet : Bool
  faulted : Bool
  errs : Nat
  fires : Nat
  scan : Option Nat
  loads : List ImageLoad
  packets : List CfgPacket
  deriving DecidableEq, Repr

/-- A warp's identity, which outlasts its slot (R271): its team and its number in the team. -/
structure WarpName where
  key : TeamKey
  wid : Nat
  deriving DecidableEq, Repr

/-- A 128-byte L1 line (R235): words with codes, dirty bytes, stale mark, the stream hint, the warps that keep it
(R135), the last warp that touched it. -/
structure L1Line where
  words : Assoc W40
  dirty : BitVec 128
  stale : Bool
  stream : Bool
  keep : List WarpId
  warp : Option WarpName
  deriving DecidableEq, Repr

/-- A victim tag (R271). -/
structure VictimTag where
  line : Nat
  warp : WarpName
  deriving DecidableEq, Repr

/-- A logical bay (R17). `l1` is ordered by use, the least recently used line first. -/
structure Bay where
  pad : Memory
  l1 : List (Nat × L1Line)
  warps : Assoc Warp
  teams : List Team
  mbox : Assoc Mailbox
  mx : Matrix
  kicks : List CopyKick
  copies : List CopyRun
  elems : Assoc Elem
  ports : Assoc Port
  regions : List Region
  holds : List LineHold
  cap : Nat
  tmax : Nat
  tight : Nat
  intf : Nat
  intfNext : List Nat
  misses : Nat
  tags : List VictimTag
  turn : Assoc Nat
  served : Assoc Nat
  clk : Nat
  frac : Nat
  fstep : Nat
  phys : Nat
  corr : Word
  unc : Word
  roll : Word
  dblf : Word
  cks : Word
  blks : Nat
  snapClk : Double
  snapBlks : Double
  snapStep : Nat
  snapLc : Word
  uncTimes : List Nat
  closed : Bool
  /-- the bay's fetched copies of block words, by physical address / 8 (R341) -/
  code : Assoc Double
  /-- for each window, the bay's clock in which it last fired a node (R277) -/
  fireClk : Assoc Nat
  deriving DecidableEq, Repr

/-! ## Contexts and records -/

/-- Who raised a record (Table 16.1 AGENT). -/
inductive RecAgent where
  | warp (w : WarpId)
  | copy (bay : Nat) (w : WarpId)
  | stream (p : PortId) (dir : Bool) (w : WarpId)
  | port (p : PortId) (region : Nat)
  | kingpost
  | walker
  deriving DecidableEq, Repr

/-- A record: the model's own number, context, KIND, agent, header and body words by byte offset in the slot
(Tables 16.1, 16.2, 13.6), the SEQ once it is written, and whether it is still pending (R365 to R369). -/
structure Record where
  num : Nat
  ctx : Nat
  kind : Nat
  agent : RecAgent
  words : Assoc W40
  seq : Option Nat
  deriving DecidableEq, Repr

/-- A context page (R320, R345, R356, R368). -/
structure Ctx where
  emuCap : Bool
  safeLim : Nat
  safeReq : Bool
  safeLate : Bool
  safeCounts : List (WarpId × Nat)
  lftn : Nat
  lftb : Nat
  root : Double
  snapen : Bool
  priv : Bool
  rqBase : Nat
  rqSize : Nat
  rqVa : Double
  rqTail : Word
  rqHead : Word
  rqLost : Nat
  svc : Nat
  thPkt : Double
  seq : Nat
  /-- TLB_INV writes that are not complete (R374), the first one being done, and when it began -/
  tlbQueue : List Double
  tlbSince : Nat
  /-- the leaves that the invalidation under way has removed: first page and number of pages (R374) -/
  tlbGone : List (Nat × Nat)
  preq : Bool
  parkedOnly : Bool
  done : Bool
  full : Bool
  saveB : Nat
  saveN : Nat
  saving : Bool
  restoring : Bool
  known : List TeamKey
  dbg : Bool
  deriving DecidableEq, Repr

/-- A saved team that is not resident (R377): the model keeps beside the memory image what Table 16.8 does not
lay out. -/
structure SavedTeam where
  ctx : Nat
  bay : Nat
  image : Bay
  team : Team
  deriving DecidableEq, Repr

/-- A cached translation of one 4 KiB page (R372), and how many such pages the leaf that it comes from maps. -/
structure TlbEntry where
  ctx : Nat
  page : Nat
  base : Nat
  perm : BitVec 3
  rem : Bool
  peer : Nat
  span : Nat
  deriving DecidableEq, Repr

/-- A walk that is in flight or waits for a walker, with the misses that wait on it, oldest first (R373). -/
structure PageWalk where
  ctx : Nat
  page : Nat
  waiting : List WalkReq
  deriving DecidableEq, Repr

/-- An entry of the poisoned list (R375). -/
structure PoisonEntry where
  pa : Nat
  bad : W40
  deriving DecidableEq, Repr

/-- A sub-word merge on its way to its stage (R256): the word, the byte mask, the bytes in position and their
contribution, the bay whose L1 may hold the line, and the storing warp. -/
structure SubMerge where
  loc : Loc
  mask : BitVec 4
  n : Word
  cn : Byte
  warp : WarpId
  deriving DecidableEq, Repr

/-- A check failure that a home reports (R259). -/
structure HomeReport where
  warp : WarpId
  ident : WordIdent
  w : W40
  deriving DecidableEq, Repr

/-! ## Module -/

/-- A completion that the endpoint returns to the host (R350, R352). -/
inductive Reply where
  | reg (val : Double)
  | data (words : List Word) (poisoned : Bool)
  | unsupported
  deriving DecidableEq, Repr

/-- The receiving side of a Voling stream (R251): next expected sequence number and held writes. -/
structure VolingIn where
  expected : Nat
  held : List VolingWrite
  deriving DecidableEq, Repr

/-- A write sent to a peer and not yet acknowledged (R251): its warp; for a write of an engine the page of the virtual
address that it was translated from; and whether an invalidation under way has removed that translation (R374). -/
structure SentWrite where
  warp : WarpId
  write : VolingWrite
  page : Option Nat
  old : Bool
  deriving DecidableEq, Repr

/-- The sending side of a Voling stream (R251, R364). -/
structure VolingOut where
  next : Nat
  unacked : List SentWrite
  deriving DecidableEq, Repr

/-- Voling identity, streams and the inbound window (R363, R364, R251). -/
structure Voling where
  ident : Nat
  address : Nat
  peers : Assoc Double
  outs : Assoc VolingOut
  ins : Assoc VolingIn
  winBase : Nat
  winSize : Nat
  /-- writes that the module has put on its links, in order, the re-sent ones again, with the port that carried each
  (R251, R405) -/
  sent : List (Nat × VolingWrite)
  /-- acknowledgements that the module has sent: source, stream, sequence number (R251) -/
  acks : List (Nat × Nat × Nat)
  deriving DecidableEq, Repr

/-- Boot, attestation and firmware update (R384 to R391, R406): `fwTodo` holds the components that have still to switch,
with the SVN and digest of their images, `fwUnits` the bays that have not yet taken new microcode. -/
structure Firmware where
  phase : Nat
  fail : Nat
  failComp : Nat
  /-- a step of the last boot failed (R386) -/
  dead : Bool
  svn : Nat
  minima : Assoc Nat
  svns : Assoc Nat
  digests : Assoc (List Word)
  attBusy : Bool
  attDone : Bool
  attErr : Bool
  attAddr : Nat
  attNonce : List Word
  fwBusy : Bool
  fwDone : Bool
  fwErr : Bool
  fwFail : Nat
  fwComp : Nat
  fwTodo : List (Nat × Nat × List Word)
  fwUnits : List Nat
  deriving DecidableEq, Repr

/-- The power arbiter (R392 to R395). -/
structure Power where
  lim : Nat
  draw : Nat
  err : Bool
  thr : BitVec 6
  wt : Assoc Nat
  cap : Assoc Nat
  floor : Assoc Nat
  grant : Assoc Nat
  /-- the draw of the last intervals, the newest first (R393) -/
  draws : List Nat
  /-- the nominal clock of the next interval (R393) -/
  next : Nat
  deriving DecidableEq, Repr

/-- The reliability log (R396, R397). -/
structure RelLog where
  base : Nat
  size : Nat
  tail : Word
  head : Word
  lost : Nat
  thr : Nat
  autoB : Bool
  autoD : Bool
  rclk : Nat
  last : Option (List Word)
  deriving DecidableEq, Repr

/-- The sill die of a DRAM stack (R399, R400). -/
structure Sill where
  deg : Bool
  act : Bool
  reg : Nat
  ptr : Nat
  ndrop : Nat
  last : Nat
  dropped : List Nat
  corr : Assoc Nat
  total : Nat
  waiting : List Nat
  /-- intervals of 2^24 accesses of each bank that are over and have been counted (R399) -/
  ends : Assoc Nat
  deriving DecidableEq, Repr

/-- A Voling port or die link's lanes (R405). -/
structure Link where
  up : Bool
  spares : Nat
  deriving DecidableEq, Repr

/-- The common snapshot trigger (R407). -/
structure Snap where
  tag : Nat
  missed : Nat
  valid : Bool
  hold : Bool
  on : Word
  deriving DecidableEq, Repr

/-- A handler entry of a Farfoec module (Table 14.3). -/
structure Handler where
  first : Nat
  nx : Nat
  nblk : Nat
  nosend : Bool
  deriving DecidableEq, Repr

/-- A loaded Farfoec module as its load read it (R327 to R333): context, address, type entries, handlers, constants,
virtual blocks, and the native entry of each handler that has been translated (R340). -/
structure FarModule where
  ctx : Nat
  base : Double
  types : List Word
  handlers : List Handler
  consts : List Word
  blocks : List (List Double)
  trans : Assoc Double
  deriving DecidableEq, Repr

/-- A translation of a context (R334, R338, R344): its binding table, the native blocks written for it, its map records,
sorted by address, and the stepping that it is for. One of another stepping is the source of a move (R347). -/
structure FarTable where
  ctx : Nat
  table : Double
  code : List NativeBlock
  maps : List MapRecord
  step : Nat
  deriving DecidableEq, Repr

/-- The `.bsp` declaration of the kernel at an entry address of a context, in bytes and not yet rounded up: it came with
the kernel's program (R231). Programs come from outside, so the list has no register; notes/assumptions/14.md. -/
structure KernelDecl where
  ctx : Nat
  entry : Nat
  bytes : Nat
  deriving DecidableEq, Repr

/-- The model's own: whose instruction `exec` runs (notes/assumptions/2.md). -/
inductive Cur where
  | none
  | node (w : WarpId) (k : Nat)
  | elem (e : ElemId)
  deriving DecidableEq, Repr

/-- A Hensor VL4 module. -/
structure State where
  now : Nat
  /-- when the last cold reset ended: a bay's clock begins there (R10) -/
  coldAt : Nat
  inbox : List Instr
  agenda : List (Nat × Actor)
  cur : Cur
  replies : List Reply
  irqs : List Nat
  msix : Assoc Word
  /-- the MSI-X pending-bit array (R349) -/
  pend : Word
  mem : Memory
  merges : List SubMerge
  /-- the number of the next engine request, and of the next batch of holds -/
  holdSeq : Nat
  reports : List HomeReport
  bays : Assoc Bay
  grids : List Grid
  nextGid : Nat
  pool : Assoc PoolEntry
  devQueue : List Nat
  /-- handler launches that a delivered record asks for (R367): service context, packet address, record
  address -/
  handlers : List (Nat × Double × Double)
  queues : Assoc Queue
  resv : Assoc Reservation
  lastBent : Nat
  resvInt : Nat
  bfill : Bool
  bar2 : Nat
  vl : Voling
  ctxs : Assoc Ctx
  tlb : List TlbEntry
  /-- the walks in order of arrival; the first 64 are in flight (R373) -/
  walks : List PageWalk
  poisoned : List PoisonEntry
  recs : List Record
  recNum : Nat
  saved : List SavedTeam
  fw : Firmware
  power : Power
  rel : RelLog
  sills : Assoc Sill
  spares : Assoc Nat
  links : Assoc Link
  dieLinks : Assoc Link
  snap : Snap
  modules : List FarModule
  bindings : List FarTable
  decls : List KernelDecl
  free : Nat
  deriving DecidableEq, Repr

/-- Why a step stops with a fault. -/
inductive Fault where
  /-- Raised by a meaning whose agent is not in a state in which the spec lets the step happen: a node with no
  dispatched block, a commit of an incomplete block, an element operation with no element, an engine event with
  nothing to do. `step` never runs such an instruction. Safe: the hardware does not perform the step at all. -/
  | notEnabled
  deriving DecidableEq, Repr

/-- Why a step is refused. -/
inductive Refusal where
  /-- Raised by an arm of exec whose instruction has no meaning yet. Safe: nothing is claimed of it. -/
  | notModelled (mnemonic : String)
  deriving DecidableEq, Repr

/-- The outcome of a step. -/
abbrev Outcome := Host.Outcome State Fault Refusal

/-! ## Reset -/

/-- Memory in which nothing is listed (R385). -/
def Memory.empty : Memory := ⟨[], [], []⟩

/-- An unloaded plane (R177). -/
def MxPlane.reset : MxPlane := ⟨false, 0, 0, [], [], [], []⟩

/-- The matrix engine after reset: unowned, plane A active, tiles zero (R177, R178). -/
def Matrix.reset : Matrix := ⟨none, [], .reset, .reset, false, [], none, 0, false, 0⟩

/-- A truss element after reset (R384). -/
def Elem.reset : Elem := ⟨false, 0, [], [], [], [], [], false, 0, [], false⟩

/-- A port after reset (Table 7.6). -/
def Port.reset : Port := ⟨[], none, none, [], none, [], none, [], false, false, false, false⟩

/-- A mailbox after reset: no owner, empty. -/
def Mailbox.reset : Mailbox := ⟨none, [], 0, 0, false⟩

/-- Logical bay b after reset: LC_CTL of Table 9.3, memories zero (R384); notes/assumptions/3.md names the
others, and that it stands on physical bay b mod 48 of its die (DESIGN CHOICE). -/
def Bay.reset (b : Nat) : Bay where
  pad := .empty
  l1 := []
  warps := []
  teams := []
  mbox := []
  mx := .reset
  kicks := []
  copies := []
  elems := []
  ports := []
  regions := []
  holds := []
  cap := 128
  tmax := 64
  tight := 0
  intf := 0
  intfNext := []
  misses := 0
  tags := []
  turn := []
  served := []
  clk := 0
  frac := 0
  fstep := 0
  phys := b % 48
  corr := 0
  unc := 0
  roll := 0
  dblf := 0
  cks := 0
  blks := 0
  snapClk := 0
  snapBlks := 0
  snapStep := 0
  snapLc := 0
  uncTimes := []
  closed := false
  code := []
  fireClk := []

/-- A launch-pool entry after reset: the entries below 7,168 are the shared part, the rest 64 for each depth
(R55). -/
def PoolEntry.reset (i : Nat) : PoolEntry :=
  ⟨false, if i < 7168 then 0 else (i - 7168) / 64 + 1, 0, 0, none, none⟩

/-- A queue after reset (Tables 9.1, 15.3). -/
def Queue.reset : Queue :=
  ⟨0, 4, false, 7, 1, 0, 0, 0, false, false, 0, none, 0, none, none, none⟩

/-- A context page after reset (Tables 15.5, 16.4). -/
def Ctx.reset : Ctx where
  emuCap := false
  safeLim := 0
  safeReq := false
  safeLate := false
  safeCounts := []
  lftn := 0
  lftb := 0
  root := 0
  snapen := false
  priv := false
  rqBase := 0
  rqSize := 0
  rqVa := 0
  rqTail := 0
  rqHead := 0
  rqLost := 0
  svc := 0
  thPkt := 0
  seq := 0
  tlbQueue := []
  tlbSince := 0
  tlbGone := []
  preq := false
  parkedOnly := false
  done := false
  full := false
  saveB := 0
  saveN := 0
  saving := false
  restoring := false
  known := []
  dbg := false

/-- Voling after reset (R363). The driver's inbound window is all of DRAM (notes/assumptions/15.md). -/
def Voling.reset : Voling := ⟨0, 0, [], [], [], 0, 576000000000, [], []⟩

/-- Firmware state after a boot that reached phase 5 (R384). -/
def Firmware.reset : Firmware where
  phase := 5
  fail := 0
  failComp := 0
  dead := false
  svn := 0
  minima := []
  svns := []
  digests := []
  attBusy := false
  attDone := false
  attErr := false
  attAddr := 0
  attNonce := []
  fwBusy := false
  fwDone := false
  fwErr := false
  fwFail := 0
  fwComp := 0
  fwTodo := []
  fwUnits := []

/-- The power registers after reset (R395); an absent CAP, FLOOR or WT reads its reset value through
`powerCap`, `powerFloor` and `powerWt`. -/
def Power.reset : Power := ⟨2400, 0, false, 0, [], [], [], [], [], 4096⟩

/-- The reliability registers after reset (R397). -/
def RelLog.reset : RelLog := ⟨0, 0, 0, 0, 0, 64, false, true, 0, none⟩

/-- A sill die after reset (R399, R400). -/
def Sill.reset : Sill := ⟨false, false, 0, 0, 0, 0, [], [], 0, [], []⟩

/-- The snapshot registers after reset (R407). -/
def Snap.reset : Snap := ⟨0, 0, false, false, 0⟩

/-- The module right after reset: boot has reached phase 5 (R384), every memory is zero with code 0 (R385), no
grid lives, every register holds its reset value. -/
def State.reset : State where
  now := 0
  coldAt := 0
  inbox := []
  agenda := []
  cur := .none
  replies := []
  irqs := []
  msix := []
  pend := 2
  mem := .empty
  merges := []
  holdSeq := 0
  reports := []
  bays := []
  grids := []
  nextGid := 1
  pool := []
  devQueue := []
  handlers := []
  queues := []
  resv := []
  lastBent := 47
  resvInt := 64
  bfill := true
  bar2 := 0
  vl := .reset
  ctxs := []
  tlb := []
  walks := []
  poisoned := []
  recs := []
  recNum := 0
  saved := []
  fw := .reset
  power := .reset
  rel := .reset
  sills := []
  spares := []
  links := []
  dieLinks := []
  snap := .reset
  modules := []
  bindings := []
  decls := []
  free := 0

end Sys2Proof.Machine
end

