-- ==== Sys2Proof/Machine/Store.lean ====
section
/-! DEFINITION. Finite maps, memories of coded words, and the lane check code: the storage every unit is built
on (spec/00_scope.md R1, spec/03_blocks_and_encoding.md R92, spec/08_memory_model_and_check_codes.md R229, R253,
R256). -/

namespace Sys2Proof.Machine

/-! ## Finite maps -/

/-- The value at a key. -/
def aget {α : Type} (m : Assoc α) (k : Nat) : Option α :=
  match m with
  | [] => none
  | (j, v) :: r => if j = k then some v else aget r k

/-- The value at a key, or a default. -/
def agetD {α : Type} (m : Assoc α) (k : Nat) (d : α) : α := (aget m k).getD d

/-- The map with the value at a key replaced; keys stay in rising order. -/
def aset {α : Type} (m : Assoc α) (k : Nat) (v : α) : Assoc α :=
  match m with
  | [] => [(k, v)]
  | (j, u) :: r => if k < j then (k, v) :: (j, u) :: r else if j = k then (k, v) :: r else (j, u) :: aset r k v

/-- The map without a key. -/
def adel {α : Type} (m : Assoc α) (k : Nat) : Assoc α := m.filter fun p => p.1 != k

/-- The map with a key rewritten through a function, absent keys reading the default. -/
def amod {α : Type} (m : Assoc α) (k : Nat) (d : α) (f : α → α) : Assoc α := aset m k (f (agetD m k d))

/-- The map with a key set to a value, or removed when the value is the one an absent key reads. -/
def aput {α : Type} [DecidableEq α] (m : Assoc α) (k : Nat) (d v : α) : Assoc α :=
  if v = d then adel m k else aset m k v

/-! ## Lane check codes -/

/-- One step of `lcc` (R92): shift one data bit into the code. -/
def lccStep (c : Byte) (bit : Bool) : Byte :=
  let fb := c.getLsbD 7 != bit
  let d : Byte := c <<< 1
  if fb then d ^^^ 0x2F else d

/-- `lcc` over the data bits i - 1 down to 0 (R92). -/
def lccFrom (x : Word) : Nat → Byte → Byte
  | 0, c => c
  | i + 1, c => lccFrom x i (lccStep c (x.getLsbD i))

/-- The lane check code of a word (R92). -/
def lcc (x : Word) : Byte := lccFrom x 32 0

/-- A word with a fresh code (R91 `tok`, R253). -/
def fresh (x : Word) : W40 := ⟨x, lcc x, false⟩

/-- The word passes `check` (R91): its code agrees and it is not poisoned (R257). -/
def good (w : W40) : Bool := w.c == lcc w.v && !w.p

/-- The syndrome of a word (R256). -/
def syndromeOf (w : W40) : Byte := w.c ^^^ lcc w.v

/-- The token of a value of n words with fresh codes, least significant word first. -/
def tokOf (n : Nat) (x : Nat) : Tok := (List.range n).map fun i => fresh (BitVec.ofNat 32 (x >>> (32 * i)))

/-- The value of a token read as one unsigned number. -/
def tokVal : Tok → Nat
  | [] => 0
  | w :: r => w.v.toNat + (tokVal r) <<< 32

/-! ## Memories -/

/-- The byte stored at an address; an unlisted address holds 0 (R229, R385). -/
def Memory.byte (m : Memory) (a : Nat) : Byte := agetD m.bytes a 0

/-- A byte written; zero is the unlisted value. -/
def Memory.setByte (m : Memory) (a : Nat) (b : Byte) : Memory := { m with bytes := aput m.bytes a 0 b }

/-- The code of the word that holds an address. -/
def Memory.code (m : Memory) (a : Nat) : Byte := agetD m.codes (a / 4) 0

/-- The word at a 4-aligned address with its code and mark, little-endian (R1). -/
def Memory.word (m : Memory) (a : Nat) : W40 :=
  ⟨m.byte (a + 3) ++ m.byte (a + 2) ++ m.byte (a + 1) ++ m.byte a, m.code a, m.poison.contains (a / 4)⟩

/-- A whole word written with its code and mark (R253, R257). -/
def Memory.setWord (m : Memory) (a : Nat) (w : W40) : Memory :=
  let m1 := (((m.setByte a (w.v.extractLsb' 0 8)).setByte (a + 1) (w.v.extractLsb' 8 8)).setByte (a + 2)
    (w.v.extractLsb' 16 8)).setByte (a + 3) (w.v.extractLsb' 24 8)
  { m1 with
    codes := aput m1.codes (a / 4) 0 w.c
    poison := if w.p then (if m1.poison.contains (a / 4) then m1.poison else insertNat (a / 4) m1.poison)
              else m1.poison.filter (· != a / 4) }
where
  /-- A number inserted into a rising list. -/
  insertNat (k : Nat) : List Nat → List Nat
    | [] => [k]
    | j :: r => if k < j then k :: j :: r else j :: insertNat k r

/-- Consecutive words written from a 4-aligned address. -/
def Memory.setWords (m : Memory) (a : Nat) : List W40 → Memory
  | [] => m
  | w :: r => (m.setWord a w).setWords (a + 4) r

/-- Consecutive words read from a 4-aligned address. -/
def Memory.words (m : Memory) (a n : Nat) : List W40 := (List.range n).map fun i => m.word (a + 4 * i)

/-- The bytes from `lo` up to `hi`, both 4-aligned, zeroed with code 0 (R229). -/
def Memory.clear (m : Memory) (lo hi : Nat) : Memory where
  bytes := m.bytes.filter fun p => p.1 < lo || hi ≤ p.1
  codes := m.codes.filter fun p => p.1 < lo / 4 || hi / 4 ≤ p.1
  poison := m.poison.filter fun p => p < lo / 4 || hi / 4 ≤ p

/-- What a memory holds from `lo` up to `hi`, both 4-aligned. -/
def Memory.slice (m : Memory) (lo hi : Nat) : Memory where
  bytes := m.bytes.filter fun p => lo ≤ p.1 && p.1 < hi
  codes := m.codes.filter fun p => lo / 4 ≤ p.1 && p.1 < hi / 4
  poison := m.poison.filter fun p => lo / 4 ≤ p && p < hi / 4

/-- Keys rise strictly from a bound. -/
def risingFrom {α : Type} : Nat → Assoc α → Bool
  | _, [] => true
  | k, (j, _) :: r => k ≤ j && risingFrom (j + 1) r

/-- A list of numbers rises strictly from a bound. -/
def risingNats : Nat → List Nat → Bool
  | _, [] => true
  | k, j :: r => k ≤ j && risingNats (j + 1) r

/-- The canonical form of a memory: keys rise strictly and nothing listed equals what an unlisted address
reads as. -/
def Memory.wf (m : Memory) : Bool :=
  risingFrom 0 m.bytes && m.bytes.all (fun p => p.2 != 0) && risingFrom 0 m.codes &&
    m.codes.all (fun p => p.2 != 0) && risingNats 0 m.poison

/-! ## Sub-word merges (R256) -/

/-- The bits of a word that a byte mask selects. -/
def byteMask (m : BitVec 4) : Word :=
  (if m.getLsbD 3 then (0xFF : Byte) else 0) ++ (if m.getLsbD 2 then (0xFF : Byte) else 0) ++
    (if m.getLsbD 1 then (0xFF : Byte) else 0) ++ (if m.getLsbD 0 then (0xFF : Byte) else 0)

/-- The merged word of R256: the bytes in the mask replaced, the code updated linearly, the poison mark kept
(R257). -/
def mergeWord (h : W40) (m : BitVec 4) (n : Word) (cn : Byte) : W40 :=
  let d := h.v &&& byteMask m
  ⟨(h.v &&& ~~~(byteMask m)) ||| n, h.c ^^^ lcc d ^^^ cn, h.p⟩

end Sys2Proof.Machine
end

