-- ==== Sys2Proof/Machine/Access.lean ====
section
/-! DEFINITION. Readers and writers of the parts of a state: bays, warps, teams, grids, contexts, queues, and the
fields of launch packets (spec/15_host_queues_launch.md Tables 15.6, 15.7). -/

namespace Sys2Proof.Machine

/-! ## Bays and warps -/

/-- Logical bay b. A bay that nothing has touched since reset is as reset left it, its clock having run. -/
def State.bay (s : State) (b : Nat) : Bay := agetD s.bays b { Bay.reset b with clk := s.now - s.coldAt }

/-- The state with bay b replaced. -/
def State.setBay (s : State) (b : Nat) (x : Bay) : State := { s with bays := aset s.bays b x }

/-- The state with bay b rewritten. -/
def State.modBay (s : State) (b : Nat) (f : Bay → Bay) : State := s.setBay b (f (s.bay b))

/-- The key of a warp in its bay. -/
def wkey (w : WarpId) : Nat := w.slot * 2 + w.half

/-- The warp with a key in a bay. -/
def warpIdOf (bay key : Nat) : WarpId := ⟨bay, key / 2, key % 2⟩

/-- The warp that a name names. -/
def State.warp? (s : State) (w : WarpId) : Option Warp := aget (s.bay w.bay).warps (wkey w)

/-- The state with a warp replaced. -/
def State.setWarp (s : State) (w : WarpId) (x : Warp) : State :=
  s.modBay w.bay fun b => { b with warps := aset b.warps (wkey w) x }

/-- The state with a warp, if it exists, rewritten. -/
def State.modWarp (s : State) (w : WarpId) (f : Warp → Warp) : State :=
  match s.warp? w with
  | some x => s.setWarp w (f x)
  | none => s

/-- The state with a warp's block, if it has one, rewritten. -/
def State.modBlk (s : State) (w : WarpId) (f : Blk → Blk) : State :=
  s.modWarp w fun x => { x with blk := x.blk.map f }

/-- Every warp of the module with its name. -/
def State.allWarps (s : State) : List (WarpId × Warp) :=
  s.bays.flatMap fun (b, bay) => bay.warps.map fun (k, x) => (warpIdOf b k, x)

/-- The state with every warp rewritten. -/
def State.mapWarps (s : State) (f : WarpId → Warp → Warp) : State :=
  { s with bays := s.bays.map fun (b, bay) =>
      (b, { bay with warps := bay.warps.map fun (k, x) => (k, f (warpIdOf b k) x) }) }

/-! ## Teams and grids -/

/-- A team on a bay. -/
def State.team? (s : State) (b : Nat) (k : TeamKey) : Option Team := (s.bay b).teams.find? (·.key == k)

/-- The state with a team rewritten. -/
def State.modTeam (s : State) (b : Nat) (k : TeamKey) (f : Team → Team) : State :=
  s.modBay b fun x => { x with teams := x.teams.map fun t => if t.key = k then f t else t }

/-- The page of an address within 57 bits. -/
def pageOf (a : Nat) : Nat := a % 2 ^ 57 / 4096

/-- The identity of the warp in a slot (R271). -/
def State.nameOf (s : State) (w : WarpId) : Option WarpName := (s.warp? w).map fun x => ⟨x.key, x.wid⟩

/-- The team of a warp. -/
def State.teamOf (s : State) (w : WarpId) : Option Team :=
  match s.warp? w with
  | some x => s.team? w.bay x.key
  | none => none

/-- The grid with an identity. -/
def State.grid? (s : State) (g : Nat) : Option Grid := s.grids.find? (·.gid == g)

/-- The state with a grid rewritten. -/
def State.modGrid (s : State) (g : Nat) (f : Grid → Grid) : State :=
  { s with grids := s.grids.map fun x => if x.gid = g then f x else x }

/-- The bay on which a team is, if it is on one. -/
def State.bayOfTeam (s : State) (k : TeamKey) : Option Nat :=
  (s.bays.find? fun (_, b) => b.teams.any (·.key == k)).map (·.1)

/-- The warps of a team on a bay. -/
def State.warpsOf (s : State) (b : Nat) (k : TeamKey) : List (WarpId × Warp) :=
  ((s.bay b).warps.map fun (j, x) => (warpIdOf b j, x)).filter fun p => p.2.key == k

/-! ## Contexts, queues, pool -/

/-- Context c. -/
def State.ctx (s : State) (c : Nat) : Ctx := agetD s.ctxs c .reset

/-- The state with a context rewritten. -/
def State.modCtx (s : State) (c : Nat) (f : Ctx → Ctx) : State := { s with ctxs := amod s.ctxs c .reset f }

/-- Queue q. -/
def State.queue (s : State) (q : Nat) : Queue := agetD s.queues q .reset

/-- The state with a queue rewritten. -/
def State.modQueue (s : State) (q : Nat) (f : Queue → Queue) : State :=
  { s with queues := amod s.queues q .reset f }

/-- Pool entry i. -/
def State.poolEntry (s : State) (i : Nat) : PoolEntry := agetD s.pool i (.reset i)

/-- The context of a warp, through its team. -/
def State.ctxOf (s : State) (w : WarpId) : Nat := ((s.teamOf w).map (·.ctx)).getD 0

/-! ## Words of packets and records -/

/-- Word i of a list of words. -/
def wordAt (p : List W40) (i : Nat) : Word := (p[i]?.getD .zero).v

/-- The 64-bit field at word i of a list of words. -/
def doubleAt (p : List W40) (i : Nat) : Double := wordAt p (i + 1) ++ wordAt p i

/-- Bits [hi:lo] of a word as a number (R91 `bits`). -/
def bitsOf {n : Nat} (x : BitVec n) (hi lo : Nat) : Nat := (x.extractLsb' lo (hi - lo + 1)).toNat

/-- A field of a launch packet by its lowest bit and width, at most 64 (Tables 15.6, 15.7). -/
def packetField (p : List W40) (lo width : Nat) : Nat :=
  ((wordAt p (lo / 32 + 2) ++ wordAt p (lo / 32 + 1) ++ wordAt p (lo / 32)).extractLsb' (lo % 32) width).toNat

/-- A 57-bit address is canonical: bits [63:57] equal bit 56 (R6). -/
def canonical (a : Double) : Bool :=
  let h := a.extractLsb' 56 8
  h == 0 || h == 0xFF

/-- The sign extension of a bit vector to a double. -/
def sextD {n : Nat} (x : BitVec n) : Double := x.signExtend 64

/-! ## Special register values (spec/03 Table 3.2) -/

/-- The lanes of a mask, rising. -/
def lanesOf (m : Mask) : List Nat := (List.range 64).filter fun l => m.getLsbD l

/-- The mask of a list of lanes. -/
def maskOf (ls : List Nat) : Mask := ls.foldl (fun m l => m ||| (1 <<< l)) 0

/-- The number of lanes of a mask. -/
def popMask (m : Mask) : Nat := (lanesOf m).length

/-- `MODE.RM`, `DN`, `LRND`, `LSX`, `ILK`, `W32`, `EXPT` (Table 3.3). -/
def modeRM (m : Word) : Nat := bitsOf m 2 0
@[inherit_doc modeRM] def modeDN (m : Word) : Nat := bitsOf m 4 3
@[inherit_doc modeRM] def modeLRND (m : Word) : Nat := bitsOf m 6 5
@[inherit_doc modeRM] def modeLSX (m : Word) : Bool := m.getLsbD 7
@[inherit_doc modeRM] def modeW32 (m : Word) : Bool := m.getLsbD 9
@[inherit_doc modeRM] def modeEXPT (m : Word) : Nat := bitsOf m 16 10

/-- A `MODE` write by a program (R66): an unassigned RM keeps the old one, EXPT above 64 is 64, W32 and the
reserved bits keep theirs. -/
def modeWrite (old new : Word) : Word :=
  let rm := if bitsOf new 2 0 ≤ 4 then new.extractLsb' 0 3 else old.extractLsb' 0 3
  let ex : BitVec 7 := if bitsOf new 16 10 > 64 then 64 else new.extractLsb' 10 7
  (0 : BitVec 15) ++ ex ++ old.extractLsb' 9 1 ++ new.extractLsb' 3 6 ++ rm

/-- The initial `MODE` of a launch packet (R65, R66): the reset values when the field is zero without MLIT. -/
def modeLaunch (field : Word) (mlit : Bool) : Word :=
  if field = 0 && !mlit then (8 : Word) <<< 10
  else
    let rm : BitVec 3 := if bitsOf field 2 0 ≤ 4 then field.extractLsb' 0 3 else 0
    let ex : BitVec 7 := if bitsOf field 16 10 > 64 then 64 else field.extractLsb' 10 7
    (0 : BitVec 15) ++ ex ++ field.extractLsb' 3 7 ++ rm

/-- The fault information a grid's warps read in `FAULTINFO` (R367). -/
def State.faultInfo (s : State) (g : Nat) : Double := ((s.grid? g).map (·.faultInfo)).getD 0

/-- The `LEASE` register (Table 3.2). -/
def leaseReg (x : Warp) : Word :=
  (if x.active then (0x10000 : Word) else 0) ||| (BitVec.ofNat 32 (x.leaseMeas % 256) <<< 8) |||
    BitVec.ofNat 32 (x.leaseDecl % 256)

/-- `CLRANK` of a team on a bay (Table 3.2). -/
def clrank (b : Nat) (t : Team) : Word :=
  BitVec.ofNat 32 (b * 2 ^ 24 + (t.clsize - 1) * 2 ^ 16 + t.rank)

/-- The value of a special register for one lane (R64, Table 3.2); zero for a number the table lacks. -/
def specialValue (s : State) (w : WarpId) (n lane : Nat) : Double :=
  match s.warp? w with
  | none => 0
  | some x =>
    let t := s.team? w.bay x.key
    let dep := ((s.grid? x.key.gid).map (·.depth)).getD 0
    let of32 (v : Nat) : Double := BitVec.ofNat 64 (v % 2 ^ 32)
    if n = 0x00 then of32 lane
    else if n = 0x01 then of32 x.wid
    else if n = 0x02 then of32 x.key.tid
    else if n = 0x03 then of32 ((t.map (·.dim)).getD 0)
    else if n = 0x04 then of32 x.key.gid
    else if n = 0x05 then ((t.map (clrank w.bay)).getD 0).setWidth 64
    else if n = 0x06 then of32 dep
    else if n = 0x08 then x.mode.setWidth 64
    else if n = 0x09 then x.evpend.setWidth 64
    else if n = 0x0A then x.evmask.setWidth 64
    else if n = 0x0B then (leaseReg x).setWidth 64
    else if n = 0x0C then x.mask
    else if n = 0x0E then BitVec.ofNat 64 (s.bay w.bay).clk
    else if n = 0x10 then x.regBase.setWidth 64
    else if n = 0x11 then s.faultInfo x.key.gid
    else 0

/-- A lane register (R60). -/
def Warp.reg (x : Warp) (r lane : Nat) : W40 := agetD x.regs (r * 64 + lane) .zero

/-- A lane register written. -/
def Warp.setReg (x : Warp) (r lane : Nat) (v : W40) : Warp :=
  { x with regs := aput x.regs (r * 64 + lane) .zero v }

/-- A uniform register (R60). -/
def Warp.ureg (x : Warp) (r : Nat) : W40 := agetD x.uregs r .zero

/-- A uniform register written. -/
def Warp.setUreg (x : Warp) (r : Nat) (v : W40) : Warp := { x with uregs := aput x.uregs r .zero v }

/-- A special register written at commit (R66, R62): `MODE` and `EVMASK` are the writable ones. -/
def Warp.setSpecial (x : Warp) (n : Nat) (v : Word) : Warp :=
  if n = 0x08 then { x with mode := modeWrite x.mode v }
  else if n = 0x0A then { x with evmask := v.extractLsb' 0 16 }
  else x

end Sys2Proof.Machine
end

