-- ==== Sys2Proof/Machine/Memory.lean ====
section
/-! DEFINITION. Memory as the agents reach it: the reliability log, homes, L1 lines, address translation, the
spaces of Table 5.3, scopes (spec/08_memory_model_and_check_codes.md, spec/16_faults_translation_preemption.md
R370 to R375, spec/18_fleet_reliability_service.md R396 to R398). -/

namespace Sys2Proof.Machine

/-! ## Physical addresses and the reliability log -/

/-- A populated physical address: DRAM or the loft (R350). -/
def populated (pa : Nat) : Bool :=
  pa < Config.dramBytes || (Config.loftBase ≤ pa && pa < Config.loftBase + Config.loftBytes)

/-- A word of the MSI-X table (R349): a vector's control word resets with its mask bit set (PRESUMED, the bus's own
rule, notes/assumptions/33.md). -/
def State.msixWord (s : State) (i : Nat) : Word := agetD s.msix i (if i % 4 = 3 then 1 else 0)

/-- An MSI-X vector is masked. -/
def State.msixMasked (s : State) (v : Nat) : Bool := (s.msixWord (4 * v + 3)).getLsbD 0

/-- An MSI-X vector raised (R349, R352): sent, or pending while its vector is masked. -/
def State.raise (s : State) (v : Nat) : State :=
  if s.msixMasked v then { s with pend := s.pend ||| (1 <<< v) } else { s with irqs := s.irqs ++ [v] }

/-- A word of the MSI-X table written: a vector that is pending and no longer masked is sent. -/
def State.setMsix (s : State) (i : Nat) (w : Word) : State :=
  let t : State := { s with msix := aset s.msix i w }
  let v := i / 4
  if t.pend.getLsbD v && !t.msixMasked v then { t with pend := t.pend &&& ~~~((1 : Word) <<< v), irqs := t.irqs ++ [v] }
  else t

/-- The effective lease E of a warp (R269). -/
def effLease (x : Warp) : Nat := if x.measured then max 1 x.leaseMeas else x.leaseDecl

/-- A warp is active for the lease controller: admitted, and not demoted since (R273, R274). -/
def admitted (x : Warp) : Bool := x.active && !x.demote

/-- The sum of E over a bay's active warps (R273). -/
def Bay.leaseSum (b : Bay) : Nat := ((b.warps.filter fun p => admitted p.2).map fun p => effLease p.2).sum

/-- LC_STAT of a bay (Table 9.4): a warp that the end of a lease turn has demoted is active no more, though a block of
it may still run on (R274). -/
def Bay.lcStat (b : Bay) : Word :=
  BitVec.ofNat 32 (b.tight * 2 ^ 24 + min 255 b.leaseSum * 2 ^ 16 + min 255 b.intf * 2 ^ 8 +
    (b.warps.filter fun p => admitted p.2).length % 256)

/-- The snapshot registers of every bay latched (R407, Table 18.8). -/
def latchBays (s : State) : State :=
  let latch (b : Bay) : Bay := { b with
    snapClk := BitVec.ofNat 64 b.clk
    snapBlks := BitVec.ofNat 64 b.blks
    snapLc := b.lcStat
    snapStep := b.fstep }
  (List.range Config.bays).foldl (fun (t : State) n => t.modBay n latch) s

/-- The common snapshot trigger with a tag (R407): ignored and counted while a latch is held. -/
def State.trigger (s : State) (tag : Nat) : State :=
  if s.snap.hold && s.snap.valid then
    { s with snap := { s.snap with missed := min 255 (s.snap.missed + 1) } }
  else latchBays { s with snap := { s.snap with tag := tag, valid := true } }

/-- The words of a log entry (Table 18.2) in memory order. -/
def logWords (s : State) (cls unit num : Nat) (addr : Double) (syn ctx count : Nat) : List Word :=
  let ofN (n : Nat) : Word := BitVec.ofNat 32 n
  [ofN (cls * 2 ^ 24 + unit * 2 ^ 20 + num * 2 ^ 8 + syn), s.rel.tail, addr.extractLsb' 0 32, addr.extractLsb' 32 32,
   0, ofN (count * 2 ^ 16 + (ctx % 2 ^ 12) * 2 ^ 4), ofN s.rel.rclk, ofN (s.rel.rclk / 2 ^ 32)]

/-- An event written into the reliability log, coalesced with the last unconsumed entry, or counted in REL_LOST
(R396, R397). A log of size 0 is disabled: nothing is written or counted. -/
def State.logEvent (s : State) (cls unit num : Nat) (addr : Double) (syn ctx : Nat) : State :=
  let r := s.rel
  let lose : State := { s with rel := { r with lost := min (r.lost + 1) 65535 } }
  if r.size = 0 then s
  else
    let slotOf (t : Word) : Nat := r.base + 32 * (t.toNat % 2 ^ r.size)
    let same := match r.last with
      | some [c, u, n, a, h] =>
        r.tail != r.head && c.toNat = cls && u.toNat = unit && n.toNat = num && h ++ a == addr
      | _ => false
    if same then
      let p := slotOf (r.tail - 1) + 20
      let old := (s.mem.word p).v
      let cnt := min (bitsOf old 31 16 + 1) 65535
      { s with mem := s.mem.setWord p (fresh (BitVec.ofNat 32 (cnt * 2 ^ 16 + old.toNat % 2 ^ 16))) }
    else if 2 ^ r.size ≤ (r.tail - r.head).toNat then lose
    else
      let p := slotOf r.tail
      if !populated p then lose
      else
        let s1 := { s with
          mem := s.mem.setWords p ((logWords s cls unit num addr syn ctx 1).map fresh)
          rel := { r with
            tail := r.tail + 1
            last := some [BitVec.ofNat 32 cls, BitVec.ofNat 32 unit, BitVec.ofNat 32 num,
              addr.extractLsb' 0 32, addr.extractLsb' 32 32] } }
        let s2 := if r.tail = r.head then s1.raise 3 else s1
        if s.snap.on.getLsbD cls then s2.trigger 0xFFFF else s2

/-! ## Homes -/

/-- The 128-byte line of a location. -/
def Loc.line : Loc → Loc
  | .phys pa => .phys (pa / 128)
  | .pad b o => .pad b (o / 128)
  | .remote p pa => .remote p (pa / 128)

/-- The location some bytes further. -/
def Loc.add (l : Loc) (n : Nat) : Loc :=
  match l with
  | .phys pa => .phys (pa + n)
  | .pad b o => .pad b (o + n)
  | .remote p pa => .remote p (pa + n)

/-- The location's address on its device. -/
def Loc.addr : Loc → Nat
  | .phys pa => pa
  | .pad _ o => o
  | .remote _ pa => pa

/-- The word at its home. A remote page has no read (R363); it reads zero here and no access reaches it. -/
def State.homeWord (s : State) : Loc → W40
  | .phys pa => s.mem.word pa
  | .pad b o => (s.bay b).pad.word o
  | .remote _ _ => .zero

/-- A dependence of a head packet is met (R264): the loft word at its signal is at least its value. R264 names no check
of the signal's code: the data are compared as they stand (DESIGN CHOICE, notes/assumptions/26.md). -/
def depMet (s : State) (q : Queue) (p : List W40) (k : Nat) : Bool :=
  let ofs := packetField p (768 + 128 * k) 26
  let a := Config.loftBase + (s.ctx q.ctx).lftb * 65536 + ofs
  let v := (s.mem.word (a + 4)).v ++ (s.mem.word a).v
  packetField p (832 + 128 * k) 64 ≤ v.toNat

/-- The dependences of every head packet evaluated again; one that is met stays met (R264). -/
def evalDeps (s : State) : State :=
  { s with queues := s.queues.map fun (n, q) =>
      match q.packet with
      | none => (n, q)
      | some p =>
        let m (k : Nat) : Bool := q.met.getLsbD k || depMet s q p k
        (n, { q with met := BitVec.ofBool (m 1) ++ BitVec.ofBool (m 0) }) }

/-- The region of a bay that holds the element at a row and column. -/
def Bay.regionAt (x : Bay) (row col : Nat) : Option Region :=
  x.regions.find? fun g => g.row ≤ row && row < g.row + g.h && g.col ≤ col && col < g.col + g.w

/-- The words of a port's configuration (Table 7.6). -/
def portCfg (p : Port) : List W40 := (List.range 8).map fun i => agetD p.cfg i .zero

/-- The offset in the bay's scratchpad of a port's sink area, if its team is resident (R213). -/
def Bay.sinkBase (x : Bay) (row : Nat) : Option Nat :=
  match x.regionAt row 0 with
  | none => none
  | some g => (x.teams.find? (·.key == g.key)).map fun t =>
      t.bspBase + (wordAt (portCfg (agetD x.ports row .reset)) 4).toNat

/-- What a write performed at a home sets off: `WAITADDR` wakes on the line (R149), the sink's next check of its
count word (R213), and the dependences on a loft signal (R264). -/
def State.afterWrite (s : State) (l : Loc) : State :=
  let s1 := s.mapWarps fun _ x =>
    match x.park with
    | .waitAddr w _ _ _ _ _ => if w.line = l.line then { x with woken := true } else x
    | _ => x
  match l with
  | .phys pa => if Config.loftBase ≤ pa then evalDeps s1 else s1
  | .pad b o =>
    if (s1.bay b).ports.any (·.2.sinkWait) then
      s1.modBay b fun x => { x with ports := x.ports.map fun (r, p) =>
        (r, { p with sinkKick := p.sinkKick || (p.sinkWait && (x.sinkBase r).any (· / 128 == o / 128)) }) }
    else s1
  | .remote _ _ => s1

/-- A whole word put at its home, with nothing set off yet. -/
def State.putHomeWord (s : State) (l : Loc) (w : W40) : State :=
  match l with
  | .phys pa => { s with mem := s.mem.setWord pa w }
  | .pad b o => s.modBay b fun x => { x with pad := x.pad.setWord o w }
  | .remote _ _ => s

/-- A whole word written at its home. -/
def State.setHomeWord (s : State) (l : Loc) (w : W40) : State :=
  match l with
  | .remote _ _ => s
  | _ => (s.putHomeWord l w).afterWrite l

/-- The words of one access written at their homes: no agent sees a part of them (R246). -/
def State.writeWhole (s : State) (ps : List (Loc × W40)) : State :=
  ps.foldl (fun t p => t.afterWrite p.1) (ps.foldl (fun t p => t.putHomeWord p.1 p.2) s)

/-- Consecutive words at a home. -/
def State.homeWords (s : State) (l : Loc) (n : Nat) : List W40 := (List.range n).map fun i => s.homeWord (l.add (4 * i))

/-- Consecutive words written at a home in one access. -/
def State.setHomeWords (s : State) (l : Loc) (ws : List W40) : State :=
  s.writeWhole (ws.zipIdx.map fun (v, i) => (l.add (4 * i), v))

/-! ## L1 lines (R235) -/

/-- The L1 line of a bay that holds a physical line, stale or not. -/
def Bay.l1Find (b : Bay) (line : Nat) : Option L1Line := (b.l1.find? (·.1 == line)).map (·.2)

/-- The L1 line replaced where it stands. -/
def Bay.l1Put (b : Bay) (line : Nat) (x : L1Line) : Bay :=
  { b with l1 := b.l1.map fun p => if p.1 = line then (line, x) else p }

/-- The L1 line moved to the place of the line used last. -/
def Bay.l1Use (b : Bay) (line : Nat) : Bay :=
  { b with l1 := b.l1.filter (·.1 != line) ++ b.l1.filter (·.1 == line) }

/-- The L1 line dropped. -/
def Bay.l1Drop (b : Bay) (line : Nat) : Bay := { b with l1 := b.l1.filter (·.1 != line) }

/-- The dirty bytes of word i of a line. -/
def L1Line.dirtyWord (x : L1Line) (i : Nat) : BitVec 4 := x.dirty.extractLsb' (4 * i) 4

/-- The word that a write-back of dirty bytes leaves at the home (R235, R256): the whole word with its code where every
byte is dirty, and otherwise a merge of the dirty bytes. No stage mends a word (R24, R257): the merge keeps the home's
syndrome, or the line's where the home has none, and either poison mark (notes/assumptions/22.md). -/
def writeBackWord (home line : W40) (d : BitVec 4) : W40 :=
  if d = 0xF then line
  else
    let n := line.v &&& byteMask d
    let carried : Byte := if syndromeOf home = 0 then syndromeOf line else 0
    let m := mergeWord home d n (lcc n ^^^ carried)
    { m with p := home.p || line.p }

/-- The dirty bytes of a line written at the home, word by word. -/
def writeBackLine (s : State) (line : Nat) (x : L1Line) : Nat → State
  | 0 => s
  | i + 1 =>
    let s1 := writeBackLine s line x i
    let d := x.dirtyWord i
    if d = 0 then s1
    else
      let l := Loc.phys (line * 128 + 4 * i)
      s1.setHomeWord l (writeBackWord (s1.homeWord l) (agetD x.words i .zero) d)

/-- The dirty bytes of a bay's line written back; the line stays, clean. -/
def State.cleanLine (s : State) (b line : Nat) : State :=
  match (s.bay b).l1Find line with
  | none => s
  | some x => if x.dirty = 0 then s else
    (writeBackLine s line x 32).modBay b fun y => y.l1Put line { x with dirty := 0 }

/-- A bay's line written back and marked stale (R235, R247). -/
def State.staleLine (s : State) (b line : Nat) : State :=
  (s.cleanLine b line).modBay b fun y =>
    match y.l1Find line with
    | some x => y.l1Put line { x with stale := true }
    | none => y

/-- A bay's line written back and dropped (R138). -/
def State.dropLine (s : State) (b line : Nat) : State := (s.cleanLine b line).modBay b (·.l1Drop line)

/-- The line that a fill evicts in this order (R235): under the stream hint, then not kept, then kept, each least
recently used first. A kept line goes only when every other one of its set is kept too (R135). -/
def victimOf (ls : List (Nat × L1Line)) : Option Nat :=
  match ls.find? fun p => p.2.stream && p.2.keep.isEmpty with
  | some p => some p.1
  | none =>
    match ls.find? (·.2.keep.isEmpty) with
    | some p => some p.1
    | none => ls.head?.map (·.1)

/-- Room made for a fill: when the line's set is full, a victim is written back, dropped and tagged (R235,
R271). A line that has gone stale writes no tag. Fewer lines than eight fill no set, whatever the mapping. -/
def State.evictFor (s : State) (b line : Nat) : State :=
  let l1 := (s.bay b).l1
  if l1.length < 8 then s
  else
    let set := l1.filter fun p => Config.l1Set p.1 == Config.l1Set line
    if set.length < Config.l1Ways then s
    else
      match victimOf set with
      | none => s
      | some v =>
        let toucher := ((s.bay b).l1Find v).bind fun x => if x.stale then none else x.warp
        (s.dropLine b v).modBay b fun y =>
          match toucher with
          | some w => { y with tags := (y.tags ++ [(⟨v, w⟩ : VictimTag)]).drop (y.tags.length + 1 - 1024) }
          | none => y

/-- The 32 words of a physical line at the home, as an L1 line. -/
def fillWords (s : State) (line : Nat) : Assoc W40 :=
  (List.range 32).foldl (fun m i => aput m i .zero (s.mem.word (line * 128 + 4 * i))) []

/-- A line brought into a bay's L1: a stale copy is written back and refilled, an absent line filled (R235). -/
def State.fillLine (s : State) (b line : Nat) (w : Option WarpId) (cache : Nat) : State :=
  match (s.bay b).l1Find line with
  | some x =>
    if x.stale then
      let s1 := s.cleanLine b line
      s1.modBay b fun y => (y.l1Put line { x with words := fillWords s1 line, dirty := 0, stale := false }).l1Use line
    else s
  | none =>
    let s1 := s.evictFor b line
    s1.modBay b fun y => { y with l1 := y.l1 ++
      [(line, ⟨fillWords s1 line, 0, false, cache = 1, if cache = 3 then w.toList else [], none⟩)] }

/-- The interference counts of intervals, the count of the interval at a position one up. -/
def countIn : List Nat → Nat → List Nat
  | [], 0 => [1]
  | [], i + 1 => 0 :: countIn [] i
  | n :: r, 0 => (n + 1) :: r
  | n :: r, i + 1 => n :: countIn r i

/-- A warp's miss on a line meets the victim tags (R271) and counts toward its interval of 1,024 misses (R272), which may
be one after the interval whose end is still due. -/
def State.missBy (s : State) (w : WarpId) (line : Nat) : State :=
  let b := s.bay w.bay
  let n := b.misses + 1
  let s1 := s.modBay w.bay fun y => { y with misses := n }
  match b.tags.find? (·.line == line) with
  | none => s1
  | some t =>
    let drop (y : Bay) : Bay := { y with tags := y.tags.filter fun u => u.line != line }
    if s.nameOf w = some t.warp then (s1.modBay w.bay drop).modWarp w fun x => { x with selfLoss := x.selfLoss + 1 }
    else (s1.modBay w.bay drop).modBay w.bay fun y =>
      if n ≤ 1024 then { y with intf := y.intf + 1 } else { y with intfNext := countIn y.intfNext ((n - 1025) / 1024) }

/-- A `.gbl` lookup by a warp (R270, R271): the line counts toward the measured lease, and a miss meets the tags. An
access with CACHE 0b10 makes no lookup. Each lane's access is a lookup of its own, also of a line that another lane of
the node has just looked up (DESIGN CHOICE, notes/assumptions/26.md). -/
def State.lookup (s : State) (w : WarpId) (line : Nat) (cache : Nat) : State :=
  if cache = 2 then s
  else
    let s1 := s.modWarp w fun x => { x with touched := if x.touched.contains line then x.touched else line :: x.touched }
    match (s.bay w.bay).l1Find line with
    | some x => if x.stale then s1.missBy w line else s1
    | none => s1.missBy w line

/-- A line in a bay's L1 marked as touched by a warp and used last (R271). Under the keep hint it is kept for this warp
beside those that keep it already, and is a next victim no more; the stream hint marks a line only as it is inserted
(R135). -/
def State.touchLine (s : State) (w : WarpId) (line cache : Nat) : State :=
  s.modBay w.bay fun y =>
    match y.l1Find line with
    | none => y
    | some x => (y.l1Put line { x with
        warp := s.nameOf w
        stream := x.stream && cache != 3
        keep := if cache = 3 && !x.keep.contains w then w :: x.keep else x.keep }).l1Use line

/-- A line fetched into a bay's L1 for a warp (R71, R135). -/
def State.l1Fetch (s : State) (w : WarpId) (line : Nat) : State :=
  ((s.lookup w line 0).fillLine w.bay line (some w) 0).touchLine w line 0

/-- A warp's load of a `.gbl` word through its bay's L1 (R235, R135). -/
def State.l1Read (s : State) (w : WarpId) (pa cache : Nat) : State × W40 :=
  let line := pa / 128
  let held := match (s.bay w.bay).l1Find line with | some x => !x.stale | none => false
  if cache = 2 && !held then ((s.cleanLine w.bay line), (s.cleanLine w.bay line).mem.word pa)
  else
    let s1 := ((s.lookup w line cache).fillLine w.bay line (some w) cache).touchLine w line cache
    (s1, match (s1.bay w.bay).l1Find line with
      | some x => agetD x.words (pa / 4 % 32) .zero
      | none => .zero)

/-- Whole words put into a line from word i on, their bytes dirty. -/
def L1Line.putWords (x : L1Line) (i : Nat) : List W40 → L1Line
  | [] => x
  | v :: r => ({ x with words := aput x.words i .zero v, dirty := x.dirty ||| ((0xF : BitVec 128) <<< (4 * i)) } : L1Line).putWords (i + 1) r

/-- A warp's store of whole `.gbl` words within one line: one lookup, then into a line the L1 holds, otherwise through
to the home (R235, R272). -/
def State.l1Write (s : State) (w : WarpId) (pa cache : Nat) (vs : List W40) : State :=
  let line := pa / 128
  let s1 := s.lookup w line cache
  match (s1.bay w.bay).l1Find line with
  | none => s1.writeWhole (vs.zipIdx.map fun (v, i) => (.phys (pa + 4 * i), v))
  | some _ =>
    let s2 := (s1.fillLine w.bay line (some w) cache).touchLine w line cache
    s2.modBay w.bay fun y =>
      match y.l1Find line with
      | none => y
      | some x => y.l1Put line (x.putWords (pa / 4 % 32) vs)

/-- A sub-word merge at its stage (R256): the L1 line if the bay holds it valid, otherwise the home. -/
def State.mergeAt (s : State) (m : SubMerge) : State :=
  let home (t : State) : State :=
    let h := t.homeWord m.loc
    let t1 := t.setHomeWord m.loc (mergeWord h m.mask m.n m.cn)
    if h.c = lcc h.v then t1
    else t1.logEvent 0x04 (match m.loc with | .pad _ _ => 0 | _ => 2)
      (match m.loc with | .pad b _ => b | _ => 0) (BitVec.ofNat 64 m.loc.addr) (syndromeOf h).toNat (t.ctxOf m.warp)
  match m.loc with
  | .phys pa =>
    if Config.loftBase ≤ pa then home s
    else
      match (s.bay m.warp.bay).l1Find (pa / 128) with
      | none => home s
      | some x0 =>
        let s1 := if x0.stale then s.fillLine m.warp.bay (pa / 128) (some m.warp) 0 else s
        match (s1.bay m.warp.bay).l1Find (pa / 128) with
        | none => home s1
        | some x =>
          let i := pa / 4 % 32
          let h := agetD x.words i .zero
          let s2 := s1.modBay m.warp.bay fun y => (y.l1Put (pa / 128) { x with
            words := aput x.words i .zero (mergeWord h m.mask m.n m.cn)
            warp := (s1.nameOf m.warp).or x.warp
            dirty := x.dirty ||| ((m.mask.setWidth 128) <<< (4 * i)) }).l1Use (pa / 128)
          if h.c = lcc h.v then s2
          else s2.logEvent 0x04 0 m.warp.bay (BitVec.ofNat 64 pa) (syndromeOf h).toNat (s.ctxOf m.warp)
  | _ => home s

/-! ## Releases and acquires (Table 8.3) -/

/-- Every dirty byte of a bay's L1 written back (R244). -/
def State.cleanAll (s : State) (b : Nat) : State :=
  ((s.bay b).l1.map (·.1)).foldl (fun t line => t.cleanLine b line) s

/-- The L1 part of a release at a scope (R244): from cluster scope on, every dirty byte is written back. -/
def State.release (s : State) (b scope : Nat) : State := if 3 ≤ scope then s.cleanAll b else s

/-- An acquire at a scope (R244): from team scope on stale lines go; from cluster scope on lines without dirty
bytes go and partly dirty lines refill their clean bytes, and from device scope on the bay's fetched copies of blocks
go (R341). -/
def State.acquire (s : State) (b scope : Nat) : State :=
  if scope < 2 then s
  else
    let s := if scope < 4 then s else s.modBay b fun y => { y with code := [] }
    let stale := ((s.bay b).l1.filter (·.2.stale)).map (·.1)
    let s1 := stale.foldl (fun t line => t.dropLine b line) s
    if scope = 2 then s1
    else s1.modBay b fun y => { y with l1 := (y.l1.filter fun p => p.2.dirty != 0).map fun (line, x) =>
      (line, { x with words := (List.range 32).foldl (fun m i =>
        let h := s1.mem.word (line * 128 + 4 * i)
        let d := x.dirtyWord i
        let old := agetD x.words i .zero
        if d = 0 then aput m i .zero h
        else if d = 0xF then aput m i .zero old
        else aput m i .zero (writeBackWord h old d)) [] }) }

/-! ## Address translation (R370 to R375) -/

/-- What a walk or a permission check fails with: KIND, subcode, level, entry address and bad word. -/
structure WalkFail where
  kind : Nat
  sub : Nat
  level : Nat
  pa : Nat
  bad : Option W40
  deriving DecidableEq, Repr

/-- What a walk finds: the page of 4 KiB that holds the address, and how many such pages the leaf maps. -/
structure Leaf where
  base : Nat
  perm : BitVec 3
  rem : Bool
  peer : Nat
  span : Nat
  deriving DecidableEq, Repr

/-- A page-table entry as R371 checks it at level n. -/
def entryOk (e : Double) (n : Nat) : Bool :=
  let leaf := e.getLsbD 1
  e.extractLsb' 8 4 == 0 && !e.getLsbD 2 &&
    (if leaf then n ≤ 2 && (e.getLsbD 6 || e.extractLsb' 52 12 == 0) && (n = 0 || !e.getLsbD 7) &&
        (n != 1 || e.extractLsb' 12 9 == 0) && (n != 2 || e.extractLsb' 12 18 == 0)
     else n != 0 && e.extractLsb' 52 12 == 0 && !e.getLsbD 7 && !e.getLsbD 6)

/-- The walk from the table at `t`, with n levels to go (R371). -/
def walkFrom (s : State) (va : Double) (t : Nat) : Nat → Except WalkFail Leaf
  | 0 => .error ⟨0x01, 1, 0, 0, none⟩
  | n + 1 =>
    let p := t + 8 * bitsOf va (20 + 9 * n) (12 + 9 * n)
    match s.poisoned.find? (·.pa == p) with
    | some q => .error ⟨0x03, 0, n, p, some q.bad⟩
    | none =>
      let lo := s.mem.word p
      let hi := s.mem.word (p + 4)
      if !good lo then .error ⟨0x03, 0, n, p, some lo⟩
      else if !good hi then .error ⟨0x03, 0, n, p, some hi⟩
      else
        let e : Double := hi.v ++ lo.v
        if !e.getLsbD 0 then .error ⟨0x01, 0, n, 0, none⟩
        else if !entryOk e n then .error ⟨0x01, 1, n, 0, none⟩
        else
          let pa := bitsOf e 51 12 * 4096
          if e.getLsbD 1 then
            let inside := va.toNat % 2 ^ (12 + 9 * n) / 4096 * 4096
            let base := if e.getLsbD 7 then pa / 65536 * 65536 + bitsOf va 15 12 * 4096 else pa + inside
            let span := if e.getLsbD 7 then 16 else 512 ^ n
            .ok ⟨base, e.extractLsb' 3 3, e.getLsbD 6, bitsOf e 63 52, span⟩
          else walkFrom s va pa n

/-- The five-level walk of a context (R371), up to the DRAM check of a local page. -/
def walk (s : State) (c : Nat) (va : Double) : Except WalkFail Leaf :=
  let root := (s.ctx c).root
  if !root.getLsbD 0 then .error ⟨0x01, 3, 5, 0, none⟩
  else
    match walkFrom s va (bitsOf root 51 12 * 4096) 5 with
    | .error f => .error f
    | .ok l => if !l.rem && Config.dramBytes < l.base + 4096 then .error ⟨0x01, 2, 0, 0, none⟩ else .ok l

/-- What the cached translations hold for a page (R372). -/
def State.cached (s : State) (c : Nat) (va : Double) : Option Leaf :=
  (s.tlb.find? fun e => e.ctx = c && e.page = va.toNat / 4096).map fun e => ⟨e.base, e.perm, e.rem, e.peer, e.span⟩

/-- What an access needs: R, W, X as bits 0, 1, 2, and whether a remote page serves it (R363). -/
structure Need where
  perm : BitVec 3
  remote : Bool
  deriving DecidableEq, Repr

/-- The need of an access of each kind (Table 16.7). -/
def accNeed : Access → Need
  | .read => ⟨1, false⟩
  | .write => ⟨2, true⟩
  | .atomic => ⟨3, false⟩
  | .fetch => ⟨4, false⟩

/-- The need of a reduction: W, and no remote page (Table 16.7, R363). -/
def redNeed : Need := ⟨2, false⟩

/-- A leaf serves an access, or the permission fault (R371, R363). -/
def leafLoc (s : State) (l : Leaf) (va : Double) (n : Need) : Except WalkFail Loc :=
  if n.perm &&& ~~~l.perm != 0 then .error ⟨0x02, 0, 0, 0, none⟩
  else if l.rem then
    if n.remote && (agetD s.vl.peers l.peer 0).extractLsb' 48 16 != 0 then
      .ok (.remote l.peer (l.base + va.toNat % 4096))
    else .error ⟨0x02, 0, 0, 0, none⟩
  else .ok (.phys (l.base + va.toNat % 4096))

/-- A `.gbl` address of a context translated, through a cached translation or a walk (R371, R372). -/
def State.translate (s : State) (c : Nat) (va : Double) (n : Need) : Except WalkFail Loc :=
  match s.cached c va with
  | some l => leafLoc s l va n
  | none =>
    match walk s c va with
    | .ok l => leafLoc s l va n
    | .error f => .error f

/-- The page of an address is a remote one (R363). -/
def State.remotePage (s : State) (c : Nat) (va : Double) : Bool :=
  canonical va &&
    (match s.cached c va with
     | some l => l.rem
     | none => match walk s c va with | .ok l => l.rem | .error _ => false)

/-- A translation cached (R372). -/
def State.cacheLeaf (s : State) (c : Nat) (va : Double) (l : Leaf) : State :=
  if (s.cached c va).isSome then s
  else { s with tlb := s.tlb ++ [⟨c, va.toNat / 4096, l.base, l.perm, l.rem, l.peer, l.span⟩] }

/-- A poisoned entry listed, provided it is not yet and there is room (R375). -/
def State.listPoison (s : State) (f : WalkFail) : State :=
  match f.bad with
  | some w =>
    if f.kind = 0x03 && !(s.poisoned.any (·.pa == f.pa)) && s.poisoned.length < 32 then
      { s with poisoned := s.poisoned ++ [⟨f.pa, w⟩] }
    else s
  | none => s

/-- An access of a canonical address that never faults: a walk for it that meets a bad entry lists it (R375). -/
def State.listMiss (s : State) (c : Nat) (va : Double) (n : Need) : State :=
  if !canonical va then s
  else match s.translate c va n with | .ok _ => s | .error f => s.listPoison f

/-- A global address that an agent translates in its next step: the context, the need and kind of the access. -/
structure Reach where
  ctx : Nat
  need : Need
  acc : Access
  va : Double
  deriving DecidableEq, Repr

/-- An access of a kind at an address of a context. -/
def reach (c : Nat) (acc : Access) (va : Double) : Reach := ⟨c, accNeed acc, acc, va⟩

/-- The accesses of a context's pages that a run of bytes touches, in address order. -/
def spanReach (c : Nat) (acc : Access) (va : Double) (n : Nat) : List Reach :=
  (List.range (if n = 0 then 0 else (va.toNat % 4096 + n + 4095) / 4096)).map fun k =>
    reach c acc (if k = 0 then va else BitVec.ofNat 64 ((va.toNat / 4096 + k) * 4096))

/-- The first of a list of accesses whose page must be walked (R373), unless an earlier one fails without a walk: a
non-canonical address, or a cached page without the permission. -/
def State.firstMiss (s : State) : List Reach → Option Reach
  | [] => none
  | a :: r =>
    if !canonical a.va then none
    else
      match s.cached a.ctx a.va with
      | none => some a
      | some l => match leafLoc s l a.va a.need with | .ok _ => s.firstMiss r | .error _ => none

/-! ## The spaces (Table 5.3, R230 to R234) -/

/-- Why a lane's address cannot be used. -/
inductive AddrFail where
  | misaligned
  | bounds
  | walk (f : WalkFail)
  deriving DecidableEq, Repr

/-- The member of a clustered team's cluster with a rank, on its bay: live or retired and kept (R233). -/
def State.member (s : State) (b : Nat) (t : Team) (rank : Nat) : Option (Nat × Team) :=
  if rank = t.rank then some (b, t)
  else
    let tid := t.key.tid - t.rank + rank
    (s.bays.flatMap fun (n, y) => (y.teams.filter fun u => u.key = ⟨t.key.gid, tid⟩).map fun u => (n, u)).head?

/-- The position of a lane in its slot (R230). -/
def laneInSlot (x : Warp) (l : Nat) : Nat := if x.lanes = 32 then 32 * x.half + l else l

/-- The index of a warp's slot in its team. -/
def slotIndex (x : Warp) (w32 : Bool) : Nat := if w32 then x.wid / 2 else x.wid

/-- The location of a lane's access of `n` bytes at a space's address (Table 5.3, R132). -/
def State.resolve (s : State) (w : WarpId) (t : Team) (x : Warp) (lane space : Nat) (va : Double) (n : Nat)
    (need : Need) : Except AddrFail Loc :=
  let a := va.toNat
  if a % n != 0 then .error .misaligned
  else if space = 0 then
    if !canonical va then .error .bounds
    else
      match s.translate t.ctx va need with
      | .ok l => .ok l
      | .error f => .error (.walk f)
  else if space = 1 then
    if 2 ^ 10 ≤ a ∨ t.lps < a + n then .error .bounds
    else .ok (.pad w.bay (t.lpsBase + slotIndex x t.w32 * 64 * t.lps + 256 * (a / 4) + 4 * laneInSlot x lane + a % 4))
  else if space = 2 then
    if 2 ^ 19 ≤ a ∨ t.decl < a + n then .error .bounds else .ok (.pad w.bay (t.bspBase + a))
  else if space = 3 then
    let rank := bitsOf va 35 32
    let o := bitsOf va 31 0
    if 2 ^ 36 ≤ a ∨ t.clsize ≤ rank then .error .bounds
    else
      match s.member w.bay t rank with
      | none => .error .bounds
      | some (b, u) => if u.decl < o + n then .error .bounds else .ok (.pad b (u.bspBase + o))
  else
    let c := s.ctx t.ctx
    if 2 ^ 26 ≤ a ∨ c.lftn * 65536 < a + n then .error .bounds
    else .ok (.phys (Config.loftBase + c.lftb * 65536 + a))

/-- The words of a wide access: byte k of a `.lps` access beyond a word lies in the next 256-byte row (R230). -/
def wordLoc (space : Nat) (l : Loc) (i : Nat) : Loc := if space = 1 then l.add (256 * i) else l.add (4 * i)

/-! ## Engine holds (R180, R247) -/

/-- The holds on the line of a location, of whichever bay's engines (R180, R247). -/
def State.holdsOn (s : State) (l : Loc) : List (Nat × LineHold) :=
  s.bays.flatMap fun p => (p.2.holds.filter fun h => h.loc = l.line).map fun h => (p.1, h)

/-- A bay's L1 holds a valid copy of the line of a global location. -/
def State.l1Valid (s : State) (b : Nat) (l : Loc) : Bool :=
  match l with
  | .phys pa => pa < Config.loftBase && ((s.bay b).l1Find (pa / 128)).any fun x => !x.stale
  | _ => false

/-- A load of this line must wait: an engine holds it as a destination. A valid L1 copy is not affected by another bay's
engine (R247). -/
def State.loadHeld (s : State) (b : Nat) (l : Loc) : Bool :=
  (s.holdsOn l).any fun p => p.2.write && (p.1 = b || !s.l1Valid b l)

/-- A store to this line must wait: an engine still reads or writes it. -/
def State.storeHeld (s : State) (l : Loc) : Bool := !(s.holdsOn l).isEmpty

/-- A lane's load of the word at a location (R134): `.gbl` through the L1, every other space at its home. -/
def State.loadWord (s : State) (w : WarpId) (space cache : Nat) (l : Loc) : State × W40 :=
  match space, l with
  | 0, .phys pa => s.l1Read w pa cache
  | _, _ => (s, s.homeWord l)

/-- A lane's store of the whole words of one access (R134, R246). A word for a remote page is not written here. -/
def State.storeWords (s : State) (w : WarpId) (space cache : Nat) (l : Loc) (vs : List W40) : State :=
  match space, l with
  | 0, .phys pa => s.l1Write w pa cache vs
  | _, _ => s.writeWhole (vs.zipIdx.map fun (v, i) => (wordLoc space l i, v))

/-- The words of an access of up to four words, loaded in order. -/
def State.loadWords (s : State) (w : WarpId) (space cache : Nat) (l : Loc) : Nat → Nat → State × List W40
  | 0, _ => (s, [])
  | n + 1, i =>
    let (s1, v) := s.loadWord w space cache (wordLoc space l i)
    let (s2, r) := s1.loadWords w space cache l n (i + 1)
    (s2, v :: r)

end Sys2Proof.Machine
end

