-- ==== Sys2Proof/Machine/Lease.lean ====
section
/-! DEFINITION. Cache leases: effective lease, candidates, admission, parking and the measured value
(spec/09_scheduling_and_leases.md R269 to R275). -/

namespace Sys2Proof.Machine

/-- The effective capacity C of a bay (R272). -/
def Bay.capacity (b : Bay) : Nat := max 1 (b.cap - b.tight)

/-- A resident warp that is neither parked nor retired (R273). -/
def candidate (x : Warp) : Bool := x.started && !x.retired && x.park == .running && x.preempt.isNone

/-- The window of a warp key (R268). -/
def windowOf (key : Nat) : Nat := key / 2 % 4

/-- Candidate p is compared before candidate q: wait stamp, then window, then slot (R273). -/
def waitsBefore (p q : Nat × Warp) : Bool :=
  p.2.stamp < q.2.stamp ||
    (p.2.stamp = q.2.stamp && (windowOf p.1 < windowOf q.1 || (windowOf p.1 = windowOf q.1 && p.1 ≤ q.1)))

/-- A list inserted in wait order. -/
def insertWait (p : Nat × Warp) : List (Nat × Warp) → List (Nat × Warp)
  | [] => [p]
  | q :: r => if waitsBefore p q then p :: q :: r else q :: insertWait p r

/-- The inactive candidates of a bay in wait order. -/
def Bay.waiting (b : Bay) : List (Nat × Warp) :=
  (b.warps.filter fun p => candidate p.2 && !admitted p.2).foldr insertWait []

/-- A warp admitted: a demotion that has not yet taken effect is over (R274). -/
def Bay.activate (b : Bay) (key : Nat) : Bay :=
  { b with warps := b.warps.map fun (k, x) => if k = key then (k, { x with active := true, demote := false }) else (k, x) }

/-- The window guarantee (R273 item 1): a window without active warp admits its earliest candidate. -/
def Bay.guarantee (b : Bay) (win : Nat) : Bay :=
  if b.warps.any fun p => windowOf p.1 = win && admitted p.2 then b
  else
    match b.waiting.find? fun p => windowOf p.1 = win with
    | some p => b.activate p.1
    | none => b

/-- The fill (R273 item 2): inactive candidates in wait order, each admitted while it fits. -/
def Bay.fill (b : Bay) : Bay :=
  b.waiting.foldl (fun y p => if y.leaseSum + effLease p.2 ≤ y.capacity then y.activate p.1 else y) b

/-- Admission decisions of a bay (R273). -/
def Bay.admission (b : Bay) : Bay := ([0, 1, 2, 3].foldl Bay.guarantee b).fill

/-- Admission run on a bay. -/
def State.admission (s : State) (b : Nat) : State := s.modBay b Bay.admission

/-- A warp leaves the active set (R275) and the controller decides anew. -/
def State.deactivate (s : State) (w : WarpId) : State :=
  (s.modWarp w fun x => { x with active := false, unbroken := false, demote := false }).admission w.bay

/-- A warp parks (R49, R275). -/
def State.parkWarp (s : State) (w : WarpId) (p : Park) : State :=
  (s.modWarp w fun x => { x with park := p, woken := false }).deactivate w

/-- A warp becomes a candidate again with a new wait stamp (R275). -/
def State.wakeWarp (s : State) (w : WarpId) : State :=
  (s.modWarp w fun x => { x with park := .running, woken := false, stamp := s.now }).admission w.bay

/-- A list without repeats. -/
def distinct : List Nat → List Nat
  | [] => []
  | a :: r => if r.contains a then distinct r else a :: distinct r

/-- The measured value after a commit (R270): distinct lines of the last 64 committed blocks and the self-loss
count, which every 64 commits halve. -/
def measureCommit (x : Warp) : Warp :=
  let hist := (x.touched :: x.hist).take 64
  let commits := x.commits + 1
  let g := if commits % 64 = 0 then x.selfLoss / 2 else x.selfLoss
  { x with
    hist := hist
    touched := []
    commits := commits
    selfLoss := g
    leaseMeas := min 128 (((distinct hist.flatten).length + g + 15) / 16) }

end Sys2Proof.Machine
end

