-- ==== Sys2Proof/Machine/Stack.lean ====
section
/-! DEFINITION. The split stack of a warp: sixteen entries in hardware, older ones in the split spill area of the
team's scratchpad allocation (spec/02_execution_model.md R45, R47). -/

namespace Sys2Proof.Machine

/-- The kind bits of an entry's address word (R45). -/
def kindBits : EntryKind → Double
  | .pending => 0
  | .call => 1
  | .join => 2

/-- The kind that address bits [2:0] name. -/
def kindOf (a : Double) : EntryKind :=
  if a.extractLsb' 0 3 = 1 then .call else if a.extractLsb' 0 3 = 2 then .join else .pending

/-- The eight words of a double, fresh. -/
def doubleToks (d : Double) : List W40 := [fresh (d.extractLsb' 0 32), fresh (d.extractLsb' 32 32)]

/-- An entry as it lies in the spill area (R45). -/
def entryWords (e : StackEntry) : List W40 :=
  doubleToks ((e.addr &&& ~~~(7 : Double)) ||| kindBits e.kind) ++ doubleToks e.mask ++ doubleToks e.out ++ doubleToks 0

/-- An entry read from its eight words. -/
def entryOf (ws : List W40) : StackEntry :=
  let a := doubleAt ws 0
  ⟨kindOf a, a &&& ~~~(7 : Double), doubleAt ws 2, doubleAt ws 4⟩

/-- The offset of a warp's spill area in its bay's scratchpad, and its capacity in entries: half of the slot's
area for a half-warp (R45). -/
def spillArea (x : Warp) (t : Team) : Nat × Nat :=
  if t.w32 then (t.splBase + slotIndex x true * t.spl + x.half * (t.spl / 2), t.spl / 64)
  else (t.splBase + slotIndex x false * t.spl, t.spl / 32)

/-- The bay scratchpad offset of spilled entry i of a warp, the oldest being 0 (R45). -/
def spillAt (x : Warp) (t : Team) (i : Nat) : Nat := (spillArea x t).1 + 32 * i

/-- Every entry of a warp's split stack, top first (R44, R45). A spilled entry that is read where it lies is not checked;
its words are checked when it is refilled (`refillErrors`): DESIGN CHOICE, notes/assumptions/23.md. -/
def allEntries (s : State) (w : WarpId) : List StackEntry :=
  match s.warp? w, s.teamOf w with
  | some x, some t =>
    x.stack ++ (List.range x.spilled).reverse.map fun i => entryOf ((s.bay w.bay).pad.words (spillAt x t i) 8)
  | some x, none => x.stack
  | none, _ => []

/-- The most entries a warp can hold (R45). -/
def stackCapacity (s : State) (w : WarpId) : Nat :=
  match s.warp? w, s.teamOf w with
  | some x, some t => 16 + (spillArea x t).2
  | _, _ => 16

/-- The depth of a warp's split stack. -/
def stackDepth (x : Warp) : Nat := x.stack.length + x.spilled

/-- A spilled entry put into the spill area. Where an entry has lain there already, only the words whose value changes
are written: every other word keeps its code and its poison mark (R24). A word that is written has a fresh code
(DESIGN CHOICE, notes/assumptions/23.md: Table 8.6 does not list the spill). -/
def spillEntry (m : Memory) (a : Nat) (there : Bool) (e : StackEntry) : Memory :=
  let old := m.words a 8
  m.setWords a ((entryWords e).zipIdx.map fun (v, j) =>
    match old[j]? with
    | some o => if there && o.v == v.v then o else v
    | none => v)

/-- What a refill meets: the words of the entries from `lo` up that return to hardware and fail their check or are
poisoned, each a consumed mismatch for the warp's next block boundary, named by its `.bsp` offset (R24, R257, R258;
DESIGN CHOICE, notes/assumptions/23.md). -/
def refillErrors (m : Memory) (x : Warp) (t : Team) (lo : Nat) : List BoundaryError :=
  (List.range (x.spilled - lo)).flatMap fun k =>
    let a := spillAt x t (lo + k)
    (m.words a 8).zipIdx.filterMap fun (v, j) =>
      if good v then none else some (.cause (.mem 2 (a - t.bspBase + 4 * j)) v)

/-- A warp's split stack replaced: the 16 most recent entries in hardware, the older ones, oldest first, in the
spill area (R45). Spilling takes no block slot and does not fault. -/
def setEntries (s : State) (w : WarpId) (es : List StackEntry) : State :=
  match s.warp? w with
  | none => s
  | some x =>
    let spill := (es.drop 16).reverse
    let y : Warp := { x with stack := es.take 16, spilled := spill.length }
    match s.teamOf w with
    | none => s.setWarp w y
    | some t =>
      (s.setWarp w { y with errs := x.errs ++ refillErrors (s.bay w.bay).pad x t spill.length }).modBay w.bay fun b =>
        { b with pad := (spill.zipIdx).foldl (fun m (e, i) => spillEntry m (spillAt x t i) (i < x.spilled) e) b.pad }

end Sys2Proof.Machine
end

