-- ==== Sys2Proof/Machine/Block.lean ====
section
/-! DEFINITION. The parts of a dispatched block: header, entries, descriptors, nodes, slots, and the delivery of
tokens (spec/03_blocks_and_encoding.md R67 to R75, spec/02_execution_model.md R34 to R36). -/

namespace Sys2Proof.Machine

/-! ## Header and layout -/

/-- The fields of H0 (Table 3.4), with N, Rc, Wc, LSCNT and the exit count as counts. -/
structure Hdr where
  n : Nat
  rc : Nat
  wc : Nat
  ls : Nat
  exits : Nat
  region : Bool
  safe : Bool
  exp : Bool
  pref : Bool
  step : Nat
  join : BitVec 23
  deriving DecidableEq, Repr

/-- H0 read (Table 3.4). -/
def hdrOf (h : Double) : Hdr :=
  ⟨bitsOf h 63 58 + 1, bitsOf h 57 52, bitsOf h 51 47, bitsOf h 46 41, bitsOf h 40 39 + 1, h.getLsbD 38, h.getLsbD 37,
   h.getLsbD 36, h.getLsbD 35, bitsOf h 34 31, h.extractLsb' 0 23⟩

/-- The number of words before the nodes (R67). -/
def Hdr.pre (h : Hdr) : Nat :=
  1 + (h.rc + 1) / 2 + (h.wc + 3) / 4 + (if h.pref then 1 else 0) + (if h.exp then 1 else 0)

/-- A block's length in words (R128). -/
def Hdr.len (h : Hdr) : Nat := h.pre + h.n

/-- Word i of a block. -/
def blkWord (ws : List Double) (i : Nat) : Double := ws[i]?.getD 0

/-- The header of a block's words. -/
def hdr (ws : List Double) : Hdr := hdrOf (blkWord ws 0)

/-- Read entry i (R67, Table 3.5). -/
def readEntry (ws : List Double) (i : Nat) : Word := (blkWord ws (1 + i / 2)).extractLsb' (32 * (i % 2)) 32

/-- Write entry j (R67, Table 3.6). -/
def writeEntry (ws : List Double) (j : Nat) : BitVec 16 :=
  (blkWord ws (1 + ((hdr ws).rc + 1) / 2 + j / 4)).extractLsb' (16 * (j % 4)) 16

/-- The prefetch descriptor (Table 3.7). -/
def prefWord (ws : List Double) : Double := blkWord ws (1 + ((hdr ws).rc + 1) / 2 + ((hdr ws).wc + 3) / 4)

/-- The export descriptor (Table 3.8). -/
def exportWord (ws : List Double) : Double := blkWord ws ((hdr ws).pre - 1)

/-- Node k's instruction word. -/
def nodeWord (ws : List Double) (k : Nat) : Double := blkWord ws ((hdr ws).pre + k)

/-- Node k with its fields; an unassigned OPC is decoded as format A (R81). -/
def nodeAt (ws : List Double) (k : Nat) : BitVec 9 × NodeFmt :=
  (nodeOf (nodeWord ws k)).getD ((nodeWord ws k).extractLsb' 55 9, .a (unpackA (nodeWord ws k)))

/-- Node k's opcode is unassigned, or a field of it is (R81). -/
def unimplemented (ws : List Double) (k : Nat) : Bool :=
  match nodeOf (nodeWord ws k) with
  | none => true
  | some (o, f) => 0x1F0 ≤ o.toNat || !fieldOk o.toNat f

/-- CAUSE of CAPW (Table 13.7). -/
def captureCause (ws : List Double) (k : Nat) : Nat :=
  match nodeOf (nodeWord ws k) with
  | none => 1
  | some (o, f) =>
    if 0x1F0 ≤ o.toNat then 1
    else match f with | .m _ => 3 | .e _ => 3 | .x _ _ => 3 | _ => 2

/-- The join address of a block, 0 for none (R43). -/
def joinAddr (addr : Double) (ws : List Double) : Double :=
  let j := (hdr ws).join
  if j = 0 then 0 else addr + (sextD j <<< 3)

/-- The return address of a block (R128). -/
def returnAddr (addr : Double) (ws : List Double) : Double := addr + BitVec.ofNat 64 (8 * (hdr ws).len)

/-- A read-class node, or the acquire part of `FENCE` (Table 5.1). -/
def readClass (opc : Nat) (f : NodeFmt) : Bool :=
  match f with
  | .m g => opc = 0x120 || (opc = 0x123 && g.order.getLsbD 0)
  | .e _ => readClassE opc
  | _ => false

/-- A commit operation (R39). -/
def commitClass (opc : Nat) : Bool :=
  (0x128 ≤ opc && opc ≤ 0x133) || commitClassE opc

/-- A wait (Table 5.1). -/
def waitClass (opc : Nat) : Bool := opc = 0x175 || opc = 0x176

/-! ## Slots -/

/-- The key of operand slot `which` (0 a, 1 b, 2 c) of node k: its target code (Table 3.9). -/
def slotKey (which k : Nat) : Nat := which * 256 + k

/-- The key of node k's predicate input. -/
def predKey (k : Nat) : Nat := 832 + k

/-- The key of write slot j. -/
def writeKey (j : Nat) : Nat := 768 + j

/-! ## Widths (R69, R70, R96) -/

/-- MOD of a node holds a code that its description assigns, so that the widths it gives are known (R76, R81). -/
def modAssigned (opc : Nat) (f : NodeFmt) : Bool :=
  match f with
  | .a g =>
    let t := g.mod.toNat
    if opc ≤ 0x33 then (intTypes opc).contains t
    else if opc = 0xF0 then cvtFormat t
    else if opc = 0x104 || opc = 0x105 then t ≤ 5 || t = 0xA
    else if (0xF8 ≤ opc && opc ≤ 0xFB) || opc = 0x100 || opc = 0x103 || opc = 0x106 then t = 4 || t = 5
    else true
  | .i g => fieldOkI opc g
  | .k g => fieldOkK opc g
  | .m g => if opc = 0x120 || opc = 0x121 then bitsOf g.mod 3 0 ≤ 4
            else match atomOp opc with | some op => (atomTypes op).contains g.mod.toNat | none => true
  | .x _ _ => true
  | .e g => opc != 0x1E2 || g.mod.toNat ≤ 1

/-- The same fields with another MOD. -/
def withMod (f : NodeFmt) (m : BitVec 5) : NodeFmt :=
  match f with
  | .a g => .a { g with mod := m }
  | .i g => .i { g with mod := m }
  | .k g => .k { g with mod := m }
  | .m g => .m { g with mod := m }
  | .x k g => .x k g
  | .e g => .e { g with mod := m }

/-- Position `which` of a shape: 0 to 2 the slots a, b and c, 3 and 4 what T0 and T1 receive. -/
def shapeAt (sh : NodeShape) (which : Nat) : Option Nat :=
  if which = 0 then sh.a else if which = 1 then sh.b else if which = 2 then sh.c else if which = 3 then sh.r0 else sh.r1

/-- What a node's description says of a slot or a result (R69, R81): that there is none, its width in bits, that it
exists and has a width which an unassigned field value leaves unsaid, or nothing, so that it exists where another node
or a read entry targets it. -/
inductive SlotUse where
  | absent | width (n : Nat) | unsaid | open
  deriving DecidableEq, Repr

/-- A width depends on MOD: it differs between a 32-bit and a 64-bit type code. -/
def variesWithMod (opc : Nat) (f : NodeFmt) (which : Nat) : Bool :=
  shapeAt (nodeShape opc (withMod f 0)) which != shapeAt (nodeShape opc (withMod f 3)) which

/-- The source format of a `CVT` is not one of Table 4.5, so that slot a has no known width (R116). -/
def sourceUnsaid (opc : Nat) (f : NodeFmt) (which : Nat) : Bool :=
  match f with
  | .a g => opc = 0xF0 && which = 0 && !cvtFormat (bitsOf g.ext 20 16)
  | _ => false

/-- What the description of node k says of position `which` (R69, R81, R96): an unassigned opcode has no description,
a defined one whose field holds an unassigned value keeps its slots. -/
def slotUse (ws : List Double) (k which : Nat) : SlotUse :=
  let (o, f) := nodeAt ws k
  if (nodeOf (nodeWord ws k)).isNone || 0x1F0 ≤ o.toNat then .open
  else if o = 0x1E2 && which = 1 && !modAssigned o.toNat f then .open
  else
    match shapeAt (nodeShape o.toNat f) which with
    | none => .absent
    | some n =>
      if sourceUnsaid o.toNat f which || (!modAssigned o.toNat f && variesWithMod o.toNat f which) then .unsaid
      else .width n

/-- The width that a use names. -/
def SlotUse.bits? : SlotUse → Option Nat
  | .width n => some n
  | _ => none

/-- The targets of node k with the width each receives, none where the node's description gives no width. -/
def outsOf (ws : List Double) (k : Nat) : List (BitVec 10 × Option Nat) :=
  let (o, f) := nodeAt ws k
  ((nodeTargets o.toNat f).map (·.1)).zipIdx.map fun (t, i) => (t, (slotUse ws k (if i = 1 then 4 else 3)).bits?)

/-- The widths that node producers deliver to write slot j (R69, R70). -/
def writeWidths (ws : List Double) (j : Nat) : List Nat :=
  (List.range (hdr ws).n).flatMap fun k => (outsOf ws k).filterMap fun (t, n) =>
    if t.toNat = writeKey j then n else none

/-- The width that a target gives a read entry, 0 for none: a slot's description, or a write slot's node producers
(R69). -/
def slotWidth (ws : List Double) (t : BitVec 10) : Nat :=
  match target t with
  | some (.slot k which) => (slotUse ws k which).bits?.getD 0
  | some (.pred _) => 32
  | some (.write j) => (writeWidths ws j).foldl max 0
  | _ => 0

/-- The targets of a read entry (Table 3.5), the null target left out. -/
def entryTargets (e : Word) : List (BitVec 10) :=
  [e.extractLsb' 12 10, e.extractLsb' 2 10].filter fun t => t != nullTarget

/-- The width in bits of a read entry (R69). A special register is read whole unless its slots are narrower. -/
def entryWidth (ws : List Double) (e : Word) : Nat :=
  let w := ((entryTargets e).map (slotWidth ws)).foldl max 0
  if e.extractLsb' 30 2 = 2 then
    let sp := (specialWidth (bitsOf e 29 22)).getD 32
    if w = 0 then sp else min sp w
  else if w = 0 then 32 else w

/-- The width of write slot j: its node producers', else its read entries' (R69, R70). -/
def writeWidth (ws : List Double) (j : Nat) : Nat :=
  match writeWidths ws j with
  | w :: _ => w
  | [] =>
    (((List.range (hdr ws).rc).map (readEntry ws)).findSome? fun e =>
      if (entryTargets e).any (·.toNat = writeKey j) then some (entryWidth ws e) else none).getD 32

/-! ## Completion -/

/-- The operand slots that a node requires (R35, R96); of an unimplemented node, those that are targeted (R81), a
node with an unassigned field value included (DEDUCED, log entry 21). -/
def requiredSlots (slots : Assoc Slot) (ws : List Double) (k : Nat) : List Nat :=
  let (o, f) := nodeAt ws k
  let sh := nodeShape o.toNat f
  let ops :=
    if unimplemented ws k then
      [0, 1, 2].filter fun w => (aget slots (slotKey w k)).isSome
    else (if sh.a.isSome then [0] else []) ++ (if sh.b.isSome then [1] else []) ++ (if sh.c.isSome then [2] else [])
  ops.map (slotKey · k) ++ (if f.pm = 0 then [] else [predKey k])

/-- A slot is complete for a lane: a token has arrived, or every producer has delivered (R34). -/
def slotComplete (slots : Assoc Slot) (key lane : Nat) : Bool :=
  match aget slots key with
  | none => false
  | some s => (aget s.toks lane).isSome || s.prod ≤ s.got

/-- The token at a slot for a lane. -/
def slotTok (slots : Assoc Slot) (key lane : Nat) : Option Tok := (aget slots key).bind fun s => aget s.toks lane

/-- A node fires when every slot it requires is complete for every lane in M (R35). -/
def nodeReady (b : Blk) (k : Nat) : Bool :=
  (requiredSlots b.slots b.words k).all fun key => (lanesOf b.m).all fun l => slotComplete b.slots key l

/-- A token delivered to a slot for the lanes of M: null for a lane the function leaves out. A second non-null
token for a lane is a dataflow conflict and names the lanes (R36). -/
def deliver (b : Blk) (t : BitVec 10) (v : Nat → Option Tok) : Except Mask Blk :=
  if t = nullTarget then .ok b
  else
    let key := t.toNat
    let s := agetD b.slots key ⟨1, 0, []⟩
    let lanes := lanesOf b.m
    let bad := lanes.filter fun l => (v l).isSome && (aget s.toks l).isSome
    if bad.isEmpty then
      let toks := lanes.foldl (fun m l => match v l with | some x => aset m l x | none => m) s.toks
      .ok { b with slots := aset b.slots key { s with got := s.got + 1, toks := toks } }
    else .error (maskOf bad)

/-- Tokens delivered to a list of targets in order; the key of the slot where a conflict arises comes with it. -/
def deliverAll (b : Blk) : List (BitVec 10 × (Nat → Option Tok)) → Except (Nat × Mask) Blk
  | [] => .ok b
  | (t, v) :: r =>
    match deliver b t v with
    | .ok b1 => deliverAll b1 r
    | .error m => .error (t.toNat, m)

/-! ## Operands of a firing node -/

/-- The operand tokens of a node for one lane; a slot that the node lacks is empty. -/
structure LaneOps where
  a : Tok
  b : Tok
  c : Tok
  pred : Bool
  deriving DecidableEq, Repr

/-- The width of operand b of a format I node; 32 bits where an unassigned MOD leaves it unsaid
(notes/assumptions/20.md). -/
def immWidth (opc : Nat) (f : FmtI) : Nat :=
  if 0xFC ≤ opc then 32
  else
    let w (t : Nat) : Nat := ((intShape (opc - 0x40) (typeWidth t) false).b).getD 32
    if !fieldOkI opc f && w 0 != w 3 then 32 else w f.mod.toNat

/-- The constant operand b of a format I node, sign-extended to operand b's width with fresh codes (R75). -/
def immOperand (opc : Nat) (f : FmtI) : Tok := tokOf (immWidth opc f / 32) (f.imm.signExtend 128).toNat

/-- What a node receives for one lane, or nothing when it delivers null for that lane (R35). A `NULL` performs
whatever its predicate (R105). -/
def laneOps (b : Blk) (k lane : Nat) : Option LaneOps :=
  let (o, f) := nodeAt b.words k
  let req := requiredSlots b.slots b.words k
  if req.any fun key => (slotTok b.slots key lane).isNone then none
  else
    let p := ((slotTok b.slots (predKey k) lane).map fun t => tokVal t != 0).getD true
    let performs := f.pm = 0 || f.pm = 3 || (f.pm = 1 && p) || (f.pm = 2 && !p)
    if !performs then none
    else
      let imm := match f with | .i g => immOperand o.toNat g | _ => []
      some ⟨(slotTok b.slots (slotKey 0 k) lane).getD [], (slotTok b.slots (slotKey 1 k) lane).getD imm,
        (slotTok b.slots (slotKey 2 k) lane).getD [], p⟩

/-- The lanes P for which a node performs, with their operands (R94). -/
def performing (b : Blk) (k : Nat) : List (Nat × LaneOps) :=
  (lanesOf b.m).filterMap fun l => (laneOps b k l).map fun x => (l, x)

/-- Node k has fired. -/
def Blk.done (b : Blk) (k : Nat) : Bool := b.fired.getLsbD k

/-- A status bit that a read of the block has found set and cleared (R41). -/
def Blk.clears (b : Blk) (set : Bool) (c : Cleared) : Blk := if set then { b with cleared := c :: b.cleared } else b

/-- A node marked as fired. -/
def Blk.fire (b : Blk) (k : Nat) : Blk := { b with fired := b.fired ||| (1 <<< k) }

/-- An operand word with its place: 4 times the slot (0 a, 1 b, 2 c) plus the word's position in it. -/
abbrev Placed := Nat × W40

/-- The words of the token at a slot, placed. -/
def placed (which : Nat) (t : Tok) : List Placed := t.zipIdx.map fun (w, i) => (4 * which + i, w)

/-- The placed words of every operand (R95). -/
def allOps (o : LaneOps) : List Placed := placed 0 o.a ++ placed 1 o.b ++ placed 2 o.c

/-- The word of an operand that fails its check first, with the lane and place (R95). -/
def badWord (lanes : List (Nat × List Placed)) : Option (Nat × Placed) :=
  lanes.findSome? fun (l, ws) => (ws.find? fun w => !good w.2).map fun w => (l, w)

/-! ## Where a token word comes from (R95, R258) -/

/-- The source lane of `SHFL` before the range test (R121): `how` 0 idx, 1 up, 2 down, 3 xor. -/
def shflSource (how l b : Nat) : Int :=
  if how = 0 then b else if how = 1 then (l : Int) - b else if how = 2 then (l : Int) + b else ((l ^^^ b : Nat) : Int)

/-- The source lane of `SHFL`, or none when it is out of range or not in P (R121). -/
def shflLane (lanes : Nat) (lsx : Bool) (p : List Nat) (how l b : Nat) : Option Nat :=
  let j := shflSource how l b
  let j := if lanes = 32 && !lsx && 32 ≤ j && j ≤ 63 then j - 32 else j
  if 0 ≤ j && j < lanes && p.contains j.toNat then some j.toNat else none

/-- The lane whose token a `SHFL` hands to lane l: the source lane, or l itself (R121). -/
def shflFrom (x : Warp) (b : Blk) (p : List Nat) (how l : Nat) (o : LaneOps) : Nat :=
  (shflLane x.lanes (modeLSX b.mode) p how l (tokVal o.b % 2 ^ 32)).getD l

/-- The slot and lane whose token node k passes on to lane l at word position i, where it passes one on (R95): `MOV`,
`MOV4`, the operand chosen by `SEL`, the value moved by `SHFL`, the low word of `MOVHI`. -/
def passesFrom (x : Warp) (b : Blk) (k l i : Nat) : Option (Nat × Nat) :=
  match laneOps b k l with
  | none => none
  | some o =>
    let opc := (nodeAt b.words k).1.toNat
    if opc = 0x2F || opc = 0x30 then some (0, l)
    else if opc = 0x2A || opc = 0x6A then some (if tokVal o.c != 0 then 0 else 1, l)
    else if opc = 0x35 && i = 0 then some (0, l)
    else if 0xF8 ≤ opc && opc ≤ 0xFF then some (0, shflFrom x b ((performing b k).map (·.1)) (opc % 4) l o)
    else none

/-- The register whose word stands at position i of a slot for a lane (R258): the read entry that targets the slot, or
what a node producer passes on, traced back over at most the given number of nodes. A word that neither delivers is
the block's own. -/
def originOf (x : Warp) (b : Blk) : Nat → Nat → Nat → Nat → WordIdent
  | 0, _, _, _ => .engine
  | fuel + 1, key, l, i =>
    let entry := ((List.range (hdr b.words).rc).map (readEntry b.words)).find? fun e =>
      (entryTargets e).any (·.toNat = key)
    match entry with
    | some e =>
      if e.extractLsb' 30 2 = 0 then .lane (bitsOf e 29 22 + i) l
      else if e.extractLsb' 30 2 = 1 then .uniform (bitsOf e 29 22 + i) l
      else .engine
    | none =>
      let passer := (List.range (hdr b.words).n).findSome? fun k =>
        if b.done k && (outsOf b.words k).any (·.1.toNat = key) then (passesFrom x b k l i).map fun p => (k, p) else none
      match passer with
      | some (k, which, j) => originOf x b fuel (slotKey which k) j i
      | none => .engine

/-- The identity of an operand word of node k (R258). -/
def identOf (x : Warp) (b : Blk) (k lane place : Nat) : WordIdent :=
  originOf x b 64 (if place < 12 then slotKey (place / 4) k else predKey k) lane (place % 4)

end Sys2Proof.Machine
end

