-- ==== Sys2Proof/Machine/Ops.lean ====
section
/-! DEFINITION. Exceptions: records and their delivery, the precise fault of a warp, the discard of a block, the
rollback to a region entry, and the return from an exception (spec/16_faults_translation_preemption.md R365 to
R369, spec/02_execution_model.md R41, R56, spec/08_memory_model_and_check_codes.md R258,
spec/13_compatibility_contract.md R325). -/

namespace Sys2Proof.Machine

/-! ## Records -/

/-- What a record says beside its header (Table 16.2): KIND, subcode, node, lanes, address, space, access, walk
level, physical address, the bad word, and the field at 0x040. -/
structure RecInfo where
  kind : Nat
  sub : Nat := 0
  node : Option Nat := none
  lanes : Mask := 0
  va : Double := 0
  space : Nat := 0
  access : Nat := 0
  level : Nat := 0
  pa : Nat := 0
  bad : Option W40 := none
  f040 : Double := 0
  deriving DecidableEq, Repr

/-- DETAIL (Table 16.2 at 0x030). -/
def RecInfo.detail (i : RecInfo) : Double :=
  BitVec.ofNat 64 (i.sub % 2 ^ 16 + (i.node.getD 0) * 2 ^ 16 + i.space * 2 ^ 22 + i.access * 2 ^ 25 + i.level * 2 ^ 28)

/-- The field at 0x038: stored data, stored code, syndrome. -/
def badField (w : Option W40) : Double :=
  match w with
  | none => 0
  | some x => (0 : BitVec 16) ++ syndromeOf x ++ x.c ++ x.v

/-- A double put at a byte offset of a record. -/
def putDouble (m : Assoc W40) (o : Nat) (d : Double) : Assoc W40 :=
  aput (aput m o .zero (fresh (d.extractLsb' 0 32))) (o + 4) .zero (fresh (d.extractLsb' 32 32))

/-- Words put at consecutive offsets, with their own codes. -/
def putWords (m : Assoc W40) (o : Nat) : List W40 → Assoc W40
  | [] => m
  | w :: r => putWords (aput m o .zero w) (o + 4) r

/-- The header of a record (Table 16.1): KIND and CTX, agent, names. SEQ and STATE are put in when it is
written. -/
def headerWords (ctx kind agent bay warpid region port tid gid : Nat) : Assoc W40 :=
  let w (n : Nat) : W40 := fresh (BitVec.ofNat 32 n)
  let m := aput [] 0 .zero (w (kind + ctx * 2 ^ 16))
  let m := aput m 16 .zero (w (bay + warpid * 2 ^ 8 + agent * 2 ^ 16 + region * 2 ^ 20 + port * 2 ^ 24))
  aput (aput m 20 .zero (w tid)) 24 .zero (w gid)

/-- The body fields up to 0x040 (Table 16.2). -/
def bodyWords (m : Assoc W40) (block word : Double) (mask : Mask) (i : RecInfo) : Assoc W40 :=
  let m := putDouble m 0x100 block
  let m := putDouble m 0x108 word
  let m := putDouble m 0x110 mask
  let m := putDouble m 0x118 i.lanes
  let m := putDouble m 0x120 i.va
  let m := putDouble m 0x128 (BitVec.ofNat 64 i.pa)
  let m := putDouble m 0x130 i.detail
  let m := putDouble m 0x138 (badField i.bad)
  putDouble m 0x140 i.f040

/-- The registers that a warp's record holds: v0 to v15 of every lane and w0 to w15, with their codes. -/
def regWords (m : Assoc W40) (x : Warp) : Assoc W40 :=
  let m := (List.range x.lanes).foldl (fun m l =>
    putWords m (0x180 + 64 * l) ((List.range 16).map fun r => x.reg r l)) m
  putWords m 0x1180 ((List.range 16).map x.ureg)

/-- The physical address of the slot of record number n of a context (R365). -/
def slotPhys (c : Ctx) (n : Nat) : Nat := c.rqBase + 16384 * (n % 2 ^ c.rqSize)

/-- The record address of slot n: the virtual address of its body (R365). -/
def recordAddr (c : Ctx) (n : Nat) : Double :=
  c.rqVa + BitVec.ofNat 64 (16384 * (n % 2 ^ c.rqSize) + 0x100)

/-- The device may write the next record of a context (R367). -/
def canWrite (s : State) (ctx : Nat) : Bool :=
  let c := s.ctx ctx
  let p := slotPhys c c.seq
  c.rqSize != 0 && (c.rqTail - c.rqHead).toNat < 2 ^ c.rqSize && populated p && populated (p + 16383) &&
    !(s.recs.any fun r => r.ctx = ctx && match r.seq with
      | some n => n % 2 ^ c.rqSize = c.seq % 2 ^ c.rqSize
      | none => false)

/-- A slot written: zeroed, then the record's words, SEQ and STATE pending (R365, R367). -/
def writeSlot (s : State) (p seq : Nat) (words : Assoc W40) : State :=
  let s1 : State := { s with mem := s.mem.clear p (p + 16384) }
  let s2 := words.foldl (fun t (o, w) => t.setHomeWord (.phys (p + o)) w) s1
  (s2.setHomeWord (.phys (p + 4)) (fresh (BitVec.ofNat 32 seq))).setHomeWord (.phys (p + 8)) (fresh 0)

/-- One record written and announced: RQ_TAIL, vector 0, and the handler launch (R367). A notice is served by
being read, and the device keeps no agent for it. -/
def writeRecord (s : State) (r : Record) : State :=
  let c := s.ctx r.ctx
  let n := c.seq
  let s1 := (writeSlot s (slotPhys c n) n r.words).modCtx r.ctx fun c =>
    { c with seq := n + 1, rqTail := c.rqTail + 1 }
  let s2 : State := { s1 with recs := s1.recs.map fun q => if q.num = r.num then { q with seq := some n } else q }
  let s3 := s2.raise 0
  if c.thPkt != 0 && r.kind != 0x20 then { s3 with handlers := s3.handlers ++ [(c.svc, c.thPkt, recordAddr c n)] } else s3

/-- The oldest record of a context that is held until it can be written (R367). -/
def heldRecord (s : State) (ctx : Nat) : Option Record := s.recs.find? fun r => r.ctx = ctx && r.seq.isNone

/-- A record raised: written at once when nothing of the context is held and the ring takes it; otherwise held,
or, for a notice, counted in RQ_LOST (R367). -/
def State.addRecord (s : State) (r : Record) : State :=
  if (heldRecord s r.ctx).isNone && canWrite s r.ctx then
    writeRecord { s with recs := s.recs ++ [r], recNum := s.recNum + 1 } r
  else if r.kind = 0x20 then s.modCtx r.ctx fun c => { c with rqLost := min 65535 (c.rqLost + 1) }
  else { s with recs := s.recs ++ [r], recNum := s.recNum + 1 }

/-- A notice whose header names its context (Table 16.12): those of the kingpost, of remote writes and of the runtime. -/
def noticeNamesCtx (sub : Nat) : Bool := 0x20 ≤ sub

/-- A notice (R411): its subcode, header names, and body fields. -/
def State.notice (s : State) (ctx sub bay region port tid gid : Nat) (agent : Nat) (f020 : Double) (f028 : Nat)
    (f038 : Double) : State :=
  let m := headerWords (if noticeNamesCtx sub then ctx else 0) 0x20 agent bay 0 region port tid gid
  let m := putDouble m 0x120 f020
  let m := putDouble m 0x128 (BitVec.ofNat 64 f028)
  let m := putDouble m 0x130 (BitVec.ofNat 64 sub)
  let m := putDouble m 0x138 f038
  s.addRecord ⟨s.recNum, ctx, 0x20, .kingpost, m, none⟩

/-- STATE of a written record set in its slot (Table 16.1). -/
def setRecState (s : State) (r : Record) (v : Word) : State :=
  match r.seq with
  | some n => s.setHomeWord (.phys (slotPhys (s.ctx r.ctx) n + 8)) (fresh v)
  | none => s

/-- A kind of record that a save, or the discard of a captured block, cancels (R378, R326). -/
def cancelKind (k : Nat) : Bool := (1 ≤ k && k ≤ 6) || k = 0x10 || k = 0x11

/-- A record cancelled: its STATE, and a notice with its header (R378). A record that is still held is withdrawn. -/
def cancelRecord (s : State) (r : Record) : State :=
  let s1 : State := { setRecState s r 2 with recs := s.recs.filter fun q => q.num != r.num }
  match r.seq with
  | none => s1
  | some n =>
    let head := (([0, 16, 20, 24] : List Nat)).foldl (fun m o => aput m o .zero (agetD r.words o .zero)) []
    let kindWord := (agetD r.words 0 .zero).v &&& 0xFFFFFF00
    let m := aput head 0 .zero (fresh (kindWord ||| 0x20))
    let m := putDouble m 0x120 (BitVec.ofNat 64 (r.kind * 2 ^ 32 + n % 2 ^ 32))
    let m := putDouble m 0x130 0x60
    s1.addRecord ⟨s1.recNum, r.ctx, 0x20, r.agent, m, none⟩

/-! ## The next block to fetch (R71) -/

/-- The lines that a prefetch descriptor requests, brought into L1 (R71, LVL 0b00). -/
def prefetchLines (s : State) (w : WarpId) (x : Warp) (d : Double) : State :=
  let pair := bitsOf d 63 59
  let base : Double := (x.ureg (2 * pair + 1)).v ++ (x.ureg (2 * pair)).v
  let a := base + (d.extractLsb' 32 27).signExtend 64
  if d.extractLsb' 22 2 != 0 then s
  else (List.range (bitsOf d 31 24 + 1)).foldl (fun t i =>
    let va := (a &&& ~~~(127 : Double)) + BitVec.ofNat 64 (128 * i)
    if !canonical va then t
    else
      match t.translate (t.ctxOf w) va ⟨1, false⟩ with
      | .ok (.phys pa) => t.l1Fetch w (pa / 128)
      | .ok _ => t
      | .error f => t.listPoison f) s

/-- The words of a block fetched without faults, through translations that allow it, for the prefetch of R71. -/
def peekBlock (s : State) (w : WarpId) (va : Double) : Option (List Double) :=
  let rd (a : Double) : Option Double :=
    match s.translate (s.ctxOf w) a ⟨4, false⟩ with
    | .ok (.phys pa) => some ((s.mem.word (pa + 4)).v ++ (s.mem.word pa).v)
    | _ => none
  if va.toNat % 8 != 0 || !canonical va then none
  else
    match rd va with
    | none => none
    | some h => ((List.range (hdrOf h).len).mapM fun i => rd (va + BitVec.ofNat 64 (8 * i)))

/-- A block's prefetch issued (R71): it never faults, a line that cannot be had is skipped, and it is issued once
per dispatch. -/
def prefetchBlock (s : State) (w : WarpId) (va : Double) : State :=
  match s.warp? w, peekBlock s w va with
  | some x, some ws =>
    if (hdr ws).pref && !x.prefetched.contains va then
      (prefetchLines s w x (prefWord ws)).modWarp w fun y => { y with prefetched := va :: y.prefetched }
    else s
  | _, _ => s

/-- A warp's next block to fetch is the one at its address: its prefetch is issued (R71). -/
def State.fetchNext (s : State) (w : WarpId) : State :=
  match s.warp? w with
  | some x => if x.retired then s else prefetchBlock s w x.pc
  | none => s

/-! ## The precise fault of a warp -/

/-- A status bit that a read has cleared comes back (R41): the cause of an earlier error stands before a later one's. -/
def giveBack (s : State) (w : WarpId) (x : Warp) (c : Cleared) : State :=
  match c with
  | .mbox m => s.modBay w.bay fun y => { y with mbox := amod y.mbox m .reset fun b => { b with refused := true } }
  | .copy => s.modTeam w.bay x.key fun t => { t with cpErr := true }
  | .matrix cause => s.modBay w.bay fun y => { y with mx := { y.mx with err := true, cause := cause } }

/-- A warp's block discarded (R41): nothing of it remains but the lines it touched, and the status bits that its reads
have cleared come back. -/
def State.discard (s : State) (w : WarpId) : State :=
  match s.warp? w with
  | none => s
  | some x =>
    (((x.blk.map (·.cleared)).getD []).foldl (fun t c => giveBack t w x c) s).modWarp w fun y => { y with blk := none }

/-- The words of a record that a warp raises, from the state before its block is discarded. -/
def warpRecord (s : State) (w : WarpId) (x : Warp) (i : RecInfo) : Assoc W40 :=
  let ctx := s.ctxOf w
  let addr := (x.blk.map (·.addr)).getD x.pc
  let word := match x.blk, i.node with | some b, some k => nodeWord b.words k | _, _ => 0
  let m := headerWords ctx i.kind 0 w.bay x.wid 0 0 x.key.tid x.key.gid
  regWords (bodyWords m addr word ((x.blk.map (·.m)).getD x.mask) i) x

/-- TAKING AN EXCEPTION. A warp raises a record: its block is discarded, the warp parks under R49 until the record
is served, and the record is delivered (R366, R367). `next` is the group that continues after a trap or break;
every other kind restarts the block from dispatch. -/
def State.takeFault (s : State) (w : WarpId) (i : RecInfo) (next : Option Group) : State :=
  match s.warp? w with
  | none => s
  | some x =>
    let r : Record := ⟨s.recNum, s.ctxOf w, i.kind, .warp w, warpRecord s w x i, none⟩
    let s1 := ((s.discard w).modWarp w fun y => { y with stepping := false }).parkWarp w (.service s.recNum next)
    let s2 := if i.kind = 0x04 then
        s1.logEvent 0x06 0 w.bay (if i.space = 0 && i.pa != 0 then BitVec.ofNat 64 i.pa else i.va)
          (syndromeOf (i.bad.getD .zero)).toNat (s.ctxOf w) else s1
    s2.addRecord r

/-- A program fault (Table 16.5). -/
def State.progFault (s : State) (w : WarpId) (sub : Nat) (node : Option Nat) (lanes : Mask) : State :=
  s.takeFault w { kind := 0x05, sub := sub, node := node, lanes := lanes } none

/-- The code of an access for DETAIL: 0 read, 1 write, 2 atomic, 3 fetch. -/
def accessCode : Access → Nat
  | .read => 0
  | .write => 1
  | .atomic => 2
  | .fetch => 3

/-- A failed address of a lane access taken as its fault (R127, R132, R366). -/
def State.addrFault (s : State) (w : WarpId) (node : Option Nat) (lanes : Mask) (space : Nat) (va : Double)
    (acc : Access) (f : AddrFail) : State :=
  let base : RecInfo :=
    { kind := 0x05, node := node, lanes := lanes, va := va, space := space, access := accessCode acc }
  match f with
  | .misaligned => s.takeFault w { base with sub := 0x01 } none
  | .bounds => s.takeFault w { base with sub := 0x02 } none
  | .walk g =>
    (s.listPoison g).takeFault w { base with
      kind := g.kind, sub := g.sub, level := g.level, pa := g.pa, bad := g.bad } none

/-- The code of AGENT (Table 16.1). -/
def RecAgent.code : RecAgent → Nat
  | .warp _ => 0
  | .copy _ _ | .stream _ _ _ => 1
  | .port _ _ => 2
  | .kingpost => 3
  | .walker => 4

/-- A walk failed for an agent that then goes on as its own rule says (R143, R220, R358, R361). A bad entry is listed and
sends a kind-0x03 record of that agent (R375); no other failure sends one. Such an agent waits for nothing, so serving the
record has no effect on it. -/
def State.walkFailed (s : State) (ctx : Nat) (agent : RecAgent) (bay wid : Nat) (key : TeamKey) (va : Double)
    (acc : Access) (f : WalkFail) : State :=
  let s1 := s.listPoison f
  if f.kind != 0x03 then s1
  else
    let i : RecInfo := { kind := 0x03, sub := f.sub, va := va, access := accessCode acc, level := f.level, pa := f.pa, bad := f.bad }
    let m := headerWords ctx 0x03 agent.code bay wid 0 0 key.tid key.gid
    s1.addRecord ⟨s.recNum, ctx, 0x03, agent, bodyWords m 0 0 0 i, none⟩

/-! ## Traps, breaks and what a boundary brings (R131, R380, R381, R274) -/

/-- A warp runs a group: its mask and address (R43). -/
def runAt (x : Warp) (addr : Double) (mask : Mask) : Warp := { x with pc := addr, mask := mask }

/-- A group's action stops its warp: a trap always, a break while the context is debugged (R131, R380). -/
def groupStops (s : State) (w : WarpId) (act : GroupAct) : Bool :=
  match act with
  | .trap _ _ _ => true
  | .brk _ _ _ => (s.ctx (s.ctxOf w)).dbg
  | _ => false

/-- A trap or break record of a group (R131): the warp parks until it is served, then the group continues at the
return address. -/
def takeGroupRecord (s : State) (w : WarpId) (g : Group) : State :=
  match s.warp? w with
  | none => s
  | some x =>
    let (kind, sub, block, m) : Nat × Nat × Double × Mask := match g.act with
      | .trap code b m => (0x07, code.toNat, b, m)
      | .brk code b m => (0x08, code.toNat, b, m)
      | _ => (0x08, 0, x.pc, x.mask)
    let i : RecInfo := { kind := kind, sub := sub, lanes := g.mask, f040 := g.addr }
    let y := { x with pc := block, mask := m, blk := none }
    let r : Record := ⟨s.recNum, s.ctxOf w, kind, .warp w, warpRecord s w y i, none⟩
    let z := { runAt x g.addr g.mask with stepping := false }
    (((s.setWarp w z).discard w).parkWarp w (.service s.recNum (some { g with act := .none }))).addRecord r

/-- A running warp at a block boundary: a step record that is still pending parks it (R381), a stop request makes it
deliver a stop break and park (R380), a demotion takes effect (R274). -/
def State.settle (s : State) (w : WarpId) : State :=
  match s.warp? w with
  | none => s
  | some x =>
    let here : Option Group := some ⟨0, x.pc, x.mask, .none⟩
    if x.retired || x.park != .running || x.blk.isSome then s
    else if x.stepRec.any fun n => s.recs.any (·.num == n) then
      (s.modWarp w fun y => { y with stepRec := none }).parkWarp w (.service (x.stepRec.getD 0) here)
    else if x.stop then
      let i : RecInfo := { kind := 0x08, sub := 1, lanes := x.mask, f040 := x.pc }
      let r : Record := ⟨s.recNum, s.ctxOf w, 0x08, .warp w, warpRecord s w x i, none⟩
      ((s.modWarp w fun y => { y with stop := false, stepRec := none }).parkWarp w (.service s.recNum here)).addRecord r
    else
      let s1 := s.modWarp w fun y => { y with stepRec := none }
      if x.demote then s1.deactivate w else s1

/-! ## Rollback and consumed mismatches -/

/-- A warp rolled back to its region entry (R56): the block is discarded, the split stack is cut back, mask and
address are the recorded ones. -/
def State.rollback (s : State) (w : WarpId) : State :=
  match s.warp? w with
  | none => s
  | some x =>
    match x.region with
    | none => s
    | some r =>
      let es := allEntries s w
      let s1 := setEntries s w (es.drop (es.length - r.depth))
      let kept := (es.drop (es.length - r.depth)).filter (·.kind == .pending)
      let s2 := (s1.discard w).modWarp w fun y => { y with
        pc := r.addr
        mask := r.mask
        since := 0
        acts := y.acts.filter fun g => kept.any fun e => e.addr = g.addr && e.mask = g.mask }
      ((s2.modBay w.bay fun b => { b with roll := b.roll + 1 }).fetchNext w).settle w

/-- The space and address that a record names for a word's identity. -/
def identPlace : WordIdent → Nat × Double
  | .mem sp a => (sp, BitVec.ofNat 64 a)
  | .lane r l => (0, BitVec.ofNat 64 (r * 64 + l))
  | .uniform r _ => (0, BitVec.ofNat 64 r)
  | .engine => (0, 0)

/-- The physical address of a word; 0 for a word that has none (Table 16.2 at 0x028). -/
def identPhys (s : State) (w : WarpId) (i : WordIdent) : Nat :=
  match i with
  | .mem 4 a => Config.loftBase + (s.ctx (s.ctxOf w)).lftb * 65536 + a
  | .mem 0 a =>
    (match s.translate (s.ctxOf w) (BitVec.ofNat 64 a) ⟨0, false⟩ with
    | .ok l => l.addr
    | .error _ => 0)
  | _ => 0

/-- ADDR of a log entry about a word (Table 18.2): the physical address, the space offset, or a register's index. -/
def identLog (s : State) (w : WarpId) (i : WordIdent) : Double :=
  match i with
  | .mem 0 _ => BitVec.ofNat 64 (identPhys s w i)
  | _ => (identPlace i).2

/-- A bay's clean L1 copy of the line of a physical address dropped. -/
def Bay.dropCleanAt (b : Bay) (pa : Nat) : Bay :=
  match b.l1Find (pa / 128) with
  | some l => if l.dirty = 0 then b.l1Drop (pa / 128) else b
  | none => b

/-- The clean L1 copy of the line that holds a word dropped (R258). -/
def dropClean (s : State) (w : WarpId) (i : WordIdent) : State :=
  match i with
  | .mem 0 a =>
    match s.translate (s.ctxOf w) (BitVec.ofNat 64 a) ⟨0, false⟩ with
    | .ok (.phys pa) => s.modBay w.bay (·.dropCleanAt pa)
    | _ => s
  | _ => s

/-- A consumed mismatch or a poisoned word (R258): a first one inside a region drops the clean L1 copy of its line and
rolls the warp back; a second on the same word, or one without a region, discards the block and faults, and the record
says with which access the word was met (Table 16.2; 2 at the home of an atomic, a reduction or a barrier update). An
error that names no word faults with subcode 0x12; where a word that an engine read was bad, the rollback is logged as
well (R398). A word of a record lies in the memory of the context that handles it, and comes with its physical address.
-/
def State.consumed (s : State) (w : WarpId) (i : WordIdent) (bad : W40) (node : Option Nat) (lanes : Mask)
    (access : Nat := 0) (phys : Option Nat := none) : State :=
  match s.warp? w with
  | none => s
  | some x =>
    if x.region.isSome && x.check != some i then
      let s0 := s.modWarp w fun y => { y with check := some i }
      let s1 := match phys with | some pa => s0.modBay w.bay (·.dropCleanAt pa) | none => dropClean s0 w i
      let s2 := s1.rollback w
      let at' : Double := match phys with | some pa => BitVec.ofNat 64 pa | none => identLog s w i
      if i = .engine && good bad then s2 else s2.logEvent 0x05 0 w.bay at' (syndromeOf bad).toNat (s.ctxOf w)
    else
      match i with
      | .engine => s.progFault w 0x12 node lanes
      | _ =>
        s.takeFault w
          { kind := 0x04, node := node, lanes := lanes, va := (identPlace i).2, space := (identPlace i).1,
            access := access, pa := phys.getD (identPhys s w i), bad := some bad } none

/-- A request of a committing block has failed: its entry of the operation table says so (R382). -/
def State.failIssued (s : State) (w : WarpId) (seq : Nat) : State :=
  s.modBlk w fun b => { b with issued := b.issued.map fun p => if p.2 = some seq then (p.1, none) else p }

/-- An error is due at this block boundary, or, reported between two blocks by a home, only at the next one (R259). -/
def BoundaryError.due : BoundaryError → Bool
  | .home _ _ => false
  | _ => true

/-- An error as the dispatch of a block leaves it: the boundary at the block's end serves it (R259). -/
def BoundaryError.ripe : BoundaryError → BoundaryError
  | .home i v => .cause i v
  | e => e

/-- An engine's or a home's error queued for a warp's next block boundary (R157, R181, R259). -/
def State.boundaryError (s : State) (w : WarpId) (e : BoundaryError) : State :=
  s.modWarp w fun x => { x with errs := x.errs ++ [e] }

/-- An engine error of R157, which names no word (R258). -/
def State.engineError (s : State) (w : WarpId) : State := s.boundaryError w (.cause .engine .zero)

/-- An engine error over a word that fails its check: the identity is still the engine's (R258). -/
def State.engineWordError (s : State) (w : WarpId) (v : W40) : State := s.boundaryError w (.cause .engine v)

/-! ## Return from an exception -/

/-- The words of RES0 or RES1 of a lane in a capture record at a physical address (Table 13.6). -/
def resWords (s : State) (p lane which n : Nat) : List W40 :=
  s.mem.words (p + 0x180 + 128 * lane + 0x40 + 16 * which) n

/-- The width that a target's slot has, in words: an operand slot's own, a predicate's 1, a write slot's that of its
other producers, and 32 bits where it has none (R70, R96, R325); `dflt` for an operand slot to which nothing gives
one. -/
def targetWords (ws : List Double) (t : BitVec 10) (dflt : Nat) : Nat :=
  match target t with
  | some (.slot k which) => (slotUse ws k which).bits?.elim dflt (· / 32)
  | some (.pred _) => 1
  | some (.write j) => writeWidth ws j / 32
  | _ => dflt

/-- What ends the delivery of a capture record's results: a width that its target's slot has not, a bad word of RES0
or RES1 with its lane, result and position, or a second token (R325, R258, R36). -/
inductive ResFail where
  | width
  | word (lane which pos : Nat) (w : W40)
  | conflict (key : Nat) (lanes : Mask)
  deriving DecidableEq, Repr

/-- The first bad word of a result, lane by lane. -/
def badRes (s : State) (p which n : Nat) (lanes : List Nat) : Option ResFail :=
  lanes.findSome? fun l =>
    ((resWords s p l which n).zipIdx.find? fun v => !good v.1).map fun v => .word l which v.2 v.1

/-- The results delivered to U's targets in order, `k` the number of the next (R325): RWk 0 delivers null to every
lane. CAPW has codes for T0 and T1 only. -/
def deliverRes (s : State) (p : Nat) (capw : Word) (lanes : List Nat) (b : Blk) :
    Nat → List (BitVec 10) → Except ResFail Blk
  | _, [] => .ok b
  | k, t :: r =>
    let rw := if k = 0 then bitsOf capw 29 28 else if k = 1 then bitsOf capw 27 26 else 0
    let n := if rw = 3 then 4 else rw
    if t = nullTarget then deliverRes s p capw lanes b (k + 1) r
    else if rw != 0 && n != targetWords b.words t n then .error .width
    else
      match badRes s p k n lanes with
      | some e => .error e
      | none =>
        match deliver b t fun l => if rw = 0 || !lanes.contains l then none else some (resWords s p l k n) with
        | .ok b1 => deliverRes s p capw lanes b1 (k + 1) r
        | .error m => .error (.conflict t.toNat m)

/-- The lowest-indexed unimplemented node that no capture has served yet: R322 applies to it in turn. -/
def nextUnimplemented (b : Blk) : Option Nat :=
  (List.range (hdr b.words).n).find? fun k => unimplemented b.words k && !b.done k

/-- The block of a served capture goes on (R325): under R35 to R40, or, while it holds another unimplemented node,
with the capture of that one (R322; DEDUCED, log entry 21). -/
def goOnCaptured (s : State) (w : WarpId) (b : Blk) : State :=
  match nextUnimplemented b with
  | none => (s.modWarp w fun y => { y with blk := some { b with capture := none } }).wakeWarp w
  | some k =>
    if captureCause b.words k = 3 then
      ((s.modWarp w fun y => { y with blk := some b }).wakeWarp w).takeFault w
        { kind := 0x06, sub := 3, node := some k, lanes := b.m } none
    else (s.modWarp w fun y => { y with blk := some { b with capture := some ⟨k⟩ } }).wakeWarp w

/-- A captured block, discarded by now or before, restarts from dispatch (R325): its words are fetched from their point
of coherence again. -/
def restartCaptured (s : State) (w : WarpId) : State :=
  ((((s.discard w).modBay w.bay fun y => { y with code := [] }).wakeWarp w).fetchNext w).settle w

/-- The results of a capture record delivered to the targets of U, or its block restarted (R325). -/
def resumeCapture (s : State) (w : WarpId) (p : Nat) (va : Double) : State :=
  match s.warp? w with
  | none => s
  | some x =>
    match x.blk with
    | none => restartCaptured s w
    | some b =>
      match b.capture with
      | none => restartCaptured s w
      | some cap =>
        let capw := (s.mem.word (p + 0x120)).v
        if !capw.getLsbD 31 || !capw.getLsbD 30 then restartCaptured s w
        else
          let (o, f) := nodeAt b.words cap.node
          let ps := (performing b cap.node).map (·.1)
          match deliverRes s p capw ps (b.fire cap.node) 0 ((nodeTargets o.toNat f).map (·.1)) with
          | .ok b1 => goOnCaptured s w b1
          | .error .width => (s.wakeWarp w).progFault w 0x10 (some cap.node) b.m
          | .error (.word l k j v) =>
            let o := 0x80 + 128 * l + 0x40 + 16 * k + 4 * j
            (s.wakeWarp w).consumed w (.mem 0 (va + BitVec.ofNat 64 o).toNat) v (some cap.node) (maskOf [l]) 0
              (some (p + 0x100 + o))
          | .error (.conflict key m) =>
            (s.wakeWarp w).takeFault w
              { kind := 0x05, sub := 0x03, node := some cap.node, lanes := m, va := BitVec.ofNat 64 key } none

/-- The double that a record holds at an offset. -/
def recordDouble (r : Record) (o : Nat) : Double := (agetD r.words (o + 4) .zero).v ++ (agetD r.words o .zero).v

/-- A served check-code fault over a `.gbl` word: the bay's clean copy of its line goes, so that the restarted block
reads the word at its home, where the repair was stored (R309, Table 12.7 step 7; DEDUCED, log entry 22). -/
def dropRepaired (s : State) (w : WarpId) (r : Record) : State :=
  if r.kind = 0x04 && (recordDouble r 0x130).extractLsb' 22 3 = 0#3 then dropClean s w (.mem 0 (recordDouble r 0x120).toNat)
  else s

/-- What serving a record does for its agent (Table 16.3): a warp restarts its block or continues its group, a
copy request, a binding or a port resumes. -/
def serveAgent (s : State) (r : Record) (p : Nat) (va : Double) : State :=
  match r.agent with
  | .warp w =>
    match s.warp? w with
    | none => s
    | some x =>
      match x.park with
      | .service n next =>
        if n = r.num then
          if r.kind = 0x06 then resumeCapture s w p va
          else
            match next with
            | some g =>
              if groupStops s w g.act then takeGroupRecord s w g
              else (((s.modWarp w fun y => runAt y g.addr g.mask).wakeWarp w).fetchNext w).settle w
            | none =>
              -- the warp of an overflowing retry has no group of its own: it waits for its exported lanes again
              if x.mask = 0 then s.modWarp w fun y => { y with park := .exportReturn }
              else (((dropRepaired s w r).wakeWarp w).fetchNext w).settle w
        else s
      | _ => s
  | .copy b _ =>
    let f (c : CopyRun) : CopyRun := if c.stalled = some r.num then { c with stalled := none } else c
    s.modBay b fun y => { y with copies := y.copies.map f }
  | .stream q _ _ =>
    let f (c : StreamBind) : StreamBind := if c.stalled = some r.num then { c with stalled := none } else c
    s.modBay q.bay fun y =>
      { y with ports := y.ports.map fun (k, t) => (k, { t with inBind := t.inBind.map f, outBind := t.outBind.map f }) }
  | .port q _ =>
    let f (t : Port) : Port := if t.stalled = some r.num then { t with stalled := none } else t
    s.modBay q.bay fun y => { y with ports := y.ports.map fun (k, t) => (k, f t) }
  | .kingpost => s
  | .walker => s

/-- The pending record that an address names for an issuing context (R369). -/
def namedRecord (s : State) (issuer : Nat) (a : Double) : Option Record :=
  s.recs.find? fun r => (r.ctx = issuer || (s.ctx r.ctx).svc = issuer) &&
    match r.seq with
    | some n => recordAddr (s.ctx r.ctx) n = a
    | none => false

/-- RETURNING FROM AN EXCEPTION: `TRET` and RESUME (R369). An address that names no pending record has no
effect. -/
def State.tret (s : State) (issuer : Nat) (a : Double) : State :=
  match namedRecord s issuer a with
  | none => s
  | some r =>
    let s1 : State := { setRecState s r 1 with recs := s.recs.filter fun q => q.num != r.num }
    if r.kind = 0x20 then s1
    else serveAgent s1 r (slotPhys (s.ctx r.ctx) (r.seq.getD 0)) a

end Sys2Proof.Machine
end

