-- ==== Sys2Proof/Machine/Flow.lean ====
section
/-! DEFINITION. What follows a block: successor groups, the join, divergence, export, retirement
(spec/02_execution_model.md R42 to R50, spec/05_memory_control_instructions.md R128 to R131,
spec/09_scheduling_and_leases.md R278, spec/07_truss_fabric.md R223). -/

namespace Sys2Proof.Machine

/-! ## Event occurrences (R144, R147) -/

/-- An edge occurrence at every slot of a warp whose binding passes the test. -/
def markEvents (x : Warp) (p : EventBind → Bool) : Warp :=
  { x with evpend := x.binds.foldl (fun m (k, e) => if p e then m ||| (1 <<< k) else m) x.evpend }

/-- An edge occurrence at the bound slots of the warps of a bay that pass a test. -/
def State.occur (s : State) (bay : Nat) (who : Warp → Bool) (p : EventBind → Bool) : State :=
  s.modBay bay fun b => { b with warps := b.warps.map fun (k, x) => (k, if who x then markEvents x p else x) }

/-- A level slot's pending bit follows its mailbox (R144): the slots of the owning team's warps bound to it. -/
def State.mailboxLevel (s : State) (bay m : Nat) : State :=
  let b := s.bay bay
  let mb := agetD b.mbox m .reset
  let full := !mb.msgs.isEmpty || mb.spillCount != 0
  let upd (x : Warp) : Warp :=
    { x with evpend := x.binds.foldl (fun v (k, e) =>
        if e.kind = 2 && e.sel = m then
          (if full then v ||| (1 <<< k) else v &&& ~~~((1 : BitVec 16) <<< k))
        else v) x.evpend }
  s.modBay bay fun y => { y with warps := y.warps.map fun (k, x) => (k, if mb.owner = some x.key then upd x else x) }

/-! ## Retirement of a warp -/

/-- A warp retires (R50): it leaves the active set and its victim tags go (R271). -/
def State.retireWarp (s : State) (w : WarpId) : State :=
  let s1 := s.modWarp w fun x => { x with retired := true, mask := 0, blk := none, park := .running }
  (s1.modBay w.bay fun b => { b with tags := b.tags.filter fun t => some t.warp != s.nameOf w }).deactivate w

/-! ## Successor groups -/

/-- The target of a direct exit (R75): the block's address plus 8 × the offset. -/
def directTarget (addr : Double) (f : FmtX) : Double := addr + (sextD f.ofs <<< 3)

/-- An address inserted into a rising list without repeats. -/
def insertAddr (a : Double) : List Double → List Double
  | [] => [a]
  | b :: r => if a = b then b :: r else if a.toNat < b.toNat then a :: b :: r else b :: insertAddr a r

/-- The groups of one exit vote (R43, R129, R131): one per distinct target for the indirect kinds, none for `RET`
and `HALT`. -/
def voteGroups (b : Blk) (v : ExitVote) : List Group :=
  match (nodeAt b.words v.node).2 with
  | .x kind f =>
    let e := f.exit.toNat
    let ret := returnAddr b.addr b.words
    let code := f.ofs.extractLsb' 0 16
    let indirect (act : GroupAct) : List Group :=
      (v.targets.foldl (fun l p => insertAddr p.2 l) []).map fun t =>
        ⟨e, t, maskOf ((v.targets.filter fun p => p.2 = t).map (·.1)), act⟩
    if v.lanes = 0 then []
    else if kind = 0 then [⟨e, directTarget b.addr f, v.lanes, .none⟩]
    else if kind = 1 then indirect .none
    else if kind = 2 then [⟨e, directTarget b.addr f, v.lanes, .call ret⟩]
    else if kind = 3 then indirect (.call ret)
    else if kind = 6 then [⟨e, ret, v.lanes, .trap code b.addr b.m⟩]
    else if kind = 7 then [⟨e, ret, v.lanes, .brk code b.addr b.m⟩]
    else []
  | _ => []

/-- The votes in exit-number order. -/
def sortedVotes (b : Blk) : List ExitVote :=
  [0, 1, 2, 3].flatMap fun e => b.votes.filter fun v =>
    match (nodeAt b.words v.node).2 with | .x _ f => f.exit.toNat = e | _ => false

/-- The kind of a vote's exit node. -/
def voteKind (b : Blk) (v : ExitVote) : Option (BitVec 3) :=
  match (nodeAt b.words v.node).2 with
  | .x k _ => some k
  | _ => none

/-- The lanes that fired an exit of a kind. -/
def kindLanes (b : Blk) (kind : BitVec 3) : Mask :=
  b.votes.foldl (fun m v => if voteKind b v = some kind then m ||| v.lanes else m) 0

/-- The groups that continue, in exit-number order (R43, R129). -/
def flowGroups (b : Blk) : List Group := (sortedVotes b).flatMap (voteGroups b)

/-- How many successor groups the vote forms, the returning ones counted by exit (R43). -/
def groupCount (b : Blk) : Nat :=
  let rets := b.votes.filter fun v => voteKind b v = some 4 && v.lanes != 0
  (flowGroups b).length + rets.length

/-- The region of a bay that a team numbers r. -/
def Bay.teamRegion (b : Bay) (k : TeamKey) (r : Nat) : Option Region :=
  b.regions.find? fun g => g.key = k && g.idx = r

/-- The export buffer's capacity in tokens (R223). -/
def exportRoom : Nat := 1088

/-- The tokens that committing blocks of a bay have yet to send to a port (R223, R278). -/
def Bay.promised (b : Bay) (row : Nat) : Nat :=
  ((b.warps.flatMap fun p => (p.2.blk.map (·.exporting)).getD []).map fun e => if e.row = row then e.toks else 0).sum

/-- A group may go to the truss (R46): EXPORT is set, XEXIT names its exit, its lanes are fewer than the threshold, and
the block lies inside an idempotent region. -/
def mayExport (x : Warp) (b : Blk) (g : Group) : Bool :=
  let lim := modeEXPT b.mode / (if modeW32 b.mode then 2 else 1)
  (hdr b.words).exp && g.exit = bitsOf (exportWord b.words) 63 62 && popMask g.mask < lim && x.region.isSome

/-- The region and port that take a group (R46, R278): the descriptor's image is loaded in a region of the team that
runs without a fault, and the port's buffer takes every token beside `more` that are already on their way. Where the image
is loaded in several of the team's regions the first in the bay's list that can take the group has it, and a PORT that the
region lacks is a failed condition: R46 names neither (DESIGN CHOICE, notes/assumptions/27.md). -/
def exportOf (s : State) (w : WarpId) (x : Warp) (b : Blk) (more : Nat → Nat) (g : Group) : Option ExportPlan :=
  let d := exportWord b.words
  let n := popMask g.mask * (bitsOf d 49 46 + 2)
  let takes (r : Region) : Bool :=
    let row := r.row + bitsOf d 45 43
    r.key = x.key && r.image = some (bitsOf d 61 58) && r.loaded && r.running && !r.faulted && r.col = 0 &&
      bitsOf d 45 43 < r.h && (agetD (s.bay w.bay).ports row .reset).exports.length + more row + n ≤ exportRoom
  if mayExport x b g then
    ((s.bay w.bay).regions.find? takes).map fun r => ⟨g.addr, r.idx, r.row + bitsOf d 45 43, n⟩
  else none

/-- The groups of a block that are exported, in order; each must fit beside those before it (R46, R223, R278). -/
def exportsOf (s : State) (w : WarpId) (x : Warp) (b : Blk) : List ExportPlan :=
  (flowGroups b).foldl (fun es g =>
    let more (row : Nat) : Nat := (s.bay w.bay).promised row + ((es.filter (·.row = row)).map (·.toks)).sum
    match exportOf s w x b more g with
    | some e => es ++ [e]
    | none => es) []

/-- The plan under which a group of a committing block is exported. -/
def planOf (b : Blk) (g : Group) : Option ExportPlan :=
  if g.exit = bitsOf (exportWord b.words) 63 62 then b.exporting.find? (·.addr = g.addr) else none

/-- The exported groups with their plans, and what is left (R46). -/
def splitExport (b : Blk) : List (Group × ExportPlan) × List Group :=
  let gs := flowGroups b
  (gs.filterMap fun g => (planOf b g).map fun e => (g, e), gs.filter fun g => (planOf b g).isNone)

/-- How many entries the successor step pushes at most at once (R43, R130). -/
def pushes (b : Blk) : Nat :=
  let (es, gs) := splitExport b
  let j := joinAddr b.addr b.words
  let call := if gs.any (fun g => match g.act with | .call _ => true | _ => false) then 1 else 0
  if groupCount b = 1 && es.isEmpty then call
  else
    let rest := gs.filter fun g => !(j != 0 && g.addr = j && g.act == .none)
    if j != 0 && rest.isEmpty && es.isEmpty then 0
    else (if j = 0 then 0 else 1) + (rest.length - 1)

/-- The warp is committing a stepped block: a trap or break waits for the step record (R381). -/
def stepsNow (s : State) (w : WarpId) : Bool := (s.warp? w).any fun x => x.stepping && x.blk.isSome

/-- A group runs (R43, R130, R131): it continues at its target, a call pushes its entry first, a trap or break
acts. -/
def runGroup (s : State) (w : WarpId) (g : Group) : State :=
  let go (t : State) : State := prefetchBlock (t.modWarp w fun x => runAt x g.addr g.mask) w g.addr
  match g.act with
  | .none => go s
  | .call ret => go (setEntries s w (⟨.call, ret, 0, 0⟩ :: allEntries s w))
  | act =>
    if stepsNow s w then (s.modWarp w fun x => runAt x g.addr g.mask).parkWarp w (.service s.recNum (some g))
    else if groupStops s w act then takeGroupRecord s w g else go s

/-- The action that a popped pending entry's group carries (R131). -/
def takeAct (x : Warp) (e : StackEntry) : GroupAct × Warp :=
  match x.acts.find? fun g => g.addr = e.addr && g.mask = e.mask with
  | some g => (g.act, { x with acts := x.acts.filter fun h => h != g })
  | none => (.none, x)

/-- A group ends (R44, R131): the next pending group runs, or an enclosing join or call entry is released, or the
warp retires. A join entry with lanes out parks the warp on the export return (R47). -/
def endGroup (s : State) (w : WarpId) : Nat → State
  | 0 => s.retireWarp w
  | n + 1 =>
    match allEntries s w with
    | [] => s.retireWarp w
    | e :: r =>
      match e.kind with
      | .pending =>
        match s.warp? w with
        | none => s
        | some x =>
          let (act, x1) := takeAct x e
          runGroup (setEntries (s.setWarp w x1) w r) w ⟨0, e.addr, e.mask, act⟩
      | _ =>
        if e.out != 0 then
          (s.modWarp w fun x => { x with blk := none, mask := 0, pc := e.addr }).parkWarp w .exportReturn
        else
          let s1 := setEntries s w r
          if e.mask != 0 then runGroup s1 w ⟨0, e.addr, e.mask, .none⟩ else endGroup s1 w n

/-- `endGroup` with the fuel that a stack of its depth needs. -/
def State.endGroup (s : State) (w : WarpId) : State := Machine.endGroup s w ((allEntries s w).length + 1)

/-- Lanes added to A of the entry at a position from the top. -/
def addArrived (s : State) (w : WarpId) (i : Nat) (m : Mask) : State :=
  setEntries s w ((allEntries s w).zipIdx.map fun (e, k) => if k = i then { e with mask := e.mask ||| m } else e)

/-- The position of the join entry that the address of the next block matches (R44): the highest one above the
nearest call entry. -/
def matchedJoin (es : List StackEntry) (a : Double) : Option Nat :=
  let above := es.takeWhile fun e => e.kind != .call
  above.findIdx? fun e => e.kind == .join && e.addr = a

/-- The running group arrives at a join entry (R44). -/
def State.arrive (s : State) (w : WarpId) (i : Nat) (m : Mask) : State := (addArrived s w i m).endGroup w

/-- The tokens of an exported lane (R223): a marker that names it, then its input registers with their codes. -/
def exportTokens (x : Warp) (d : Double) (lane : Nat) : List TTok :=
  ⟨fresh (BitVec.ofNat 32 (lane + x.wid * 64)), 1⟩ ::
    (List.range (bitsOf d 49 46 + 1)).map fun i => ⟨x.reg (bitsOf d 57 50 + i) lane, 0⟩

/-- A group exported (R47 step 1): its tokens enter the port's export buffer, and a token entering the region ends
its quiescence (R222). -/
def exportGroup (s : State) (w : WarpId) (x : Warp) (b : Blk) (g : Group) (e : ExportPlan) : State :=
  let toks := (lanesOf g.mask).flatMap (exportTokens x (exportWord b.words))
  let s1 := s.modBay w.bay fun y => { y with
    ports := amod y.ports e.row .reset fun p => { p with exports := p.exports ++ toks }
    regions := y.regions.map fun q => if q.key = x.key && q.idx = e.region then { q with quiet := false, scan := none } else q }
  s1.modWarp w fun y => { y with outs := (lanesOf g.mask).foldl (fun m l => aset m l (e.region, g.addr)) y.outs }

/-- The divergence of R43: join entry, pending entries, first group. -/
def diverge (s : State) (w : WarpId) (x : Warp) (b : Blk) (ex : List (Group × ExportPlan)) (gs : List Group) :
    State :=
  let j := joinAddr b.addr b.words
  let here := if j = 0 then [] else gs.filter fun g => g.addr = j && g.act == .none
  let a := here.foldl (fun m g => m ||| g.mask) 0
  let rest := gs.filter fun g => !(here.contains g)
  let out := ex.foldl (fun m p => m ||| p.1.mask) 0
  let s0 := ex.foldl (fun t p => exportGroup t w x b p.1 p.2) s
  if j != 0 && rest.isEmpty && ex.isEmpty then
    if a != 0 then runGroup s0 w ⟨0, j, a, .none⟩ else s0.endGroup w
  else
    let s1 := if j = 0 then s0
      else prefetchBlock (setEntries s0 w (⟨.join, j, a, out⟩ :: allEntries s0 w)) w j
    match rest with
    | [] => s1.endGroup w
    | g :: more =>
      let es := more.map fun h => (⟨.pending, h.addr, h.mask, 0⟩ : StackEntry)
      let acts := more.filter fun h => h.act != .none
      let s2 := (setEntries s1 w (es ++ allEntries s1 w)).modWarp w fun y => { y with acts := acts ++ y.acts }
      runGroup s2 w g

/-- Lanes that halt leave the warp (R42): the mask of the region entry as well, so that no rollback revives them. A region
entry without a lane is none. -/
def haltLanes (s : State) (w : WarpId) (m : Mask) : State :=
  if m = 0 then s
  else s.modWarp w fun x => { x with region := x.region.bind fun r =>
    if r.mask &&& ~~~m = 0 then none else some { r with mask := r.mask &&& ~~~m } }

/-- The lanes of the first `RET` exit with a lane (R131). -/
def firstRet (b : Blk) : Mask :=
  ((sortedVotes b).find? fun v => voteKind b v = some 4 && v.lanes != 0).elim 0 (·.lanes)

/-- The successor step of a block that has committed (R43, R131). -/
def successors (s : State) (w : WarpId) (b : Blk) : State :=
  match s.warp? w with
  | none => s
  | some x =>
    let ret := kindLanes b 4
    let es := allEntries s w
    let s0 := haltLanes s w (kindLanes b 5)
    let s1 := if ret = 0 then s0 else
      match es.findIdx? fun e => e.kind == .call with
      | some i => addArrived s0 w i ret
      | none => s0
    let (ex, gs) := splitExport b
    if groupCount b = 1 && ex.isEmpty && ret = 0 then
      match gs with
      | g :: _ => runGroup s1 w g
      | [] => s1.endGroup w
    else if gs.isEmpty && ex.isEmpty && joinAddr b.addr b.words = 0 then s1.endGroup w
    else diverge s1 w x b ex gs

/-- What the vote and the stack forbid at a block's boundary (R38, R130, R131, R147, R45): a program fault's
subcode, the lanes that it concerns, and those of them with two exits or more. -/
def boundaryFault (s : State) (w : WarpId) (b : Blk) : Option (Nat × Mask × Mask) :=
  let votes (l : Nat) : Nat := (b.votes.filter fun v => v.lanes.getLsbD l).length
  let zero := maskOf ((lanesOf b.m).filter fun l => votes l = 0)
  let many := maskOf ((lanesOf b.m).filter fun l => 2 ≤ votes l)
  let gs := flowGroups b
  let calls := gs.filter fun g => match g.act with | .call _ => true | _ => false
  let waitNode := (List.range (hdr b.words).n).find? fun k => waitClass (nodeAt b.words k).1.toNat
  let mixed := b.waits.any fun h => !h.lanes.isEmpty && maskOf (h.lanes.map (·.lane)) != b.m
  let simple := b.votes.all fun v => v.lanes == 0 || voteKind b v = some 0 || voteKind b v = some 1
  if zero != 0 || many != 0 then some (0x04, zero ||| many, many)
  else if waitNode.isSome && (mixed || groupCount b != 1 || !simple) then some (0x05, b.m, 0)
  else if !calls.isEmpty && (1 < groupCount b) then some (0x06, b.m, 0)
  else if kindLanes b 4 != 0 && !((allEntries s w).any fun e => e.kind == .call) then some (0x07, firstRet b, 0)
  else if stackCapacity s w < (allEntries s w).length + pushes b then some (0x08, b.m, 0)
  else none

end Sys2Proof.Machine
end

