-- ==== Sys2Proof/Machine/BlockCheck.lean ====
section
/-! DEFINITION. The checks that a fetched block faces at dispatch: ill-formed blocks (R82 with R33, R61, R64, R68
to R74, R78, R79, R96, R125, R145), unimplemented opcodes (R81) and privilege (R84), in the order of R83. -/

namespace Sys2Proof.Machine

/-- A target names something that exists and accepts the width (R73, R74, R96, R33): `src` is the producing node's
index + 1, 0 for a read entry; a read entry may feed a narrower slot. -/
def targetOk (ws : List Double) (src : Nat) (entry : Bool) (t : BitVec 10) (n : Option Nat) : Bool :=
  let h := hdr ws
  match target t with
  | none => false
  | some .nothing => true
  | some (.write j) => j < h.wc
  | some (.pred k) => src ≤ k && k < h.n && (nodeAt ws k).2.pm != 0 && (n.all fun v => if entry then 32 ≤ v else v = 32)
  | some (.slot k which) =>
    src ≤ k && k < h.n &&
      match slotUse ws k which with
      | .absent => false
      | .width w => n.all fun v => if entry then w ≤ v else v = w
      | .unsaid | .open => true

/-- Every target of a block with its producer, in order: read entries, then nodes. -/
def allTargets (ws : List Double) : List (Nat × BitVec 10) :=
  ((List.range (hdr ws).rc).flatMap fun i => (entryTargets (readEntry ws i)).map fun t => (0, t)) ++
    (List.range (hdr ws).n).flatMap fun k => (outsOf ws k).map fun p => (k + 1, p.1)

/-- How many producers a slot has (R33). -/
def producers (ws : List Double) (key : Nat) : Nat := ((allTargets ws).filter fun p => p.2.toNat = key).length

/-- A read entry breaks no rule (R61, R64, R68, R69, R82). -/
def readEntryOk (ws : List Double) (regs i : Nat) : Bool :=
  let e := readEntry ws i
  let num := bitsOf e 29 22
  let n := entryWidth ws e / 32
  let cls := bitsOf e 31 30
  e.extractLsb' 0 2 == 0 && cls != 3 &&
    (if cls = 2 then (specialWidth num).isSome
     else num % n = 0 && num + n ≤ (if cls = 0 then regs else 64)) &&
    (entryTargets e).all fun t => targetOk ws 0 true t (some (entryWidth ws e))

/-- The registers that a write entry writes, as class and number. -/
def writeRegs (ws : List Double) (j : Nat) : List (Nat × Nat) :=
  let e := writeEntry ws j
  let cls := bitsOf e 15 14
  (List.range (if cls = 2 then 1 else writeWidth ws j / 32)).map fun i => (cls, bitsOf e 13 6 + i)

/-- A write entry breaks no rule (R61, R64, R70, R82). -/
def writeEntryOk (ws : List Double) (regs j : Nat) : Bool :=
  let e := writeEntry ws j
  let num := bitsOf e 13 6
  let cls := bitsOf e 15 14
  let w := writeWidth ws j
  let entryWidths := ((List.range (hdr ws).rc).map (readEntry ws)).filterMap fun r =>
    if (entryTargets r).any (·.toNat = writeKey j) then some (entryWidth ws r) else none
  e.extractLsb' 0 6 == 0 && cls != 3 && producers ws (writeKey j) != 0 &&
    ((writeWidths ws j ++ entryWidths).all (· = w)) &&
    (if cls = 2 then specialWritable num && w = 32
     else num % (w / 32) = 0 && num + w / 32 ≤ (if cls = 0 then regs else 64))

/-- No two of a list are equal. -/
def noRepeats (l : List (Nat × Nat)) : Bool :=
  match l with
  | [] => true
  | a :: r => !r.contains a && noRepeats r

/-- The special registers that a block's nodes write: `SWR`, and `EVMASK` instructions (R70, R145). -/
def nodeSpecials (ws : List Double) : List (Nat × Nat) :=
  (List.range (hdr ws).n).filterMap fun k =>
    match nodeAt ws k with
    | (o, .a f) => if o = 0x33 then some (2, bitsOf f.ext 7 0) else none
    | _ => none

/-- The exit nodes are one for each EXIT number below the exit count, and none above (R78, R33). -/
def exitsOk (ws : List Double) : Bool :=
  let es := (List.range (hdr ws).n).filterMap fun k =>
    match (nodeAt ws k).2 with | .x _ f => some f.exit.toNat | _ => none
  es.length = (hdr ws).exits && (List.range (hdr ws).exits).all es.contains

/-- The LSIDs are 0 to LSCNT − 1, each borne by one node (R79). -/
def lsidsOk (ws : List Double) : Bool :=
  let ls := (List.range (hdr ws).n).filterMap fun k => (nodeAt ws k).2.lsid
  ls.length = (hdr ws).ls && (List.range (hdr ws).ls).all ls.contains

/-- Node k breaks no rule that concerns it (R33, R74, R82, R96). -/
def nodeOk (ws : List Double) (k : Nat) : Bool :=
  let w := nodeWord ws k
  let zero := match nodeOf w with
    | none => true
    | some (o, f) => 0x1F0 ≤ o.toNat || (zeroOk o.toNat f && wordZeroOk w f)
  let (_, f) := nodeAt ws k
  let fed (which : Nat) : Bool :=
    match slotUse ws k which with
    | .width _ | .unsaid => producers ws (slotKey which k) != 0
    | .absent | .open => true
  zero && ((outsOf ws k).all fun (t, n) => targetOk ws (k + 1) false t n) &&
    (f.pm = 0 || producers ws (predKey k) != 0) && fed 0 && fed 1 && fed 2

/-- The export descriptor breaks no rule (R72). -/
def exportOk (ws : List Double) (regs : Nat) : Bool :=
  let d := exportWord ws
  let h := hdr ws
  let last := bitsOf d 57 50 + bitsOf d 49 46
  d.extractLsb' 0 43 == 0 && last ≤ 255 && last < regs && bitsOf d 63 62 < h.exits && h.join != 0

/-- Unused entry positions are zero (R67, R82). -/
def entriesZero (ws : List Double) : Bool :=
  let h := hdr ws
  (h.rc % 2 = 0 || readEntry ws h.rc == 0) &&
    (List.range ((h.wc + 3) / 4 * 4 - h.wc)).all fun i => writeEntry ws (h.wc + i) == 0

/-- A block is well formed for a kernel with `regs` lane registers (R82, R33). -/
def blockOk (ws : List Double) (regs : Nat) : Bool :=
  let h := hdr ws
  let nodes := List.range h.n
  let evmask := nodes.any fun k => (nodeAt ws k).1 = 0x172
  let written := (List.range h.wc).flatMap (writeRegs ws)
  entriesZero ws && ((List.range h.rc).all (readEntryOk ws regs)) && ((List.range h.wc).all (writeEntryOk ws regs)) &&
    noRepeats written && ((nodeSpecials ws).all fun p => !written.contains p) &&
    !(evmask && (written ++ nodeSpecials ws).contains (2, 0x0A)) && exitsOk ws && lsidsOk ws &&
    nodes.all (nodeOk ws) && ((nodes.filter fun k => commitClass (nodeAt ws k).1.toNat).length ≤ 1) &&
    (!h.pref || ((prefWord ws).extractLsb' 0 22 == 0 && bitsOf (prefWord ws) 23 22 < 2)) &&
    (!h.exp || exportOk ws regs)

/-- A node's EXIT number or LSID lies above the header's count or repeats an earlier node's (R78, R79). -/
def numberClash (ws : List Double) (k : Nat) : Bool :=
  let exitOf (j : Nat) : Option Nat := match (nodeAt ws j).2 with | .x _ f => some f.exit.toNat | _ => none
  let clash (num : Nat → Option Nat) (count : Nat) : Bool :=
    (num k).any fun n => count ≤ n || (List.range k).any fun j => num j = some n
  clash exitOf (hdr ws).exits || clash (fun j => (nodeAt ws j).2.lsid) (hdr ws).ls

/-- The lowest-indexed node that breaks a rule: the node concerned by the trap of R82. -/
def firstIllFormed (ws : List Double) : Option Nat :=
  (List.range (hdr ws).n).find? fun k => !nodeOk ws k || numberClash ws k

/-- The lowest-indexed unimplemented node (R83). -/
def firstUnimplemented (ws : List Double) : Option Nat := (List.range (hdr ws).n).find? (unimplemented ws)

/-- The lowest-indexed node that the context's privilege forbids (R84). -/
def privilegeFail (ws : List Double) (c : Ctx) : Option Nat :=
  (List.range (hdr ws).n).find? fun k =>
    let o := (nodeAt ws k).1
    ((o = 0x1E1 || o = 0x1E2) && !c.priv) || (o = 0x1E0 && !c.snapen)

end Sys2Proof.Machine
end

