-- ==== Sys2Proof/Machine/Node.lean ====
section
/-! DEFINITION. The firing of a node: whose node it is, the lanes that perform, the checks of consumed words, the
delivery of results (spec/02_execution_model.md R35, R36, spec/04_compute_instructions.md R94, R95). -/

namespace Sys2Proof.Machine

/-- A node that reads memory, and so sees the held stores of its block: `LD`, `BGEN`, `BPAR`, `BSTAT` (R126, R141). -/
def readsMemory (opc : Nat) : Bool := opc = 0x120 || (0x165 ≤ opc && opc ≤ 0x167)

/-- Node k, a read, waits for node j of lower LSID to fire: for every read, and, where k reads memory, for every store,
whose bytes it sees (R126). -/
def readWaits (b : Blk) (k j : Nat) : Bool :=
  let (ok, fk) := nodeAt b.words k
  let (oj, fj) := nodeAt b.words j
  readClass ok.toNat fk && (readClass oj.toNat fj || (oj = 0x121 && readsMemory ok.toNat)) &&
    (match fj.lsid, fk.lsid with | some p, some q => p < q | _, _ => false)

/-- The nodes of lower LSID for which node k, a read, waits and that have not fired (R126). -/
def readsBefore (b : Blk) (k : Nat) : List Nat :=
  (List.range (hdr b.words).n).filter fun j => readWaits b k j && !b.done j

/-- One pass of R323: the nodes that depend on a node of a list, because it targets one of their slots or they are reads
that wait for it. Targets lead forward only, so one pass in index order finds every slot dependence; LSID waits may lead
back, so the pass is repeated. -/
def dependentsStep (b : Blk) (deps : List Nat) : List Nat :=
  (List.range (hdr b.words).n).filter fun k =>
    deps.contains k ||
      (List.range (hdr b.words).n).any fun j => deps.contains j &&
        (((outsOf b.words j).any fun p =>
          p.1.toNat = slotKey 0 k || p.1.toNat = slotKey 1 k || p.1.toNat = slotKey 2 k || p.1.toNat = predKey k) ||
         readWaits b k j)

/-- The nodes that depend on u (R323), u included, and those that depend on another unimplemented node that waits for
its own capture: no capture run of u fires them. -/
def dependents (b : Blk) (u : Nat) : List Nat :=
  let wait := (List.range (hdr b.words).n).filter fun k => unimplemented b.words k && !b.done k
  (List.range (hdr b.words).n).foldl (fun d _ => dependentsStep b d) (u :: wait)

/-- Node k of a block may fire (R35, R126): it has not fired, every slot it requires is complete, no commit has begun,
a capture run fires only what does not depend on its node (R323), and a read waits for what it sees. -/
def mayFireNode (b : Blk) (k : Nat) : Bool :=
  k < (hdr b.words).n && !b.done k && b.releasing.isNone && nodeReady b k &&
    (b.capture.all fun c => !(dependents b c.node).contains k) && (readsBefore b k).isEmpty

/-- A block of a warp may go on at a time: the warp is admitted, as it is not yet when a capture of its block has just
been served (R49), and no pre-emption request has stood for 4,096 clocks (R51). -/
def mayRun (x : Warp) (now : Nat) : Bool := x.active && x.preempt.all fun t => now < t + 4096

/-- Runs a node of the warp and block that `cur` names; a node that may not fire there is not enabled. -/
def atNode (s : State) (g : State → WarpId → Nat → Warp → Blk → State) : Outcome :=
  match s.cur with
  | .node w k =>
    match s.warp? w with
    | none => .fault .notEnabled
    | some x =>
      match x.blk with
      | none => .fault .notEnabled
      | some b =>
        if x.park == .running && mayRun x s.now && mayFireNode b k then .next (g { s with cur := .none } w k x b)
        else .fault .notEnabled
  | _ => .fault .notEnabled

/-- A warp's block replaced. -/
def State.putBlk (s : State) (w : WarpId) (b : Blk) : State := s.modWarp w fun x => { x with blk := some b }

/-- A node has fired and delivers to its targets (R35); a second token for a lane is the dataflow-conflict fault,
whose record names the slot by its target code (R36). -/
def finishNode (s : State) (w : WarpId) (k : Nat) (b : Blk) (outs : List (BitVec 10 × (Nat → Option Tok))) : State :=
  match deliverAll (b.fire k) outs with
  | .ok b1 => s.putBlk w b1
  | .error (key, m) =>
    s.takeFault w { kind := 0x05, sub := 0x03, node := some k, lanes := m, va := BitVec.ofNat 64 key } none

/-- The first word that fails its check is served (R95, R258), for every lane that holds it; the node otherwise goes
on. -/
def checked (s : State) (w : WarpId) (k : Nat) (x : Warp) (b : Blk) (words : List (Nat × List Placed)) (go : State) :
    State :=
  match badWord words with
  | some (l, v) =>
    let i := identOf x b k l v.1
    let lanes := words.filter fun q => (q.2.find? fun u => !good u.2).any fun u => identOf x b k q.1 u.1 = i
    s.consumed w i v.2 (some k) (maskOf (lanes.map (·.1)))
  | none => go

/-- The value of a lane's result as tokens by lane. -/
def byLane (r : List (Nat × Tok)) (l : Nat) : Option Tok := aget r l

/-- A compute node (R94, R95): the words of `check` are checked for every performing lane, and every target
receives the lane's result. The token at the predicate input is no operand and is not checked (DESIGN CHOICE, log entry
20). -/
def fireLanes (s : State) (w : WarpId) (k : Nat) (x : Warp) (b : Blk) (targets : List (BitVec 10))
    (check : LaneOps → List Placed) (result : Nat → LaneOps → Tok) : State :=
  let p := performing b k
  checked s w k x b (p.map fun (l, o) => (l, check o))
    (finishNode s w k b (targets.map fun t => (t, byLane (p.map fun (l, o) => (l, result l o)))))

/-- Every word of every operand (R95). -/
def allWords (o : LaneOps) : List W40 := (allOps o).map (·.2)

/-- A format A compute node whose result is a value of `n` bits computed from the operand values. -/
def computeA (f : FmtA) (s : State) (n : Nat) (g : Word → Nat → Nat → Nat → Nat) : Outcome :=
  atNode s fun s w k x b => fireLanes s w k x b [f.t0, f.t1] allOps fun _ o =>
    tokOf (n / 32) (g b.mode (tokVal o.a) (tokVal o.b) (tokVal o.c) % 2 ^ n)

/-- The same for a format I node, whose operand b is its immediate. -/
def computeI (f : FmtI) (s : State) (n : Nat) (g : Word → Nat → Nat → Nat → Nat) : Outcome :=
  atNode s fun s w k x b => fireLanes s w k x b [f.t0, f.t1] allOps fun _ o =>
    tokOf (n / 32) (g b.mode (tokVal o.a) (tokVal o.b) (tokVal o.c) % 2 ^ n)

/-! ## The operands of a warp-level operation (R125) -/

/-- The operand of a warp-level operation: the token of the lowest-numbered performing lane. -/
def warpOperand (p : List (Nat × LaneOps)) (sel : LaneOps → Tok) : Tok :=
  match p with
  | [] => []
  | (_, o) :: _ => sel o

/-- The operand words that a warp-level operation takes, with their lane. -/
def warpWords (p : List (Nat × LaneOps)) : List (Nat × List Placed) :=
  match p with
  | [] => []
  | (l, o) :: _ => [(l, allOps o)]

/-- A held operation fired for lanes (R125): captured until commit. -/
def holdOp (s : State) (w : WarpId) (k lsid : Nat) (b : Blk) (lanes : List HeldLane) : State :=
  s.putBlk w (({ b with held := b.held ++ [⟨k, lsid, lanes⟩] } : Blk).fire k)

/-- A warp-level held operation: its operands are checked, then captured; with P empty it has no effect
(R163). -/
def holdWarp (s : State) (w : WarpId) (k lsid : Nat) (x : Warp) (b : Blk) (va : Double) (loc : Option Loc) : State :=
  let p := performing b k
  match p with
  | [] => holdOp s w k lsid b []
  | (l, o) :: _ => checked s w k x b (warpWords p) (holdOp s w k lsid b [⟨l, o.a, o.b, o.c, va, loc⟩])

end Sys2Proof.Machine
end

