-- ==== Sys2Proof/Machine/Blocks.lean ====
section
/-! DEFINITION. The events BLOCK_DISPATCH and CAPTURE_COMPLETE (spec/03_blocks_and_encoding.md R83 to R85,
spec/02_execution_model.md R33, R34, R44, R56, spec/13_compatibility_contract.md R322 to R324,
spec/14_farfoec_translation.md R346). -/

namespace Sys2Proof.Machine

/-! ## Fetch -/

/-- What stops a fetch (R83, R85): an address or a word that fails its check twice. -/
inductive FetchFail where
  | addr (va : Double) (f : AddrFail)
  | check (va : Double) (pa : Nat) (w : W40)
  deriving DecidableEq, Repr

/-- Where a block word lies (R83 item 1, R132): its address translates for a fetch. -/
def fetchLoc (s : State) (w : WarpId) (va : Double) : Except FetchFail Loc :=
  if va.toNat % 8 != 0 then .error (.addr va .misaligned)
  else if !canonical va then .error (.addr va .bounds)
  else
    match s.translate (s.ctxOf w) va (accNeed .fetch) with
    | .error f => .error (.addr va (.walk f))
    | .ok l => .ok l

/-- One block word read (R85): a mismatch at its point of coherence repeats on the refetch. A word that the bay has
fetched before and that has changed since reads new or old (R341; `Config.fetchesCopy` is free). -/
def readCode (s : State) (w : WarpId) (va : Double) (l : Loc) : Except FetchFail Double :=
  let lo := s.homeWord l
  let hi := s.homeWord (l.add 4)
  let home : Except FetchFail Double :=
    if !good lo then .error (.check va l.addr lo)
    else if !good hi then .error (.check (va + 4) (l.addr + 4) hi)
    else .ok (hi.v ++ lo.v)
  match aget (s.bay w.bay).code (l.addr / 8) with
  | none => home
  | some d =>
    if hi.v ++ lo.v == d && good lo && good hi then .ok d
    else if Config.fetchesCopy w.bay l.addr s.now then .ok d else home

/-- Block word i of a block fetched alone. -/
def fetchWord (s : State) (w : WarpId) (va : Double) : Except FetchFail Double :=
  match fetchLoc s w va with
  | .error f => .error f
  | .ok l => readCode s w va l

/-- Consecutive block words located: the first address that fails decides (R83). -/
def fetchLocs (s : State) (w : WarpId) (va : Double) : Nat → Except FetchFail (List (Double × Loc))
  | 0 => .ok []
  | n + 1 =>
    match fetchLoc s w va with
    | .error f => .error f
    | .ok l =>
      match fetchLocs s w (va + 8) n with
      | .error f => .error f
      | .ok r => .ok ((va, l) :: r)

/-- Located block words read in order. -/
def readCodes (s : State) (w : WarpId) : List (Double × Loc) → Except FetchFail (List Double)
  | [] => .ok []
  | (va, l) :: r =>
    match readCode s w va l with
    | .error f => .error f
    | .ok d =>
      match readCodes s w r with
      | .error f => .error f
      | .ok ds => .ok (d :: ds)

/-- A block's words, its length read from H0 (R67): every address is translated before the words are checked
(R83). -/
def fetchBlock (s : State) (w : WarpId) (va : Double) : Except FetchFail (List Double) :=
  match fetchWord s w va with
  | .error f => .error f
  | .ok h =>
    match fetchLocs s w va (hdrOf h).len with
    | .error f => .error f
    | .ok ls => readCodes s w ls

/-- The bay keeps what it has fetched of a block, for a later fetch that may read it in place of the word as it is (R341). That
a bay, and not each reader, keeps it is the model's choice (DESIGN CHOICE, notes/assumptions/32.md). -/
def keepFetched (s : State) (w : WarpId) (va : Double) (ws : List Double) : State :=
  match fetchLocs s w va ws.length with
  | .error _ => s
  | .ok ls => s.modBay w.bay fun y => { y with
      code := (ls.zip ws).foldl (fun m p => aset m (p.1.2.addr / 8) p.2) y.code }

/-- A failed fetch taken as its fault, with access 3 (R83, R132, R85): it concerns the lanes of the group. -/
def fetchFault (s : State) (w : WarpId) (f : FetchFail) : State :=
  let m := ((s.warp? w).map (·.mask)).getD 0
  match f with
  | .addr va g => s.addrFault w none m 0 va .fetch g
  | .check va pa bad => s.takeFault w { kind := 0x04, lanes := m, va := va, access := 3, pa := pa, bad := some bad } none

/-! ## Dispatch -/

/-- The token that a read entry delivers for a lane (R34, R68, R69). -/
def entryToken (s : State) (w : WarpId) (x : Warp) (ws : List Double) (e : Word) (lane : Nat) : Tok :=
  let n := entryWidth ws e / 32
  let num := bitsOf e 29 22
  if e.extractLsb' 30 2 = 0 then (List.range n).map fun i => x.reg (num + i) lane
  else if e.extractLsb' 30 2 = 1 then (List.range n).map fun i => x.ureg (num + i)
  else tokOf n (specialValue s w num lane).toNat

/-- A token cut to the width of the slot it enters: a narrower slot receives the low words (R69). -/
def fitSlot (ws : List Double) (t : BitVec 10) (tok : Tok) : Tok :=
  match target t with
  | some (.slot _ _) => let n := slotWidth ws t / 32; if n = 0 then tok else tok.take n
  | some (.pred _) => tok.take 1
  | _ => tok

/-- Every slot of a block that has a producer, empty. -/
def emptySlots (ws : List Double) : Assoc Slot :=
  (allTargets ws).foldl (fun m (_, t) =>
    if t = nullTarget then m else
      let s := agetD m t.toNat ⟨0, 0, []⟩
      aset m t.toNat { s with prod := s.prod + 1 }) []

/-- The block with every read entry delivered (R34). -/
def readEntries (s : State) (w : WarpId) (x : Warp) (b : Blk) : Except (Nat × Mask) Blk :=
  let outs := ((List.range (hdr b.words).rc).map (readEntry b.words)).flatMap fun e =>
    (entryTargets e).map fun t => (t, fun l => some (fitSlot b.words t (entryToken s w x b.words e l)))
  deliverAll b outs

/-- The number of blocks resident in a window (R276). -/
def residentBlocks (b : Bay) (win : Nat) : Nat :=
  (b.warps.filter fun p => windowOf p.1 = win && p.2.blk.isSome).length

/-- A warp has a block to dispatch: it is active and running, has no block, serves no error and no stop, and is not being
saved (R273, R377). -/
def readyWarp (x : Warp) : Bool :=
  x.started && !x.retired && x.active && x.park == .running && x.blk.isNone && !x.errs.any (·.due) && !x.stop &&
    x.preempt.isNone && !x.demote

/-- The warp of a window that is served next (R276): the ready one that follows the last one served in slot order. -/
def Bay.nextServed (b : Bay) (win : Nat) : Option Nat :=
  let keys := (b.warps.filter fun p => windowOf p.1 = win && readyWarp p.2).map (·.1)
  match aget b.served win with
  | none => keys.head?
  | some last =>
    match keys.find? (last < ·) with
    | some k => some k
    | none => keys.head?

/-- A warp may dispatch: it is the one its window serves next, the window has a position free, and its lease turn has
not ended (R274, R276). -/
def canDispatch (s : State) (w : WarpId) (x : Warp) : Bool :=
  let b := s.bay w.bay
  let win := windowOf (wkey w)
  readyWarp x && b.nextServed win = some (wkey w) && residentBlocks b win < 4 && agetD b.turn win 0 < 4096

/-- The region entry of a REGION block (R56); an address other than the recorded one clears the check record (R258). A
region that has ended (R57) has no recorded address, so that its check record is cleared also when the same block begins
the next region (DESIGN CHOICE, notes/assumptions/23.md). -/
def enterRegion (x : Warp) (region : Bool) : Warp :=
  if !region then x
  else
    { x with
      region := some ⟨x.pc, x.mask, stackDepth x⟩
      rdset := []
      check := if (x.region.map (·.addr)) = some x.pc then x.check else none }

/-- A block placed in its window with its read entries delivered (R34). -/
def placeBlock (s : State) (w : WarpId) (x : Warp) (ws : List Double) (cap : Option Capture) : State :=
  let x1 := enterRegion { x with
    prefetched := x.prefetched.filter (· != x.pc)
    errs := x.errs.map (·.ripe) } (hdr ws).region
  let b : Blk := ⟨x.pc, ws, x.mask, x.mode, emptySlots ws, 0, [], [], none, [], none, cap, s.now, none, [], [], [], []⟩
  let s1 := (s.setWarp w x1).modBay w.bay fun y => { y with served := aset y.served (windowOf (wkey w)) (wkey w) }
  match readEntries s1 w x1 b with
  | .ok b1 => s1.putBlk w b1
  | .error (key, m) =>
    (s1.putBlk w b).takeFault w { kind := 0x05, sub := 0x03, lanes := m, va := BitVec.ofNat 64 key } none

/-- The record of an unimplemented node without capture (R322), its block's words kept for the record. -/
def trapUnimplemented (s : State) (w : WarpId) (x : Warp) (ws : List Double) (k : Nat) : State :=
  let b : Blk := ⟨x.pc, ws, x.mask, x.mode, [], 0, [], [], none, [], none, none, s.now, none, [], [], [], []⟩
  (s.putBlk w b).takeFault w { kind := 0x06, sub := captureCause ws k, node := some k, lanes := x.mask } none

/-- The fetched words checked in the order of R83 and dispatched. -/
def checkAndPlace (s : State) (w : WarpId) (x : Warp) (ws : List Double) : State :=
  let regs := ((s.teamOf w).map (·.regs)).getD 0
  let c := s.ctx (s.ctxOf w)
  let b : Blk := ⟨x.pc, ws, x.mask, x.mode, [], 0, [], [], none, [], none, none, s.now, none, [], [], [], []⟩
  if !blockOk ws regs then (s.putBlk w b).progFault w 0x10 (firstIllFormed ws) x.mask
  else
    match firstUnimplemented ws with
    | some k =>
      if c.emuCap && captureCause ws k != 3 then placeBlock s w x ws (some ⟨k⟩)
      else trapUnimplemented s w x ws k
    | none =>
      match privilegeFail ws c with
      | some k => (s.putBlk w b).progFault w 0x11 (some k) x.mask
      | none => placeBlock s w x ws none

/-- The dispatch of a warp that can dispatch: it arrives at a join (R44), stops at a safe point (R346), or fetches,
checks and places its block (R83). -/
def dispatchWarp (s : State) (w : WarpId) (x : Warp) : State :=
  match matchedJoin (allEntries s w) x.pc with
  | some i => s.arrive w i x.mask
  | none =>
    let safe := match fetchWord s w x.pc with | .ok h => (hdrOf h).safe | .error _ => false
    if (s.ctx (s.ctxOf w)).safeReq && safe then s.parkWarp w .safePoint
    else
      match fetchBlock s w x.pc with
      | .error f => fetchFault s w f
      | .ok ws => checkAndPlace (keepFetched s w x.pc ws) w x ws

/-- BLOCK_DISPATCH (R83). -/
def execBlockDispatch (w : WarpId) (s : State) : Outcome :=
  match s.warp? w with
  | none => .fault .notEnabled
  | some x => if canDispatch s w x then .next (dispatchWarp s w x) else .fault .notEnabled

/-! ## Operand capture (R323, R324) -/

/-- The capture run is over: every independent node has fired and U's slots are complete (R323). -/
def captureReady (b : Blk) (u : Nat) : Bool :=
  let d := dependents b u
  ((List.range (hdr b.words).n).all fun k => d.contains k || b.done k) && nodeReady b u

/-- The token at operand slot `which` of node u for a lane: what has arrived, or the constant of format I, which is
delivered at dispatch (R75). -/
def operandTok (b : Blk) (u which lane : Nat) : Tok :=
  match slotTok b.slots (slotKey which u) lane, (nodeAt b.words u).2 with
  | some t, _ => t
  | none, .i g => if which = 1 then immOperand (nodeAt b.words u).1.toNat g else []
  | none, _ => []

/-- The width in bits of a slot of an unimplemented node: the one its description gives, else that of its widest
producer, token, or constant (R69, R81). -/
def capturedWidth (b : Blk) (u which : Nat) : Nat :=
  let key := slotKey which u
  let nodes := (List.range (hdr b.words).n).flatMap fun j =>
    (outsOf b.words j).filterMap fun (t, n) => if t.toNat = key then n else none
  let entries := ((List.range (hdr b.words).rc).map (readEntry b.words)).filterMap fun e =>
    if (entryTargets e).any (·.toNat = key) then some (entryWidth b.words e) else none
  let toks := (lanesOf b.m).map fun l => 32 * (operandTok b u which l).length
  (slotUse b.words u which).bits?.getD ((nodes ++ entries ++ toks).foldl max 0)

/-- The code of a slot's width in CAPW (Table 13.7); a slot that nothing feeds is absent. -/
def widthCode (b : Blk) (u which : Nat) : Nat :=
  if (aget b.slots (slotKey which u)).isNone && ((lanesOf b.m).all fun l => operandTok b u which l == []) then 0
  else
    let n := capturedWidth b u which
    if n = 128 then 3 else if n = 64 then 2 else 1

/-- CAPW of a captured node (Table 13.7). -/
def capWord (x : Warp) (b : Blk) (u : Nat) : Nat :=
  2 ^ 30 + widthCode b u 2 * 2 ^ 22 + widthCode b u 1 * 2 ^ 20 + widthCode b u 0 * 2 ^ 18 +
    (if (nodeAt b.words u).2.pm != 0 then 2 ^ 17 else 0) + x.half * 2 ^ 16 + (if modeW32 b.mode then 2 ^ 15 else 0) +
    u * 2 ^ 9 + captureCause b.words u

/-- DEV_STEP.TAG (R318). -/
def devTag : Nat := 1

/-- The capture record (Table 13.6) behind the header of Table 16.1. -/
def captureWords (s : State) (w : WarpId) (x : Warp) (b : Blk) (u : Nat) : Assoc W40 :=
  let h := headerWords (s.ctxOf w) 0x06 0 w.bay x.wid 0 0 x.key.tid x.key.gid
  let m := putDouble h 0x100 b.addr
  let m := putDouble m 0x108 (nodeWord b.words u)
  let m := putDouble m 0x110 b.m
  let m := putDouble m 0x118 (maskOf ((performing b u).map (·.1)))
  let m := aput m 0x120 .zero (fresh (BitVec.ofNat 32 (capWord x b u)))
  let m := aput m 0x124 .zero (fresh b.mode)
  let m := aput m 0x128 .zero (fresh (BitVec.ofNat 32 ((hdr b.words).step + 16 * devTag)))
  (lanesOf b.m).foldl (fun m l =>
    let o := 0x180 + 128 * l
    let m := putWords m o (operandTok b u 0 l)
    let m := putWords m (o + 0x10) (operandTok b u 1 l)
    let m := putWords m (o + 0x20) (operandTok b u 2 l)
    putWords m (o + 0x30) ((slotTok b.slots (predKey u) l).getD [])) m

/-- The words that have arrived at U's slots, by lane. R323 tells slots from the predicate input, whose token is not
checked here either (DEDUCED, notes/assumptions/20.md). -/
def slotWords (b : Blk) (u : Nat) : List (Nat × List Placed) :=
  (lanesOf b.m).map fun l =>
    (l, [slotKey 0 u, slotKey 1 u, slotKey 2 u].zipIdx.flatMap fun (key, i) =>
      placed i ((slotTok b.slots key l).getD []))

/-- CAPTURE_COMPLETE (R323): a bad word at U's slots is served instead; otherwise the record is written and the
warp parks with its block in the window. -/
def execCaptureComplete (w : WarpId) (s : State) : Outcome :=
  match s.warp? w with
  | none => .fault .notEnabled
  | some x =>
    match x.blk with
    | none => .fault .notEnabled
    | some b =>
      match b.capture with
      | none => .fault .notEnabled
      | some c =>
        if !captureReady b c.node || x.park != .running then .fault .notEnabled
        else
          let r : Record := ⟨s.recNum, s.ctxOf w, 0x06, .warp w, captureWords s w x b c.node, none⟩
          .next (checked s w c.node x b (slotWords b c.node)
            ((s.parkWarp w (.service s.recNum none)).addRecord r))

end Sys2Proof.Machine
end

