-- ==== Sys2Proof/Machine/Arith.lean ====
section
/-! DEFINITION. The integer values of spec/04_compute_instructions.md R98 to R103: reading by type, the operations of
Table 4.2, division, shifts, bit fields and byte permutation. -/

namespace Sys2Proof.Machine

/-! ## Reading and wrapping (R91) -/

/-- `sext` (R91): an n-bit pattern read as signed. -/
def sval (x n : Nat) : Int := if x % 2 ^ n < 2 ^ (n - 1) then (x % 2 ^ n : Nat) else (x % 2 ^ n : Nat) - (2 ^ n : Nat)

/-- An operand read as its type says: signed for the s types, unsigned otherwise. -/
def ival (sg : Bool) (x n : Nat) : Int := if sg then sval x n else (x % 2 ^ n : Nat)

/-- `wrap` (R91). -/
def wrapI (x : Int) (n : Nat) : Nat := (x % (2 ^ n : Nat)).toNat

/-- `sat_s` or `sat_n` (R91). -/
def satI (sg : Bool) (x : Int) (n : Nat) : Int :=
  if sg then max (-(2 ^ (n - 1) : Nat)) (min x ((2 ^ (n - 1) : Nat) - 1)) else max 0 (min x ((2 ^ n : Nat) - 1))

/-! ## Table 4.2, R100 to R103. Every operation takes the type's signedness and width and the operands' patterns -/

/-- An integer operation. -/
abbrev IntOp := Bool → Nat → Nat → Nat → Nat → Nat

/-- ADD (R99). -/
def addV : IntOp := fun sg n a b _ => wrapI (ival sg a n + ival sg b n) n
/-- SUB (R99). -/
def subV : IntOp := fun sg n a b _ => wrapI (ival sg a n - ival sg b n) n
/-- ADDSAT (R99). -/
def addsatV : IntOp := fun sg n a b _ => wrapI (satI sg (ival sg a n + ival sg b n) n) n
/-- SUBSAT (R99). -/
def subsatV : IntOp := fun sg n a b _ => wrapI (satI sg (ival sg a n - ival sg b n) n) n
/-- MUL (R99). -/
def mulV : IntOp := fun sg n a b _ => wrapI (ival sg a n * ival sg b n) n
/-- MULHI (R99). -/
def mulhiV : IntOp := fun sg n a b _ => wrapI (ival sg a n * ival sg b n / (2 ^ n : Nat)) n
/-- MAD (R99). -/
def madV : IntOp := fun sg n a b c => wrapI (ival sg a n * ival sg b n + ival sg c n) n
/-- MADHI (R99). -/
def madhiV : IntOp := fun sg n a b c => wrapI (ival sg a n * ival sg b n / (2 ^ n : Nat) + ival sg c n) n
/-- DIV (R100): truncates; by zero all ones unsigned, the extreme of the dividend's sign signed. -/
def divV : IntOp := fun sg n a b _ =>
  let x := ival sg a n
  let y := ival sg b n
  if y = 0 then (if !sg then 2 ^ n - 1 else if 0 ≤ x then 2 ^ (n - 1) - 1 else 2 ^ (n - 1))
  else wrapI (x.tdiv y) n
/-- REM (R100): the sign of the dividend; by zero the dividend. -/
def remV : IntOp := fun sg n a b _ =>
  let x := ival sg a n
  let y := ival sg b n
  if y = 0 then a % 2 ^ n else wrapI (x - y * x.tdiv y) n
/-- MIN (R99). -/
def minV : IntOp := fun sg n a b _ => if ival sg a n ≤ ival sg b n then a % 2 ^ n else b % 2 ^ n
/-- MAX (R99). -/
def maxV : IntOp := fun sg n a b _ => if ival sg a n ≤ ival sg b n then b % 2 ^ n else a % 2 ^ n
/-- SAD (R99). -/
def sadV : IntOp := fun sg n a b c => wrapI ((ival sg a n - ival sg b n).natAbs + c : Nat) 32
/-- NEG (R99). -/
def negV : IntOp := fun sg n a _ _ => wrapI (-(ival sg a n)) n
/-- ABS (R99). -/
def absV : IntOp := fun sg n a _ _ => wrapI (ival sg a n).natAbs n
/-- AND (R99). -/
def andV : IntOp := fun _ _ a b _ => a &&& b
/-- OR (R99). -/
def orV : IntOp := fun _ _ a b _ => a ||| b
/-- XOR (R99). -/
def xorV : IntOp := fun _ _ a b _ => a ^^^ b
/-- NOT (R99). -/
def notV : IntOp := fun _ n a _ _ => (2 ^ n - 1) ^^^ (a % 2 ^ n)
/-- ANDN (R99). -/
def andnV : IntOp := fun sg n a b c => a &&& notV sg n b b c
/-- ORN (R99). -/
def ornV : IntOp := fun sg n a b c => a ||| notV sg n b b c
/-- TST (R99). -/
def tstV : IntOp := fun _ _ a b _ => if a &&& b = 0 then 0 else 1
/-- A comparison as 1 or 0. -/
def truthV (p : Bool) : Nat := if p then 1 else 0
/-- CMP.eq (R99). -/
def cmpEqV : IntOp := fun sg n a b _ => truthV (ival sg a n == ival sg b n)
/-- CMP.ne (R99). -/
def cmpNeV : IntOp := fun sg n a b _ => truthV (ival sg a n != ival sg b n)
/-- CMP.lt (R99). -/
def cmpLtV : IntOp := fun sg n a b _ => truthV (ival sg a n < ival sg b n)
/-- CMP.le (R99). -/
def cmpLeV : IntOp := fun sg n a b _ => truthV (ival sg a n ≤ ival sg b n)
/-- CMP.gt (R99). -/
def cmpGtV : IntOp := fun sg n a b _ => truthV (ival sg b n < ival sg a n)
/-- CMP.ge (R99). -/
def cmpGeV : IntOp := fun sg n a b _ => truthV (ival sg b n ≤ ival sg a n)
/-- POPC (R99). -/
def popcV : IntOp := fun _ n a _ _ => ((List.range n).filter a.testBit).length
/-- CLZ (R99): n for 0. -/
def clzV : IntOp := fun _ n a _ _ => ((List.range n).findIdx? fun i => a.testBit (n - 1 - i)).getD n
/-- CTZ (R99): n for 0. -/
def ctzV : IntOp := fun _ n a _ _ => ((List.range n).findIdx? a.testBit).getD n
/-- BREV (R99). -/
def brevV : IntOp := fun _ n a _ _ => (List.range n).foldl (fun r i => 2 * r + (a.testBit i).toNat) 0
/-- SHL (R101). -/
def shlV : IntOp := fun _ n a b _ => if b < n then a * 2 ^ b % 2 ^ n else 0
/-- SHR (R101). -/
def shrV : IntOp := fun _ n a b _ => if b < n then a % 2 ^ n / 2 ^ b else 0
/-- SAR (R101). -/
def sarV : IntOp := fun _ n a b _ => wrapI (sval a n / (2 ^ min b (n - 1) : Nat)) n
/-- ROL (R101). -/
def rolV : IntOp := fun _ n a b _ => let k := b % n; (a % 2 ^ n * 2 ^ k + a % 2 ^ n / 2 ^ (n - k)) % 2 ^ n
/-- ROR (R101). -/
def rorV : IntOp := fun _ n a b _ => let k := b % n; (a % 2 ^ n / 2 ^ k + a % 2 ^ n * 2 ^ (n - k)) % 2 ^ n
/-- FSHL (R101). -/
def fshlV : IntOp := fun _ n a b c => let k := b % n; ((a % 2 ^ n * 2 ^ n + c % 2 ^ n) * 2 ^ k) / 2 ^ n % 2 ^ n

/-- A number from its bits, bit 0 first. -/
def ofBitFn (n : Nat) (f : Nat → Bool) : Nat := (List.range n).foldr (fun i r => 2 * r + (f i).toNat) 0

/-- BFE (R102). -/
def bfeV : IntOp := fun sg n a b _ =>
  let pos := b % 256
  let len := min (b / 256 % 256) n
  let bit (i : Nat) : Bool := if pos + i < n then a.testBit (pos + i) else sg && a.testBit (n - 1)
  ofBitFn n fun i => if i < len then bit i else sg && 0 < len && bit (len - 1)

/-- BFI (R102). -/
def bfiV : IntOp := fun _ n a b c =>
  let pos := b % 256
  let len := min (b / 256 % 256) n
  ofBitFn n fun j => if pos ≤ j && j < pos + len then a.testBit (j - pos) else c.testBit j

/-- One result byte of `PRMT` (R103). -/
def prmtByte (a b c i : Nat) : Nat :=
  let k := b / 2 ^ (3 * i) % 8
  let d := if k < 4 then a / 2 ^ (8 * k) % 256 else c / 2 ^ (8 * (k - 4)) % 256
  if b.testBit (16 + i) then 0 else if b.testBit (12 + i) then (if d.testBit 7 then 0xFF else 0) else d

/-- PRMT (R103). -/
def prmtV : IntOp := fun _ _ a b c =>
  prmtByte a b c 0 + prmtByte a b c 1 * 2 ^ 8 + prmtByte a b c 2 * 2 ^ 16 + prmtByte a b c 3 * 2 ^ 24

/-- LEA (R99): a is a 64-bit address, b is read as the type says and scaled by 2^s. -/
def leaV (sg : Bool) (sh a b : Nat) : Nat := wrapI ((a : Int) + ival sg b 32 * (2 ^ sh : Nat)) 64

/-- PAND (R99). -/
def pandV : IntOp := fun _ _ a b _ => truthV (a != 0 && b != 0)
/-- POR (R99). -/
def porV : IntOp := fun _ _ a b _ => truthV (a != 0 || b != 0)
/-- PXOR (R99). -/
def pxorV : IntOp := fun _ _ a b _ => truthV ((a != 0) != (b != 0))
/-- PNOT (R99). -/
def pnotV : IntOp := fun _ _ a _ _ => truthV (a == 0)

end Sys2Proof.Machine
end

