-- ==== Sys2Proof/Machine/Formats.lean ====
section
/-! DEFINITION. Number formats, their values, and rounding (spec/06_numbers_and_matrix_engine.md R164 to R167,
spec/03_blocks_and_encoding.md R91, R93). A code of a format is a number below 2^bits. -/

namespace Sys2Proof.Machine

/-- A floating format of Table 6.2: fraction bits F.m, exponent bits, minimum normal exponent F.emin, infinities and
NaNs. The largest exponent code is reserved exactly in the formats that have them. -/
structure Fmt where
  m : Nat
  ew : Nat
  emin : Int
  inf : Bool
  deriving DecidableEq, Repr

/-- E2M1 (Table 6.2). -/
def fE2M1 : Fmt := ⟨1, 2, 0, false⟩
/-- E2M3 (Table 6.2). -/
def fE2M3 : Fmt := ⟨3, 2, 0, false⟩
/-- E3M2 (Table 6.2). -/
def fE3M2 : Fmt := ⟨2, 3, -2, false⟩
/-- E4M3 (Table 6.2). -/
def fE4M3 : Fmt := ⟨3, 4, -6, true⟩
/-- E5M2 (Table 6.2). -/
def fE5M2 : Fmt := ⟨2, 5, -14, true⟩
/-- FP16 (Table 6.2). -/
def fHF : Fmt := ⟨10, 5, -14, true⟩
/-- BF16 (Table 6.2). -/
def fBF : Fmt := ⟨7, 8, -126, true⟩
/-- E8M10 (Table 6.2). -/
def fE8M10 : Fmt := ⟨10, 8, -126, true⟩
/-- FP32 (Table 6.2). -/
def f32 : Fmt := ⟨23, 8, -126, true⟩
/-- FP64 (Table 6.2). -/
def f64 : Fmt := ⟨52, 11, -1022, true⟩
/-- B128 (Table 6.2). -/
def fB128 : Fmt := ⟨112, 15, -16382, true⟩

/-- The sign bit's weight. -/
def Fmt.sgn (F : Fmt) : Nat := 2 ^ (F.m + F.ew)

/-- The code of +∞ in a format that has it. -/
def Fmt.infCode (F : Fmt) : Nat := (2 ^ F.ew - 1) * 2 ^ F.m

/-- The code of F.max. -/
def Fmt.maxCode (F : Fmt) : Nat := if F.inf then F.infCode - 1 else 2 ^ (F.m + F.ew) - 1

/-- `qnan` (R91); +0 for a format without NaNs (R93). -/
def Fmt.qnan (F : Fmt) : Nat := if F.inf then F.infCode + 2 ^ (F.m - 1) else 0

/-- A code is negative. -/
def Fmt.neg (F : Fmt) (c : Nat) : Bool := c.testBit (F.m + F.ew)

/-- A code without its sign. -/
def Fmt.mag (F : Fmt) (c : Nat) : Nat := c % F.sgn

/-- A code is a NaN (R166). -/
def Fmt.isNan (F : Fmt) (c : Nat) : Bool := F.inf && F.infCode < F.mag c

/-- A code is subnormal (R166). -/
def Fmt.isSub (F : Fmt) (c : Nat) : Bool := F.mag c != 0 && F.mag c < 2 ^ F.m

/-- An exact real, ±∞ or NaN (R93): a finite value is (−1)^neg × m × 2^e, and a zero keeps its sign. -/
inductive XVal where
  | nan
  | inf (neg : Bool)
  | fin (neg : Bool) (m : Nat) (e : Int)
  deriving DecidableEq, Repr

/-- The value of a code (R166). -/
def Fmt.value (F : Fmt) (c : Nat) : XVal :=
  let g := F.mag c
  if F.isNan c then .nan
  else if F.inf && g = F.infCode then .inf (F.neg c)
  else
    let e := g / 2 ^ F.m
    let f := g % 2 ^ F.m
    if e = 0 then .fin (F.neg c) f (F.emin - F.m) else .fin (F.neg c) (2 ^ F.m + f) (F.emin + (e : Int) - 1 - F.m)

/-- `flush_in` (R91). -/
def flushIn (F : Fmt) (dn : Nat) (c : Nat) : Nat :=
  if dn % 2 = 1 && F.isSub c then (if F.neg c then F.sgn else 0) else c

/-! ## Rounding (R93) -/

/-- A rounding mode (Table 3.3). -/
inductive Rm where
  | rne | rtz | rup | rdn | rna
  deriving DecidableEq, Repr

/-- The mode that a RM code names. -/
def rmCode (n : Nat) : Rm := if n = 1 then .rtz else if n = 2 then .rup else if n = 3 then .rdn else if n = 4 then .rna else .rne

/-- `rm_of` (R91, R76): RND 0 uses the mode register. -/
def rmOf (mode : Word) (rnd : Nat) : Rm := if rnd = 0 then rmCode (modeRM mode) else rmCode (rnd - 1)

/-- num / den rounded to an integer in a mode, for a value with the given sign. -/
def roundInt (rm : Rm) (neg : Bool) (num den : Nat) : Nat :=
  let k := num / den
  let r := num % den
  match rm with
  | .rne => if den < 2 * r || (2 * r = den && k % 2 = 1) then k + 1 else k
  | .rna => if den ≤ 2 * r then k + 1 else k
  | .rtz => k
  | .rup => if r != 0 && !neg then k + 1 else k
  | .rdn => if r != 0 && neg then k + 1 else k

/-- floor(log2(num / den)) for positive num and den. -/
def floorLog2 (num den : Nat) : Int :=
  let l : Int := (Nat.log2 num : Int) - (Nat.log2 den : Int)
  if den * 2 ^ l.toNat ≤ num * 2 ^ (-l).toNat then l else l - 1

/-- `round_fp` (R93) of a nonzero rational; `dn` is `MODE.DN`. -/
def roundRat (F : Fmt) (rm : Rm) (dn : Nat) (neg : Bool) (num den : Nat) : Nat :=
  let e := max (floorLog2 num den) F.emin
  let q := e - F.m
  let k := roundInt rm neg (num * 2 ^ (-q).toNat) (den * 2 ^ q.toNat)
  let s := if neg then F.sgn else 0
  let g := if k < 2 ^ F.m then k else (e - F.emin).toNat * 2 ^ F.m + k
  let away := match rm with | .rne => true | .rna => true | .rup => !neg | .rdn => neg | .rtz => false
  if F.maxCode < g then s + (if away && F.inf then F.infCode else F.maxCode)
  else if g < 2 ^ F.m && 2 ≤ dn then s
  else s + g

/-- `round_fp` (R93). -/
def roundFp (F : Fmt) (rm : Rm) (dn : Nat) : XVal → Nat
  | .nan => F.qnan
  | .inf neg => (if neg then F.sgn else 0) + (if F.inf then F.infCode else F.maxCode)
  | .fin neg m e =>
    if m = 0 then (if neg then F.sgn else 0)
    else roundRat F rm dn neg (m * 2 ^ e.toNat) (2 ^ (-e).toNat)

/-! ## Element formats by code (Table 4.5, R164) -/

/-- The floating format of a code, if it names one. -/
def fmtOf (t : Nat) : Option Fmt :=
  if t = 0x08 then some fBF else if t = 0x09 then some fHF else if t = 0x0A then some f32 else if t = 0x0B then some f64
  else if t = 0x14 then some fE2M1 else if t = 0x15 then some fE2M3 else if t = 0x16 then some fE3M2
  else if t = 0x17 then some fE4M3 else if t = 0x18 then some fE5M2 else if t = 0x19 then some fE8M10 else none

/-- The width and signedness of an integer format's code. -/
def intFmt (t : Nat) : Option (Nat × Bool) :=
  if t = 0 then some (32, true) else if t = 1 then some (32, false) else if t = 2 then some (64, true)
  else if t = 3 then some (64, false) else if t = 0x10 then some (8, true) else if t = 0x11 then some (8, false)
  else if t = 0x12 then some (4, true) else if t = 0x13 then some (4, false) else none

/-- The width in bits of a format's codes. -/
def fmtBits (t : Nat) : Nat :=
  match intFmt t with
  | some (n, _) => n
  | none => match fmtOf t with | some F => F.m + F.ew + 1 | none => 0

/-- An integer as an exact value. -/
def ofInt (x : Int) : XVal := .fin (x < 0) x.natAbs 0

/-- The value of an element's code in the format with a code (R164, R166); bits above the element are ignored. -/
def elemValue (t c : Nat) : XVal :=
  match intFmt t with
  | some (n, sg) => ofInt (ival sg c n)
  | none => match fmtOf t with | some F => F.value (c % (2 * F.sgn)) | none => .nan

/-- The value of a scale's code (R167): 0x1C is E8M0, 0x1D is E3M5. -/
def scaleValue (t c : Nat) : XVal :=
  let c := c % 256
  if c = 0xFF then .nan
  else if t = 0x1C then .fin false 1 ((c : Int) - 127)
  else if c / 32 = 0 then .fin false c (-7)
  else .fin false (32 + c % 32) ((c / 32 : Int) - 8)

end Sys2Proof.Machine
end

