-- ==== Sys2Proof/Machine/Digest.lean ====
section
/-! DEFINITION. The digests of the firmware and attestation formats (spec/17_boot_attestation_power.md R387): SHA-384
itself, and SHA-512 and SHA-256, which the named SLH-DSA parameter set uses. The spec names the standards and prints no
algorithm; the text here is that of FIPS 180-4 (notes/assumptions/10.md). Octet strings are lists with the first octet
first (R387). -/

namespace Sys2Proof.Machine

/-! ## Octet strings -/

/-- The n octets of a number, the most significant first. -/
def octetsOf (n v : Nat) : List Byte := (List.range n).map fun i => BitVec.ofNat 8 (v / 256 ^ (n - 1 - i))

/-- The number that octets spell, the first the most significant. -/
def natOfOctets (o : List Byte) : Nat := o.foldl (fun a b => 256 * a + b.toNat) 0

/-- Words of memory as octets: the octet at the lowest address first (R387). -/
def octetsOfWords (ws : List Word) : List Byte :=
  ws.flatMap fun w => (List.range 4).map fun i => w.extractLsb' (8 * i) 8

/-- A list in pieces of n + 1 elements, for a list of at most `fuel` pieces. -/
def piecesOf {α : Type} (n : Nat) : Nat → List α → List (List α)
  | 0, _ => []
  | f + 1, l => if l.isEmpty then [] else l.take (n + 1) :: piecesOf n f (l.drop (n + 1))

/-! ## SHA-2 -/

/-- What tells the SHA-2 functions of one word size apart: the rotations of the four mixing functions (the last number of
the small ones is a shift), and the round constants. -/
structure Sha2 (w : Nat) where
  big0 : Nat × Nat × Nat
  big1 : Nat × Nat × Nat
  small0 : Nat × Nat × Nat
  small1 : Nat × Nat × Nat
  consts : List (BitVec w)
  deriving DecidableEq, Repr

/-- A large mixing function: three rotations. -/
def shaBig {w : Nat} (x : BitVec w) (r : Nat × Nat × Nat) : BitVec w :=
  x.rotateRight r.1 ^^^ x.rotateRight r.2.1 ^^^ x.rotateRight r.2.2

/-- A small mixing function: two rotations and a shift. -/
def shaSmall {w : Nat} (x : BitVec w) (r : Nat × Nat × Nat) : BitVec w :=
  x.rotateRight r.1 ^^^ x.rotateRight r.2.1 ^^^ x >>> r.2.2

/-- n more words of a message schedule, which is held with the newest word first. -/
def shaExtend {w : Nat} (p : Sha2 w) : Nat → List (BitVec w) → List (BitVec w)
  | 0, l => l
  | n + 1, l =>
    let at' (i : Nat) : BitVec w := l[i]?.getD 0
    shaExtend p n ((shaSmall (at' 1) p.small1 + at' 6 + shaSmall (at' 14) p.small0 + at' 15) :: l)

/-- One round on the working variables a to h. -/
def shaRound {w : Nat} (p : Sha2 w) (v : List (BitVec w)) (kw : BitVec w) : List (BitVec w) :=
  match v with
  | [a, b, c, d, e, f, g, h] =>
    let t1 := h + shaBig e p.big1 + ((e &&& f) ^^^ (~~~e &&& g)) + kw
    let t2 := shaBig a p.big0 + ((a &&& b) ^^^ (a &&& c) ^^^ (b &&& c))
    [t1 + t2, a, b, c, d + t1, e, f, g]
  | _ => v

/-- A block of 16 words taken into the chaining value. -/
def shaBlock {w : Nat} (p : Sha2 w) (h block : List (BitVec w)) : List (BitVec w) :=
  let schedule := (shaExtend p (p.consts.length - 16) block.reverse).reverse
  let out := (p.consts.zip schedule).foldl (fun v kw => shaRound p v (kw.1 + kw.2)) h
  (h.zip out).map fun q => q.1 + q.2

/-- A message padded to whole blocks of words of w bits: a one bit, zeros, and the length in bits. -/
def shaPadded (w : Nat) (msg : List Byte) : List Byte :=
  let block := 2 * w
  let used := msg.length + 1 + w / 4
  msg ++ (0x80 : Byte) :: List.replicate ((block - used % block) % block) 0 ++ octetsOf (w / 4) (8 * msg.length)

/-- The chaining value after a whole message, as octets. -/
def shaDigest {w : Nat} (p : Sha2 w) (iv : List (BitVec w)) (msg : List Byte) : List Byte :=
  let bytes := shaPadded w msg
  let words := (piecesOf (w / 8 - 1) bytes.length bytes).map fun o => BitVec.ofNat w (natOfOctets o)
  ((piecesOf 15 words.length words).foldl (shaBlock p) iv).flatMap fun x => octetsOf (w / 8) x.toNat

/-- The largest number below 2^b, with a given start of higher bits, whose k-th power is at most n: one bit at a time. -/
def rootBits (k n : Nat) : Nat → Nat → Nat
  | 0, r => r
  | b + 1, r => rootBits k n b (if (r + 2 ^ b) ^ k ≤ n then r + 2 ^ b else r)

/-- The first 64 bits of the fractional part of the k-th root of a number below 2^9 (FIPS 180-4, 4.2.3 and 5.3). -/
def rootFraction (k p : Nat) : BitVec 64 := BitVec.ofNat 64 (rootBits k (p * 2 ^ (64 * k)) 70 0)

/-- The primes up to the 80th, 409. -/
def smallPrimes : List Nat :=
  (List.range 410).filter fun p => decide (2 ≤ p) && (List.range 21).all fun d => decide (d < 2) || d == p || p % d != 0

/-- The 80 round constants of SHA-512: cube roots of the first 80 primes. -/
def sha512Consts : List (BitVec 64) := smallPrimes.map (rootFraction 3)

/-- The first chaining value of SHA-512: square roots of the first eight primes. -/
def sha512Start : List (BitVec 64) := (smallPrimes.take 8).map (rootFraction 2)

/-- The first chaining value of SHA-384: square roots of the next eight. -/
def sha384Start : List (BitVec 64) := ((smallPrimes.drop 8).take 8).map (rootFraction 2)

/-- The SHA-2 functions on words of 64 bits. -/
def sha2Wide : Sha2 64 := ⟨(28, 34, 39), (14, 18, 41), (1, 8, 7), (19, 61, 6), sha512Consts⟩

/-- The SHA-2 functions on words of 32 bits, whose constants are the high halves of the first 64 wide ones. -/
def sha2Narrow : Sha2 32 :=
  ⟨(2, 13, 22), (6, 11, 25), (7, 18, 3), (17, 19, 10), (sha512Consts.take 64).map fun k => k.extractLsb' 32 32⟩

/-- SHA-512. -/
def sha512 (msg : List Byte) : List Byte := shaDigest sha2Wide sha512Start msg

/-- SHA-384 (R387): SHA-512 from another start, cut to 48 octets. -/
def sha384 (msg : List Byte) : List Byte := (shaDigest sha2Wide sha384Start msg).take 48

/-- SHA-256. -/
def sha256 (msg : List Byte) : List Byte := shaDigest sha2Narrow (sha512Start.map fun k => k.extractLsb' 32 32) msg

/-- MGF1 of a digest (RFC 8017): n octets made of the digests of the seed with a counter behind it. -/
def mgf1 (hash : List Byte → List Byte) (size : Nat) (seed : List Byte) (n : Nat) : List Byte :=
  ((List.range ((n + size - 1) / size)).flatMap fun i => hash (seed ++ octetsOf 4 i)).take n

end Sys2Proof.Machine
end

