-- ==== Sys2Proof/Machine/Signature.lean ====
section
/-! DEFINITION. The two signature checks of Table 17.3 (spec/17_boot_attestation_power.md R387): RSASSA-PSS with a 3072-bit
key (RFC 8017) and SLH-DSA-SHA2-192s in its pure form with an empty context string (FIPS 205). The spec names the
schemes and their parameters; the algorithms are the standards' (notes/assumptions/10.md). -/

namespace Sys2Proof.Machine

/-- Octets i to i + n - 1 of an octet string. -/
def octetsAt (o : List Byte) (i n : Nat) : List Byte := (o.drop i).take n

/-! ## RSASSA-PSS -/

/-- A number squared n times modulo m. -/
def squareMod (m : Nat) : Nat → Nat → Nat
  | 0, x => x
  | n + 1, x => squareMod m n (x * x % m)

/-- The RSA verification primitive with e = 65,537: s to the power 2^16 + 1 modulo n. -/
def rsaPublic (n s : Nat) : Nat := squareMod n 16 s * s % n

/-- The PSS encoding of a message's digest checked (RFC 8017, 9.1.2): an encoded message of 384 octets for a modulus of
3072 bits, salt 48 octets. -/
def pssOk (msg em : List Byte) : Bool :=
  let masked := octetsAt em 0 335
  let h := octetsAt em 335 48
  let db := (masked.zip (mgf1 sha384 48 h 335)).map fun p => p.1 ^^^ p.2
  let db := match db with
    | [] => []
    | b :: r => (b &&& 0x7F) :: r
  em.length == 384 && em[383]? == some 0xBC && (masked.headD 0).getLsbD 7 == false &&
    octetsAt db 0 287 == List.replicate 286 0 ++ [1] &&
    sha384 (List.replicate 8 0 ++ sha384 msg ++ octetsAt db 287 48) == h

/-- RSASSA-PSS verification (R387): modulus, message and signature as octet strings. -/
def rsaOk (key msg sig : List Byte) : Bool :=
  let n := natOfOctets key
  let s := natOfOctets sig
  key.length == 384 && sig.length == 384 && decide (s < n) && pssOk msg (octetsOf 384 (rsaPublic n s))

/-! ## SLH-DSA-SHA2-192s -/

/-- The octets n of a hash value in SLH-DSA-SHA2-192s; the set's other numbers stand where they are used: d = 7 layers of
height h' = 9, k = 17 FORS trees of height a = 14, base-16 chains of which 48 + 3 make a one-time key. -/
def slhN : Nat := 24

/-- An address (FIPS 205, 4.2), in the fields that the compressed form keeps: layer, tree, type and three words. -/
structure SlhAddr where
  layer : Nat
  tree : Nat
  kind : Nat
  pair : Nat
  height : Nat
  index : Nat
  deriving DecidableEq, Repr

/-- The compressed address, 22 octets (FIPS 205, 11.2). -/
def SlhAddr.octets (a : SlhAddr) : List Byte :=
  octetsOf 1 a.layer ++ octetsOf 8 a.tree ++ octetsOf 1 a.kind ++ octetsOf 4 a.pair ++ octetsOf 4 a.height ++
    octetsOf 4 a.index

/-- The hash F of one string, by SHA-256. -/
def slhF (seed : List Byte) (a : SlhAddr) (m : List Byte) : List Byte :=
  (sha256 (seed ++ List.replicate (64 - slhN) 0 ++ a.octets ++ m)).take slhN

/-- The hashes H and T of several strings, by SHA-512. -/
def slhT (seed : List Byte) (a : SlhAddr) (m : List Byte) : List Byte :=
  (sha512 (seed ++ List.replicate (128 - slhN) 0 ++ a.octets ++ m)).take slhN

/-- The digits of an octet string in base 2^b, the most significant first. -/
def slhDigits (b count : Nat) (o : List Byte) : List Nat :=
  let v := natOfOctets o
  (List.range count).map fun i => v / 2 ^ (8 * o.length - b * (i + 1)) % 2 ^ b

/-- A chain of hashes from position i, s steps on. -/
def slhChain (seed : List Byte) (a : SlhAddr) : Nat → Nat → List Byte → List Byte
  | 0, _, x => x
  | s + 1, i, x => slhChain seed a s (i + 1) (slhF seed { a with index := i } x)

/-- The one-time public key that a signature of 51 chains gives for a string. -/
def slhWots (seed : List Byte) (layer tree pair : Nat) (sig msg : List Byte) : List Byte :=
  let digits := slhDigits 4 48 msg
  let sum := (digits.map fun x => 15 - x).sum
  let all := digits ++ slhDigits 4 3 (octetsOf 2 (16 * sum))
  let ends := (all.zipIdx).flatMap fun (x, i) =>
    slhChain seed ⟨layer, tree, 0, pair, i, 0⟩ (15 - x) x (octetsAt sig (slhN * i) slhN)
  slhT seed ⟨layer, tree, 1, pair, 0, 0⟩ ends

/-- The root that an authentication path gives: from height j and index x upward. -/
def slhClimb (seed : List Byte) (a : SlhAddr) : List (List Byte) → Nat → Nat → List Byte → List Byte
  | [], _, _, node => node
  | p :: r, j, x, node =>
    let b : SlhAddr := { a with height := j + 1, index := x / 2 }
    slhClimb seed a r (j + 1) (x / 2) (slhT seed b (if x % 2 = 0 then node ++ p else p ++ node))

/-- A signature's octets as its strings of 24 octets. -/
def slhStrings (o : List Byte) : List (List Byte) := piecesOf (slhN - 1) o.length o

/-- The root of one layer's tree that its part of a signature gives: 51 chain values and 9 path nodes. -/
def slhLayer (seed : List Byte) (layer tree leaf : Nat) (sig msg : List Byte) : List Byte :=
  slhClimb seed ⟨layer, tree, 2, 0, 0, 0⟩ (slhStrings (octetsAt sig (51 * slhN) (9 * slhN))) 0 leaf
    (slhWots seed layer tree leaf sig msg)

/-- The layers from one upward: the root at the top. -/
def slhLayers (seed : List Byte) : List Nat → Nat → Nat → List Byte → List Byte → List Byte
  | [], _, _, _, node => node
  | j :: r, tree, leaf, sig, node =>
    slhLayers seed r (tree / 512) (tree % 512) sig (slhLayer seed j tree leaf (octetsAt sig (1440 * j) 1440) node)

/-- The FORS public key that 17 opened leaves give: each is a secret and a path of 14. -/
def slhFors (seed : List Byte) (tree pair : Nat) (sig md : List Byte) : List Byte :=
  let roots := (slhDigits 14 17 md).zipIdx.flatMap fun (x, i) =>
    let part := octetsAt sig (360 * i) 360
    let leaf := 16384 * i + x
    slhClimb seed ⟨0, tree, 3, pair, 0, 0⟩ (slhStrings (part.drop slhN)) 0 leaf
      (slhF seed ⟨0, tree, 3, pair, 0, leaf⟩ (part.take slhN))
  slhT seed ⟨0, tree, 4, pair, 0, 0⟩ roots

/-- SLH-DSA verification (R387): public key (seed and root), message and signature as octet strings. -/
def slhOk (key msg sig : List Byte) : Bool :=
  let seed := octetsAt key 0 slhN
  let root := octetsAt key slhN slhN
  let r := octetsAt sig 0 slhN
  let whole : List Byte := 0 :: 0 :: msg
  let digest := mgf1 sha512 64 (r ++ seed ++ sha512 (r ++ seed ++ root ++ whole)) 39
  let tree := natOfOctets (octetsAt digest 30 7) % 2 ^ 54
  let leaf := natOfOctets (octetsAt digest 37 2) % 2 ^ 9
  let pk := slhFors seed tree leaf (octetsAt sig slhN (17 * 360)) (octetsAt digest 0 30)
  key.length == 48 && sig.length == 16224 &&
    slhLayers seed (List.range 7) tree leaf (sig.drop (slhN + 17 * 360)) pk == root

end Sys2Proof.Machine
end

