-- ==== Sys2Proof/Machine/Exact.lean ====
section
/-! DEFINITION. The exact functions of spec/04_compute_instructions.md Table 4.4 on exact values, with the special
operands of R109, and the rounding of each (R108). Sums, products and quotients are exact rationals. Roots are cut
with a sticky half. The transcendental functions are refined intervals (notes/assumptions/13.md). -/

namespace Sys2Proof.Machine

/-! ## Sums, products, quotients -/

/-- The value negated. -/
def XVal.negate : XVal → XVal
  | .nan => .nan
  | .inf n => .inf (!n)
  | .fin n m e => .fin (!n) m e

/-- A signed mantissa. -/
def signed (neg : Bool) (m : Nat) : Int := if neg then -(m : Int) else m

/-- The sum x + y (R109); an exact zero sum of opposite signs is +0, or −0 in mode RDN. -/
def addX (rm : Rm) : XVal → XVal → XVal
  | .nan, _ => .nan
  | _, .nan => .nan
  | .inf a, .inf b => if a = b then .inf a else .nan
  | .inf a, .fin _ _ _ => .inf a
  | .fin _ _ _, .inf b => .inf b
  | .fin a m e, .fin b n g =>
    let h := min e g
    let s := signed a (m * 2 ^ (e - h).toNat) + signed b (n * 2 ^ (g - h).toNat)
    if s = 0 then .fin (if a = b then a else rm == .rdn) 0 0 else .fin (s < 0) s.natAbs h

/-- The product x × y (R109). -/
def mulX : XVal → XVal → XVal
  | .nan, _ => .nan
  | _, .nan => .nan
  | .inf a, .inf b => .inf (a != b)
  | .inf a, .fin b n _ => if n = 0 then .nan else .inf (a != b)
  | .fin a m _, .inf b => if m = 0 then .nan else .inf (a != b)
  | .fin a m e, .fin b n g => .fin (a != b) (m * n) (e + g)

/-- x / y rounded (R109, R93). -/
def divRound (F : Fmt) (rm : Rm) (dn : Nat) (x y : XVal) : Nat :=
  match x, y with
  | .nan, _ => F.qnan
  | _, .nan => F.qnan
  | .inf _, .inf _ => F.qnan
  | .inf a, .fin b _ _ => roundFp F rm dn (.inf (a != b))
  | .fin a _ _, .inf b => roundFp F rm dn (.fin (a != b) 0 0)
  | .fin a m e, .fin b n g =>
    if n = 0 then (if m = 0 then F.qnan else roundFp F rm dn (.inf (a != b)))
    else if m = 0 then roundFp F rm dn (.fin (a != b) 0 0)
    else roundRat F rm dn (a != b) (m * 2 ^ (e - g).toNat) (n * 2 ^ (g - e).toNat)

/-! ## Roots -/

/-- The integer square root of x, from bit b − 1 down. -/
def isqrtFrom (x : Nat) : Nat → Nat → Nat
  | 0, r => r
  | i + 1, r => isqrtFrom x i (if (r + 2 ^ i) * (r + 2 ^ i) ≤ x then r + 2 ^ i else r)

/-- The integer square root. -/
def isqrt (x : Nat) : Nat := isqrtFrom x (Nat.log2 x / 2 + 1) 0

/-- The root of m × 2^e with e even, cut at enough bits; an inexact root is the middle of its last place, which rounds
as the root does. -/
def rootOf (m : Nat) (e : Int) : XVal :=
  let k : Nat := 160
  let r := isqrt (m * 2 ^ (2 * k))
  if r * r = m * 2 ^ (2 * k) then .fin false r (e / 2 - k) else .fin false (2 * r + 1) (e / 2 - k - 1)

/-- √x rounded (R109). -/
def sqrtRound (F : Fmt) (rm : Rm) (dn : Nat) : XVal → Nat
  | .nan => F.qnan
  | .inf neg => if neg then F.qnan else F.infCode
  | .fin neg m e =>
    if m = 0 then roundFp F rm dn (.fin neg 0 0)
    else if neg then F.qnan
    else if e % 2 = 0 then roundFp F rm dn (rootOf m e) else roundFp F rm dn (rootOf (2 * m) (e - 1))

/-- 1/√(m × 2^e) with e even, cut like `rootOf`. -/
def rootRecip (m : Nat) (e : Int) : XVal :=
  let k : Nat := 160
  let r := isqrt (2 ^ (2 * k) / m)
  if r * r * m = 2 ^ (2 * k) then .fin false r (-(e / 2) - k) else .fin false (2 * r + 1) (-(e / 2) - k - 1)

/-- 1/√x rounded (R109). -/
def rsqrtRound (F : Fmt) (rm : Rm) (dn : Nat) : XVal → Nat
  | .nan => F.qnan
  | .inf neg => if neg then F.qnan else 0
  | .fin neg m e =>
    if m = 0 then roundFp F rm dn (.inf neg)
    else if neg then F.qnan
    else if e % 2 = 0 then roundFp F rm dn (rootRecip m e) else roundFp F rm dn (rootRecip (2 * m) (e - 1))

/-! ## Fixed-point series. A number y stands for y / 2^p; every bound below holds within 2^40 units for the term
counts used -/

/-- The margin on each side of a fixed-point value. -/
def slack : Int := 2 ^ 40

/-- atan(1/k) at p bits, `n` terms from term i. -/
def atanRecip (p k : Nat) : Nat → Nat → Int
  | 0, _ => 0
  | n + 1, i =>
    let t : Int := (2 ^ p / (k ^ (2 * i + 1) * (2 * i + 1)) : Nat)
    (if i % 2 = 0 then t else -t) + atanRecip p k n (i + 1)

/-- π at p bits (Machin). -/
def piFix (p : Nat) : Int := 16 * atanRecip p 5 (p / 4 + 2) 0 - 4 * atanRecip p 239 (p / 14 + 2) 0

/-- ln 2 at p bits. -/
def ln2Fix (p : Nat) : Nat → Int
  | 0 => 0
  | n + 1 => ((2 ^ p / ((n + 1) * 2 ^ (n + 1)) : Nat) : Int) + ln2Fix p n

/-- exp(y) at p bits: `n` terms, t the i-th term. -/
def expSeries (p : Nat) (y : Nat) : Nat → Nat → Nat → Nat
  | 0, _, _ => 0
  | n + 1, i, t => t + expSeries p y n (i + 1) (t * y / (2 ^ p * (i + 1)))

/-- The alternating series of sin (first term y, i = 1) and cos (first term 1, i = 0). -/
def sinSeries (p : Nat) (y : Nat) : Nat → Nat → Nat → Int
  | 0, _, _ => 0
  | n + 1, i, t => (t : Int) - sinSeries p y n (i + 2) (t * y / 2 ^ p * y / (2 ^ p * ((i + 1) * (i + 2))))

/-- atanh(z) at p bits: `w` is z^(2i+1). -/
def atanhSeries (p : Nat) (z : Nat) : Nat → Nat → Nat → Nat
  | 0, _, _ => 0
  | n + 1, i, w => w / (2 * i + 1) + atanhSeries p z n (i + 1) (w * z / 2 ^ p * z / 2 ^ p)

/-- A positive value m × 2^e at p bits, floored. -/
def fixOf (p m : Nat) (e : Int) : Nat := m * 2 ^ (e + p).toNat / 2 ^ (-(e + p)).toNat

/-! ## Rounding by refinement -/

/-- The code that both ends of an enclosure round to, at the first precision where they agree; the low end's at the
last precision. Enclosures are signed numbers over 2^p. -/
def refine (F : Fmt) (rm : Rm) (dn : Nat) (enc : Nat → Int × Int) : List Nat → Nat
  | [] => F.qnan
  | p :: r =>
    let code (x : Int) : Nat := roundFp F rm dn (.fin (x < 0) x.natAbs (-(p : Int)))
    let (lo, hi) := enc p
    if code lo = code hi || r.isEmpty then code lo else refine F rm dn enc r

/-- The precisions tried: the first decides every FP32 operand in practice. -/
def precisions : List Nat := [640, 1280, 5120]

/-- An enclosure of a value with its slack. -/
def around (x : Int) : Int × Int := (x - slack, x + slack)

/-- 2^x rounded (R109). -/
def exp2Round (F : Fmt) (rm : Rm) (dn : Nat) : XVal → Nat
  | .nan => F.qnan
  | .inf neg => if neg then 0 else F.infCode
  | .fin neg m e =>
    let x : Int := signed neg m
    if m = 0 then roundFp F rm dn (.fin false 1 0)
    else if 12 ≤ Nat.log2 m + e then roundFp F rm dn (.fin false 1 (if neg then -4096 else 4096))
    else if 0 ≤ e then roundFp F rm dn (.fin false 1 (x * 2 ^ e.toNat))
    else
      let n := x / (2 ^ (-e).toNat : Nat)
      let f := (x % (2 ^ (-e).toNat : Nat)).toNat
      if f = 0 then roundFp F rm dn (.fin false 1 n)
      else
        let scaled (p : Nat) : Int × Int :=
          let y := (fixOf p f e : Int) * ln2Fix p (p + 8) / (2 ^ p : Nat)
          around (expSeries p y.toNat (p / 2 + 16) 0 (2 ^ p))
        refineScaled F rm dn scaled n precisions
where
  /-- `refine` for an enclosure that a power of two scales. -/
  refineScaled (F : Fmt) (rm : Rm) (dn : Nat) (enc : Nat → Int × Int) (n : Int) : List Nat → Nat
    | [] => F.qnan
    | p :: r =>
      let code (x : Int) : Nat := roundFp F rm dn (.fin (x < 0) x.natAbs (n - (p : Int)))
      let (lo, hi) := enc p
      if code lo = code hi || r.isEmpty then code lo else refineScaled F rm dn enc n r

/-- log2 x rounded (R109). -/
def log2Round (F : Fmt) (rm : Rm) (dn : Nat) : XVal → Nat
  | .nan => F.qnan
  | .inf neg => if neg then F.qnan else F.infCode
  | .fin neg m e =>
    if m = 0 then F.sgn + F.infCode
    else if neg then F.qnan
    else
      let b := Nat.log2 m
      let n : Int := e + b
      if m = 2 ^ b then roundFp F rm dn (ofInt n)
      else refine F rm dn (fun p =>
        let z := (m - 2 ^ b) * 2 ^ p / (m + 2 ^ b)
        let l := 2 * atanhSeries p z (p / 3 + 8) 0 z
        around (n * (2 ^ p : Nat) + (l : Int) * (2 ^ p : Nat) / ln2Fix p (p + 8))) precisions

/-- The angle m × 2^e reduced modulo π/2 at p bits: the quadrant and the rest. -/
def reduceAngle (p m : Nat) (e : Int) : Nat × Nat :=
  let q := p + 320
  let half := (piFix q / 2).toNat
  let x := fixOf q m e
  (x / half % 4, x % half / 2 ^ 320)

/-- The sine of a quadrant and rest at p bits. -/
def sinQuadrant (p : Nat) (quad y : Nat) : Int :=
  let n := p / 4 + 16
  let s := sinSeries p y n 1 y
  let c := sinSeries p y n 0 (2 ^ p)
  if quad = 0 then s else if quad = 1 then c else if quad = 2 then -s else -c

/-- sin x rounded (R109). -/
def sinRound (F : Fmt) (rm : Rm) (dn : Nat) : XVal → Nat
  | .nan => F.qnan
  | .inf _ => F.qnan
  | .fin neg m e =>
    if m = 0 then roundFp F rm dn (.fin neg 0 0)
    else refine F rm dn (fun p =>
      let (quad, y) := reduceAngle p m e
      let v := sinQuadrant p quad y
      around (if neg then -v else v)) precisions

/-- cos x rounded (R109). -/
def cosRound (F : Fmt) (rm : Rm) (dn : Nat) : XVal → Nat
  | .nan => F.qnan
  | .inf _ => F.qnan
  | .fin _ m e =>
    if m = 0 then roundFp F rm dn (.fin false 1 0)
    else refine F rm dn (fun p =>
      let (quad, y) := reduceAngle p m e
      around (sinQuadrant p ((quad + 1) % 4) y)) precisions

/-- tanh x rounded (R109). -/
def tanhRound (F : Fmt) (rm : Rm) (dn : Nat) : XVal → Nat
  | .nan => F.qnan
  | .inf neg => roundFp F rm dn (.fin neg 1 0)
  | .fin neg m e =>
    if m = 0 then roundFp F rm dn (.fin neg 0 0)
    else if 7 ≤ Nat.log2 m + e then roundFp F rm dn (.fin neg (2 ^ 200 - 1) (-200))
    else refine F rm dn (fun p =>
      let y := 2 * fixOf p m e
      let x := expSeries p y (p + 1024) 0 (2 ^ p)
      let v : Int := (((x - 2 ^ p) * 2 ^ p / (x + 2 ^ p) : Nat) : Int)
      around (if neg then -v else v)) precisions

end Sys2Proof.Machine
end

