-- ==== Sys2Proof/Machine/Float.lean ====
section
/-! DEFINITION. The floating-point nodes (spec/04_compute_instructions.md R107 to R113): FP32, FP64 and packed 16-bit
halves, one operation over codes of a format for all three groups. -/

namespace Sys2Proof.Machine

/-! ## Operands and results (R108) -/

/-- The modes that a floating node applies: MOD, the rounding mode, `MODE.DN`. -/
structure FpCtl where
  mod : BitVec 5
  rm : Rm
  dn : Nat

/-- `mods` (R108): absolute value before negation. -/
def modsCode (F : Fmt) (absbit negbit : Bool) (c : Nat) : Nat :=
  let c1 := if absbit then F.mag c else c
  if negbit then (if F.neg c1 then c1 - F.sgn else c1 + F.sgn) else c1

/-- Operand a flushed and modified (R108). -/
def opX (F : Fmt) (t : FpCtl) (a : Nat) : Nat := modsCode F (t.mod.getLsbD 1) (t.mod.getLsbD 0) (flushIn F t.dn a)

/-- Operand b flushed and modified (R108). -/
def opY (F : Fmt) (t : FpCtl) (b : Nat) : Nat := modsCode F (t.mod.getLsbD 3) (t.mod.getLsbD 2) (flushIn F t.dn b)

/-- The code of 1.0. -/
def Fmt.one (F : Fmt) : Nat := (2 ^ (F.ew - 1) - 1) * 2 ^ F.m

/-- MOD[52] clamps a result to [0, 1] (R108). -/
def satUnit (F : Fmt) (t : FpCtl) (r : Nat) : Nat :=
  if !t.mod.getLsbD 4 then r else if F.isNan r || F.neg r then 0 else min r F.one

/-- An operation of the floating groups on codes of a format. -/
abbrev FpOp := Fmt → FpCtl → Nat → Nat → Nat → Nat

/-- x + y rounded once (R108). -/
def fpAdd : FpOp := fun F t a b _ =>
  satUnit F t (roundFp F t.rm t.dn (addX t.rm (F.value (opX F t a)) (F.value (opY F t b))))
/-- x − y rounded once (R108). -/
def fpSub : FpOp := fun F t a b _ =>
  satUnit F t (roundFp F t.rm t.dn (addX t.rm (F.value (opX F t a)) (F.value (opY F t b)).negate))
/-- x × y rounded once (R108). -/
def fpMul : FpOp := fun F t a b _ =>
  satUnit F t (roundFp F t.rm t.dn (mulX (F.value (opX F t a)) (F.value (opY F t b))))
/-- x × y + z rounded once (R108). -/
def fpFma : FpOp := fun F t a b c =>
  satUnit F t (roundFp F t.rm t.dn
    (addX t.rm (mulX (F.value (opX F t a)) (F.value (opY F t b))) (F.value (flushIn F t.dn c))))
/-- x / y rounded once (R108). -/
def fpDiv : FpOp := fun F t a b _ => satUnit F t (divRound F t.rm t.dn (F.value (opX F t a)) (F.value (opY F t b)))

/-- A code's place in the order that puts −0 below +0 (R110). -/
def orderKey (F : Fmt) (c : Nat) : Int := if F.neg c then -1 - (F.mag c : Int) else F.mag c

/-- The result of a minimum or maximum (R110): an operand, not rounded; a subnormal is flushed with the outputs. -/
def fpPick (less : Bool) : FpOp := fun F t a b _ =>
  let x := opX F t a
  let y := opY F t b
  let r := if F.isNan x then (if F.isNan y then F.qnan else y) else if F.isNan y then x
    else if (orderKey F x ≤ orderKey F y) = less then x else y
  satUnit F t (if 2 ≤ t.dn && F.isSub r then (if F.neg r then F.sgn else 0) else r)

/-- A function of one operand, rounded by itself (R108). -/
def fpUnary (g : Fmt → Rm → Nat → XVal → Nat) : FpOp := fun F t a _ _ =>
  satUnit F t (g F t.rm t.dn (F.value (opX F t a)))

/-- 1/x rounded once (R109). -/
def rcpRound (F : Fmt) (rm : Rm) (dn : Nat) (x : XVal) : Nat := divRound F rm dn (.fin false 1 0) x

/-- `FCLASS` (R111), whatever `MODE.DN` says. -/
def fpClass : FpOp := fun F _ a _ _ =>
  let n := F.neg a
  if F.isNan a then (if a.testBit (F.m - 1) then 2 else 1)
  else if F.mag a = F.infCode then (if n then 4 else 0x200)
  else if F.mag a = 0 then (if n then 0x20 else 0x40)
  else if F.isSub a then (if n then 0x10 else 0x80)
  else if n then 8 else 0x100

/-- The numeric order of two codes (R112), −0 = +0: none with a NaN, otherwise −1, 0 or 1. -/
def fpOrder (F : Fmt) (x y : Nat) : Option Int :=
  if F.isNan x || F.isNan y then none
  else
    let v (c : Nat) : Int := signed (F.neg c) (F.mag c)
    some (v x - v y).sign

/-- An ordered comparison (R112): 1 or 0; with a NaN only `.ne` holds. -/
def fpCmp (p : Int → Bool) (unordered : Bool) : FpOp := fun F t a b _ =>
  match fpOrder F (opX F t a) (opY F t b) with
  | none => truthV unordered
  | some o => truthV (p o)

/-! ## The three groups (R107, R113) -/

/-- The modes of a floating node's word and block. -/
def ctlOf (f : FmtA) (mode : Word) : FpCtl := ⟨f.mod, rmOf mode (bitsOf f.ext 24 22), modeDN mode⟩

/-- An FP32 node. -/
def fp32A (f : FmtA) (s : State) (op : FpOp) : Outcome :=
  computeA f s 32 fun mode a b c => op f32 (ctlOf f mode) a b c

/-- An FP64 node with a result of `n` bits. -/
def fp64A (f : FmtA) (s : State) (n : Nat) (op : FpOp) : Outcome :=
  computeA f s n fun mode a b c => op f64 (ctlOf f mode) a b c

/-- A packed node: the operation on each half, `spread` making the result of a half (R113). -/
def packedA (f : FmtA) (s : State) (op : FpOp) (spread : Nat → Nat) : Outcome :=
  computeA f s 32 fun mode a b c =>
    let F := if f.ext.getLsbD 21 then fBF else fHF
    let half (x i : Nat) : Nat := x / 2 ^ (16 * i) % 2 ^ 16
    let r (i : Nat) : Nat := spread (op F (ctlOf f mode) (half a i) (half b i) (half c i)) % 2 ^ 16
    r 0 + r 1 * 2 ^ 16

/-! ## The instructions -/

/-- FADD (R108). -/
def execFadd (f : FmtA) (s : State) : Outcome := fp32A f s fpAdd

/-- FSUB (R108). -/
def execFsub (f : FmtA) (s : State) : Outcome := fp32A f s fpSub

/-- FMUL (R108). -/
def execFmul (f : FmtA) (s : State) : Outcome := fp32A f s fpMul

/-- FFMA (R108). -/
def execFfma (f : FmtA) (s : State) : Outcome := fp32A f s fpFma

/-- FMIN (R110). -/
def execFmin (f : FmtA) (s : State) : Outcome := fp32A f s (fpPick true)

/-- FMAX (R110). -/
def execFmax (f : FmtA) (s : State) : Outcome := fp32A f s (fpPick false)

/-- FCLASS (R111). -/
def execFclass (f : FmtA) (s : State) : Outcome := fp32A f s fpClass

/-- FRCP (R108). -/
def execFrcp (f : FmtA) (s : State) : Outcome := fp32A f s (fpUnary rcpRound)

/-- FRSQ (R108). -/
def execFrsq (f : FmtA) (s : State) : Outcome := fp32A f s (fpUnary rsqrtRound)

/-- FSQRT (R108). -/
def execFsqrt (f : FmtA) (s : State) : Outcome := fp32A f s (fpUnary sqrtRound)

/-- FDIV (R108). -/
def execFdiv (f : FmtA) (s : State) : Outcome := fp32A f s fpDiv

/-- FEXP2 (R108). -/
def execFexp2 (f : FmtA) (s : State) : Outcome := fp32A f s (fpUnary exp2Round)

/-- FLOG2 (R108). -/
def execFlog2 (f : FmtA) (s : State) : Outcome := fp32A f s (fpUnary log2Round)

/-- FSIN (R108). -/
def execFsin (f : FmtA) (s : State) : Outcome := fp32A f s (fpUnary sinRound)

/-- FCOS (R108). -/
def execFcos (f : FmtA) (s : State) : Outcome := fp32A f s (fpUnary cosRound)

/-- FTANH (R108). -/
def execFtanh (f : FmtA) (s : State) : Outcome := fp32A f s (fpUnary tanhRound)

/-- FCMP.eq (R112). -/
def execFcmpEq (f : FmtA) (s : State) : Outcome := fp32A f s (fpCmp (· == 0) false)

/-- FCMP.ne (R112). -/
def execFcmpNe (f : FmtA) (s : State) : Outcome := fp32A f s (fpCmp (· != 0) true)

/-- FCMP.lt (R112). -/
def execFcmpLt (f : FmtA) (s : State) : Outcome := fp32A f s (fpCmp (· < 0) false)

/-- FCMP.le (R112). -/
def execFcmpLe (f : FmtA) (s : State) : Outcome := fp32A f s (fpCmp (· ≤ 0) false)

/-- FCMP.gt (R112). -/
def execFcmpGt (f : FmtA) (s : State) : Outcome := fp32A f s (fpCmp (0 < ·) false)

/-- FCMP.ge (R112). -/
def execFcmpGe (f : FmtA) (s : State) : Outcome := fp32A f s (fpCmp (0 ≤ ·) false)

/-- DADD (R108). -/
def execDadd (f : FmtA) (s : State) : Outcome := fp64A f s 64 fpAdd

/-- DMUL (R108). -/
def execDmul (f : FmtA) (s : State) : Outcome := fp64A f s 64 fpMul

/-- DFMA (R108). -/
def execDfma (f : FmtA) (s : State) : Outcome := fp64A f s 64 fpFma

/-- DMIN (R110). -/
def execDmin (f : FmtA) (s : State) : Outcome := fp64A f s 64 (fpPick true)

/-- DMAX (R110). -/
def execDmax (f : FmtA) (s : State) : Outcome := fp64A f s 64 (fpPick false)

/-- DDIV (R108). -/
def execDdiv (f : FmtA) (s : State) : Outcome := fp64A f s 64 fpDiv

/-- DSQRT (R108). -/
def execDsqrt (f : FmtA) (s : State) : Outcome := fp64A f s 64 (fpUnary sqrtRound)

/-- DCMP.eq (R112). -/
def execDcmpEq (f : FmtA) (s : State) : Outcome := fp64A f s 32 (fpCmp (· == 0) false)

/-- DCMP.ne (R112). -/
def execDcmpNe (f : FmtA) (s : State) : Outcome := fp64A f s 32 (fpCmp (· != 0) true)

/-- DCMP.lt (R112). -/
def execDcmpLt (f : FmtA) (s : State) : Outcome := fp64A f s 32 (fpCmp (· < 0) false)

/-- DCMP.le (R112). -/
def execDcmpLe (f : FmtA) (s : State) : Outcome := fp64A f s 32 (fpCmp (· ≤ 0) false)

/-- DCMP.gt (R112). -/
def execDcmpGt (f : FmtA) (s : State) : Outcome := fp64A f s 32 (fpCmp (0 < ·) false)

/-- DCMP.ge (R112). -/
def execDcmpGe (f : FmtA) (s : State) : Outcome := fp64A f s 32 (fpCmp (0 ≤ ·) false)

/-- HADD2 (R113). -/
def execHadd2 (f : FmtA) (s : State) : Outcome := packedA f s fpAdd id

/-- HMUL2 (R113). -/
def execHmul2 (f : FmtA) (s : State) : Outcome := packedA f s fpMul id

/-- HFMA2 (R113). -/
def execHfma2 (f : FmtA) (s : State) : Outcome := packedA f s fpFma id

/-- HMIN2 (R113). -/
def execHmin2 (f : FmtA) (s : State) : Outcome := packedA f s (fpPick true) id

/-- HMAX2 (R113). -/
def execHmax2 (f : FmtA) (s : State) : Outcome := packedA f s (fpPick false) id

/-- HCMP2.eq (R112): 0xFFFF or 0x0000 in each half. -/
def execHcmp2Eq (f : FmtA) (s : State) : Outcome := packedA f s (fpCmp (· == 0) false) (· * 0xFFFF)

/-- HCMP2.ne (R112): 0xFFFF or 0x0000 in each half. -/
def execHcmp2Ne (f : FmtA) (s : State) : Outcome := packedA f s (fpCmp (· != 0) true) (· * 0xFFFF)

/-- HCMP2.lt (R112): 0xFFFF or 0x0000 in each half. -/
def execHcmp2Lt (f : FmtA) (s : State) : Outcome := packedA f s (fpCmp (· < 0) false) (· * 0xFFFF)

/-- HCMP2.le (R112): 0xFFFF or 0x0000 in each half. -/
def execHcmp2Le (f : FmtA) (s : State) : Outcome := packedA f s (fpCmp (· ≤ 0) false) (· * 0xFFFF)

/-- HCMP2.gt (R112): 0xFFFF or 0x0000 in each half. -/
def execHcmp2Gt (f : FmtA) (s : State) : Outcome := packedA f s (fpCmp (0 < ·) false) (· * 0xFFFF)

/-- HCMP2.ge (R112): 0xFFFF or 0x0000 in each half. -/
def execHcmp2Ge (f : FmtA) (s : State) : Outcome := packedA f s (fpCmp (0 ≤ ·) false) (· * 0xFFFF)

end Sys2Proof.Machine
end

