-- ==== Sys2Proof/Machine/Convert.lean ====
section
/-! DEFINITION. The conversion nodes `CVT`, `CVTPK` and `CVTSC` (spec/04_compute_instructions.md R114 to R119). -/

namespace Sys2Proof.Machine

/-! ## Into integers (R116, R119) -/

/-- The least value of an integer format. -/
def intLow (n : Nat) (sg : Bool) : Int := if sg then -(2 ^ (n - 1) : Nat) else 0

/-- num / den with a sign, or ±∞, rounded to an integer and clamped; under `MODE.LRND` bit 0 a value outside the range
gives the minimum (R116, R119). -/
def toInt (n : Nat) (sg legacy : Bool) (rm : Rm) (neg : Bool) (num den : Nat) : Nat :=
  let k : Int := signed neg (roundInt rm neg num den)
  if legacy && satI sg k n != k then wrapI (intLow n sg) n else wrapI (satI sg k n) n

/-- An infinity converted to an integer: outside every range. -/
def infToInt (n : Nat) (sg legacy neg : Bool) : Nat :=
  if legacy || neg then wrapI (intLow n sg) n else if sg then 2 ^ (n - 1) - 1 else 2 ^ n - 1

/-- x converted to an integer (R116); a NaN gives 0, or the minimum under `MODE.LRND` bit 0. -/
def valToInt (n : Nat) (sg legacy : Bool) (rm : Rm) : XVal → Nat
  | .nan => if legacy then wrapI (intLow n sg) n else 0
  | .inf neg => infToInt n sg legacy neg
  | .fin neg m e => toInt n sg legacy rm neg (m * 2 ^ e.toNat) (2 ^ (-e).toNat)

/-! ## Between formats -/

/-- SAT turns an infinity into F.max (R116). -/
def satInf (F : Fmt) (sat : Bool) (r : Nat) : Nat := if sat && F.inf && F.mag r = F.infCode then r - 1 else r

/-- A NaN converted to bf under `MODE.LRND` bit 1 (R119): its sign, the top 7 bits of its fraction, bit 6 set. -/
def legacyNan (S : Fmt) (c : Nat) : Nat :=
  let fr := c % 2 ^ S.m
  let top := if 7 ≤ S.m then fr / 2 ^ (S.m - 7) else fr * 2 ^ (7 - S.m)
  (if S.neg c then 0x8000 else 0) + 0x7F80 + (top ||| 0x40)

/-- The rounding mode of a conversion (R119): into bf it truncates under `MODE.LRND` bit 1. -/
def cvtRm (mode : Word) (rnd dst : Nat) : Rm :=
  if dst = 0x08 && (modeLRND mode).testBit 1 then .rtz else rmOf mode rnd

/-- `cvt` (R116): `a` in the format `src` converted to the format `dst`. -/
def cvtV (mode : Word) (dst src rnd : Nat) (sat : Bool) (a : Nat) : Nat :=
  let rm := cvtRm mode rnd dst
  let dn := modeDN mode
  let legacy := (modeLRND mode).testBit 0
  match intFmt src, fmtOf src, intFmt dst, fmtOf dst with
  | some (n, sg), _, some (k, dg), _ =>
    let v := ival sg a n
    if sat then wrapI (satI dg v k) k else wrapI v k
  | some (n, sg), _, none, some F => satInf F sat (roundFp F rm dn (ofInt (ival sg a n)))
  | none, some S, some (k, dg), _ => valToInt k dg legacy rm (S.value (flushIn S dn (a % (2 * S.sgn))))
  | none, some S, none, some F =>
    let c := flushIn S dn (a % (2 * S.sgn))
    if S.isNan c then (if dst = 0x08 && (modeLRND mode).testBit 1 then legacyNan S c else F.qnan)
    else satInf F sat (roundFp F rm dn (S.value c))
  | _, _, _, _ => 0

/-- CVT (R116). -/
def execCvt (f : FmtA) (s : State) : Outcome :=
  computeA f s (cvtWidth f.mod.toNat) fun mode a _ _ =>
    cvtV mode f.mod.toNat (bitsOf f.ext 20 16) (bitsOf f.ext 24 22) (f.ext.getLsbD 21) a

/-- A field of a word replaced. -/
def setField (x lo n v : Nat) : Nat := x % 2 ^ lo + v % 2 ^ n * 2 ^ lo + x / 2 ^ (lo + n) * 2 ^ (lo + n)

/-- CVTPK (R117). -/
def execCvtpk (f : FmtA) (s : State) : Outcome :=
  computeA f s 32 fun mode a b c =>
    let w := packWidth f.mod.toNat
    let k := bitsOf f.ext 1 0
    let e (x : Nat) : Nat := cvtV mode f.mod.toNat 0x0A (bitsOf f.ext 24 22) (f.ext.getLsbD 21) x
    setField (setField (if f.ext.getLsbD 3 then c else 0) (2 * k * w) w (e a)) ((2 * k + 1) * w) w (e b)

/-- A quotient num / den as `flush_in(·, f32)` leaves it (R116, R118): 0 when it is subnormal in FP32 and `MODE.DN`
flushes sources. -/
def flushQuot (dn num den : Nat) : Nat := if dn % 2 = 1 && num * 2 ^ 126 < den then 0 else num

/-- a / S converted into an element (R118): a NaN or zero scale gives the format's NaN, or 0. The quotient is the source
of `cvt`, so it is flushed in its turn (R116, R119). -/
def intoScaled (mode : Word) (t rnd : Nat) (x sc : XVal) : Nat :=
  let rm := rmOf mode rnd
  let legacy := (modeLRND mode).testBit 0
  match sc with
  | .fin _ n g =>
    if n = 0 then ((fmtOf t).map (·.qnan)).getD 0
    else
      let quot (m : Nat) (e : Int) : Nat :=
        flushQuot (modeDN mode) (m * 2 ^ (e - g).toNat) (n * 2 ^ (g - e).toNat)
      match intFmt t, fmtOf t with
      | some (k, sg), _ =>
        (match x with
         | .fin neg m e => toInt k sg legacy rm neg (quot m e) (n * 2 ^ (g - e).toNat)
         | y => valToInt k sg legacy rm y)
      | none, some F =>
        (match x with
         | .fin neg m e =>
           if quot m e = 0 then roundFp F rm (modeDN mode) (.fin neg 0 0) else divRound F rm (modeDN mode) x sc
         | y => divRound F rm (modeDN mode) y sc)
      | none, none => 0
  | _ => ((fmtOf t).map (·.qnan)).getD 0

/-- An element of a block-scaled word as a source (R118, R119). -/
def elemSource (t dn c : Nat) : XVal :=
  match intFmt t, fmtOf t with
  | none, some F => F.value (flushIn F dn (c % (2 * F.sgn)))
  | _, _ => elemValue t c

/-- CVTSC (R118). -/
def execCvtsc (f : FmtA) (s : State) : Outcome :=
  computeA f s 32 fun mode a b c =>
    let t := f.mod.toNat
    let w := packWidth t
    let k := bitsOf f.ext 2 0
    let rnd := bitsOf f.ext 24 22
    let dn := modeDN mode
    let sc := scaleValue (bitsOf f.ext 20 16) b
    if f.ext.getLsbD 21 then
      roundFp f32 (rmOf mode rnd) dn (mulX (elemSource t dn (a / 2 ^ (k * w) % 2 ^ w)) sc)
    else setField c (k * w) w (intoScaled mode t rnd (f32.value (flushIn f32 dn a)) sc)

end Sys2Proof.Machine
end

