-- ==== Sys2Proof/Machine/CrossLane.lean ====
section
/-! DEFINITION. The cross-lane nodes (spec/04_compute_instructions.md R120 to R123). -/

namespace Sys2Proof.Machine

/-- The performing lanes with their a values. -/
def laneValues (p : List (Nat × LaneOps)) : Assoc Nat := p.map fun (l, o) => (l, tokVal o.a)

/-- A cross-lane node whose result for a lane comes from every performing lane. -/
def crossA (f : FmtA) (s : State) (n : Nat) (g : Word → Assoc Nat → Nat → Nat) : Outcome :=
  atNode s fun s w k x b =>
    let vs := laneValues (performing b k)
    fireLanes s w k x b [f.t0, f.t1] allOps fun l _ => tokOf (n / 32) (g b.mode vs l % 2 ^ n)

/-! ## SHFL (R121) -/

/-- SHFL (R121): T0 receives a(j), T1 the out-of-range flag at the result's width (R96) or a(j). A value that a lane
receives passes unchecked; the others are consumed like b (R95). -/
def shflNode (s : State) (t0 t1 : BitVec 10) (n : Nat) (flg : Bool) (how : Nat) : Outcome :=
  atNode s fun s w k x b =>
    let p := performing b k
    let src (l : Nat) (o : LaneOps) : Nat := shflFrom x b (p.map (·.1)) how l o
    let val (l : Nat) (o : LaneOps) : Tok := ((aget p (src l o)).map (·.a)).getD o.a
    let oor (l : Nat) (o : LaneOps) : Bool :=
      (shflLane x.lanes (modeLSX b.mode) (p.map (·.1)) how l (tokVal o.b % 2 ^ 32)).isNone
    let moved := p.map fun (l, o) => src l o
    let out0 := p.map fun (l, o) => (l, val l o)
    let out1 := p.map fun (l, o) => (l, if flg then tokOf (n / 32) (truthV (oor l o)) else val l o)
    checked s w k x b (p.map fun (l, o) => (l, (if moved.contains l then [] else placed 0 o.a) ++ placed 1 o.b))
      (finishNode s w k b [(t0, byLane out0), (t1, byLane out1)])

/-- SHFL.idx (R121). -/
def execShflIdx (f : FmtA) (s : State) : Outcome := shflNode s f.t0 f.t1 (typeWidth f.mod.toNat) (f.ext.getLsbD 0) 0
/-- SHFL.up (R121). -/
def execShflUp (f : FmtA) (s : State) : Outcome := shflNode s f.t0 f.t1 (typeWidth f.mod.toNat) (f.ext.getLsbD 0) 1
/-- SHFL.down (R121). -/
def execShflDown (f : FmtA) (s : State) : Outcome := shflNode s f.t0 f.t1 (typeWidth f.mod.toNat) (f.ext.getLsbD 0) 2
/-- SHFL.xor (R121). -/
def execShflXor (f : FmtA) (s : State) : Outcome := shflNode s f.t0 f.t1 (typeWidth f.mod.toNat) (f.ext.getLsbD 0) 3
/-- SHFL.idx with an immediate (R121). -/
def execShflIdxI (f : FmtI) (s : State) : Outcome := shflNode s f.t0 f.t1 (typeWidth f.mod.toNat) false 0
/-- SHFL.up with an immediate (R121). -/
def execShflUpI (f : FmtI) (s : State) : Outcome := shflNode s f.t0 f.t1 (typeWidth f.mod.toNat) false 1
/-- SHFL.down with an immediate (R121). -/
def execShflDownI (f : FmtI) (s : State) : Outcome := shflNode s f.t0 f.t1 (typeWidth f.mod.toNat) false 2
/-- SHFL.xor with an immediate (R121). -/
def execShflXorI (f : FmtI) (s : State) : Outcome := shflNode s f.t0 f.t1 (typeWidth f.mod.toNat) false 3

/-! ## Votes and matches (R122) -/

/-- The mask of the lanes whose value passes a test. -/
def laneMask (vs : Assoc Nat) (p : Nat → Bool) : Nat := (vs.map fun (l, v) => if p v then 2 ^ l else 0).sum

/-- BALLOT (R122). -/
def execBallot (f : FmtA) (s : State) : Outcome :=
  crossA f s (typeWidth f.mod.toNat) fun _ vs _ => laneMask vs (· != 0)

/-- VOTE.any (R122). -/
def execVoteAny (f : FmtA) (s : State) : Outcome := crossA f s 32 fun _ vs _ => truthV (vs.any (·.2 != 0))

/-- VOTE.all (R122). -/
def execVoteAll (f : FmtA) (s : State) : Outcome := crossA f s 32 fun _ vs _ => truthV (vs.all (·.2 != 0))

/-- VOTE.uni (R122). -/
def execVoteUni (f : FmtA) (s : State) : Outcome :=
  crossA f s 32 fun _ vs l => truthV (vs.all (·.2 == agetD vs l 0))

/-- MATCH (R122). -/
def execMatchLanes (f : FmtA) (s : State) : Outcome :=
  crossA f s 64 fun _ vs l => laneMask vs (· == agetD vs l 0)

/-! ## REDUX and SCAN (R123) -/

/-- A pairwise operation of R123 on two values of a type: OP 0 add, 1 min, 2 max, 3 and, 4 or, 5 xor. -/
def combine (t op : Nat) (c : FpCtl) (x y : Nat) : Nat :=
  if t = 0x0A then
    if op = 0 then fpAdd f32 c x y 0 else if op = 1 then fpPick true f32 c x y 0 else fpPick false f32 c x y 0
  else
    let g : IntOp := if op = 0 then addV else if op = 1 then minV else if op = 2 then maxV
      else if op = 3 then andV else if op = 4 then orV else xorV
    g (typeSigned t) (typeWidth t) x y 0

/-- A lane's value combined with an absent one (R123): f32 values are canonicalised. -/
def canonLane (t dn v : Nat) : Nat :=
  if t != 0x0A then v
  else if f32.isNan v then f32.qnan
  else if dn != 0 && f32.isSub v then (if f32.neg v then f32.sgn else 0) else v

/-- The identity of an exclusive `SCAN` in its lowest lane (R123). -/
def scanIdentity (t op : Nat) : Nat :=
  let n := typeWidth t
  if t = 0x0A then (if op = 0 then 0x80000000 else if op = 1 then 0x7F800000 else 0xFF800000)
  else if op = 1 then (if typeSigned t then 2 ^ (n - 1) - 1 else 2 ^ n - 1)
  else if op = 2 then (if typeSigned t then 2 ^ (n - 1) else 0)
  else if op = 3 then 2 ^ n - 1 else 0

/-- One level of the f32 tree: neighbours combined; absent with v gives v, and a lane's own value, marked true, is
canonicalised. -/
def reduxPairs (t op : Nat) (c : FpCtl) : List (Option (Nat × Bool)) → List (Option (Nat × Bool))
  | a :: b :: r =>
    let alone (v : Nat × Bool) : Nat × Bool := (if v.2 then canonLane t c.dn v.1 else v.1, false)
    (match a, b with
     | some x, some y => some (combine t op c x.1 y.1, false)
     | some x, none => some (alone x)
     | none, some y => some (alone y)
     | none, none => none) :: reduxPairs t op c r
  | l => l

/-- The tree of R123 over 2^n positions: levels until one value is left. -/
def reduxTree (t op : Nat) (c : FpCtl) : Nat → List (Option (Nat × Bool)) → Option (Nat × Bool)
  | 0, l => (l.head?).join
  | n + 1, l => reduxTree t op c n (reduxPairs t op c l)

/-- The modes of a `REDUX` or `SCAN`. -/
def scanCtl (f : FmtA) (mode : Word) : FpCtl := ⟨0, rmOf mode (bitsOf f.ext 24 22), modeDN mode⟩

/-- REDUX (R123): the integer operations are the same in every order. -/
def execRedux (f : FmtA) (s : State) : Outcome :=
  crossA f s (typeWidth f.mod.toNat) fun mode vs _ =>
    ((reduxTree f.mod.toNat (bitsOf f.ext 2 0) (scanCtl f mode) 6
      ((List.range 64).map fun l => (aget vs l).map fun v => (v, true))).map (·.1)).getD 0

/-- The running combination over the lanes of P below a bound, rounded at each step (R123). -/
def scanTo (t op : Nat) (c : FpCtl) (vs : Assoc Nat) (bound : Nat) : Option Nat :=
  (vs.filter fun p => p.1 < bound).foldl (fun r p => match r with
    | none => some (canonLane t c.dn p.2)
    | some v => some (combine t op c v p.2)) none

/-- SCAN (R123). -/
def execScan (f : FmtA) (s : State) : Outcome :=
  crossA f s (typeWidth f.mod.toNat) fun mode vs l =>
    let op := bitsOf f.ext 2 0
    let bound := if f.ext.getLsbD 3 then l else l + 1
    (scanTo f.mod.toNat op (scanCtl f mode) vs bound).getD (scanIdentity f.mod.toNat op)

end Sys2Proof.Machine
end

