-- ==== Sys2Proof/Machine/MemNode.lean ====
section
/-! DEFINITION. The firing of memory nodes (spec/05_memory_control_instructions.md R125 to R138, R163): addresses,
loads with the view of held stores, and the capture of held and commit operations. What a held or commit operation
does when its block commits stands in Machine/Release.lean. -/

namespace Sys2Proof.Machine

/-! ## Addresses -/

/-- A team that holds nothing: what a warp whose team is gone would use. -/
def noTeam (k : TeamKey) : Team :=
  ⟨k, 0, [], 1, false, 0, 0, 0, 0, 0, 0, 0, 0, 0, [], false, 0, false, 0, 1, false, false, false⟩

/-- A warp's team. -/
def State.teamD (s : State) (w : WarpId) (x : Warp) : Team := (s.team? w.bay x.key).getD (noTeam x.key)

/-- The effective address of a format M node (R75): the sum is taken modulo 2^64, which neither R75 nor Table 5.3 says
(DESIGN CHOICE, notes/assumptions/20.md), so a sum that wraps is bounds-checked as the wrapped address. -/
def effAddr (a : Tok) (ofs : BitVec 20) : Double := BitVec.ofNat 64 (tokVal a) + sextD ofs

/-- Every lane's address resolved, or the lowest failing lane's failure with all the lanes that fail alike (R127). -/
def resolveLanes (s : State) (w : WarpId) (x : Warp) (space n : Nat) (need : Need) (ls : List (Nat × Double)) :
    Except (List Nat × Double × AddrFail) (List (Nat × Double × Loc)) :=
  let t := s.teamD w x
  let rs := ls.map fun (l, va) => (l, va, s.resolve w t x l space va n need)
  let fails := rs.filterMap fun (l, va, r) => match r with | .error f => some (l, va, f) | .ok _ => none
  match fails with
  | [] => .ok (rs.filterMap fun (l, va, r) => match r with | .ok p => some (l, va, p) | .error _ => none)
  | (_, va, f) :: _ => .error ((fails.filter fun q => q.2.2 = f).map (·.1), va, f)

/-- A node with lane addresses: operands are checked, addresses resolved, and the node goes on with them (R127). -/
def withAddrs (s : State) (w : WarpId) (k : Nat) (x : Warp) (b : Blk) (ofs : BitVec 20) (space n : Nat) (need : Need)
    (acc : Access) (go : List (Nat × LaneOps × Double × Loc) → State) : State :=
  let p := performing b k
  let words := p.map fun (l, o) => (l, allOps o)
  let ok : State :=
    match resolveLanes s w x space n need (p.map fun (l, o) => (l, effAddr o.a ofs)) with
    | .error (lanes, va, f) => s.addrFault w (some k) (maskOf lanes) space va acc f
    | .ok rs => go (rs.filterMap fun (l, va, loc) => (aget p l).map fun o => (l, o, va, loc))
  checked s w k x b words ok

/-! ## Loads -/

/-- The location of the word that holds a byte's location. -/
def Loc.align : Loc → Loc
  | .phys pa => .phys (pa / 4 * 4)
  | .pad b o => .pad b (o / 4 * 4)
  | .remote p pa => .remote p (pa / 4 * 4)

/-- The sub-word merge of a store of n bytes (1 or 2) at a location: byte mask, bytes in position, contribution
(R256). -/
def subStore (l : Loc) (n : Nat) (v : Word) : BitVec 4 × Word × Byte :=
  let sh := l.addr % 4
  let m : BitVec 4 := (if n = 1 then 1 else 3) <<< sh
  let d := (v <<< (8 * sh)) &&& byteMask m
  (m, d, lcc d)

/-- One lane's held store applied to the word at a location, if it stores there (R126). -/
def applyHeld (space width : Nat) (l : Loc) (h : HeldLane) (old : W40) : W40 :=
  match h.loc with
  | none => old
  | some p =>
    if width ≤ 1 then
      if p.align = l then
        let (m, d, c) := subStore p (2 ^ width) (wordAt h.b 0)
        mergeWord old m d c
      else old
    else
      (List.range (2 ^ width / 4)).foldl (fun v i => if wordLoc space p i = l then fresh (wordAt h.b i) else v) old

/-- Held operations in rising LSID order. -/
def sortHeld (hs : List HeldOp) : List HeldOp := (List.range 65).flatMap fun i => hs.filter (·.lsid = i)

/-- A word as a read of an LSID sees it: memory under the block's held stores of lower LSID, in LSID and lane order,
so that the highest of them wins (R126). -/
def heldView (b : Blk) (lsid : Nat) (l : Loc) (old : W40) : W40 :=
  (sortHeld (b.held.filter (·.lsid < lsid))).foldl (fun v h =>
    match nodeAt b.words h.node with
    | (o, .m f) =>
      if o = 0x121 then h.lanes.foldl (fun u hl => applyHeld f.space.toNat (bitsOf f.mod 3 0) l hl u) v else v
    | _ => v) old

/-- A lane's words loaded under the held stores. -/
def loadLane (s : State) (w : WarpId) (b : Blk) (lsid space cache : Nat) (l : Loc) (n : Nat) : State × List W40 :=
  let (s1, ws) := s.loadWords w space cache l n 0
  (s1, ws.zipIdx.map fun (v, i) => heldView b lsid (wordLoc space l i) v)

/-- The value that a load narrower than a word delivers (R134). -/
def narrowLoad (width : Nat) (sx : Bool) (l : Loc) (v : Word) : Tok :=
  let n := 8 * 2 ^ width
  let x := (v >>> (8 * (l.addr % 4))).toNat % 2 ^ n
  tokOf 1 (if sx then wrapI (sval x n) 32 else x)

/-- Every lane's load, in rising lane order: the state with its L1 effects, and each lane's words. -/
def loadLanes (s : State) (w : WarpId) (b : Blk) (f : FmtM) : List (Nat × LaneOps × Double × Loc) →
    State × List (Nat × Double × Loc × List W40)
  | [] => (s, [])
  | (l, _, va, loc) :: r =>
    let width := bitsOf f.mod 3 0
    let (s1, ws) := loadLane s w b f.lsid.toNat f.space.toNat f.cache.toNat
      (if width ≤ 1 then loc.align else loc) (if width ≤ 1 then 1 else 2 ^ width / 4)
    let (s2, vs) := loadLanes s1 w b f r
    (s2, (l, va, loc, ws) :: vs)

/-- The first loaded word that fails its check, with its lane and address (R134). -/
def badLoad (vs : List (Nat × Double × Loc × List W40)) : Option (Nat × Nat × W40) :=
  vs.findSome? fun (l, va, _, ws) => (ws.zipIdx.find? fun v => !good v.1).map fun (v, i) =>
    (l, va.toNat / 4 * 4 + 4 * i, v)

/-- The lanes whose loads hold the word at an address. -/
def badLanes (a : Nat) (vs : List (Nat × Double × Loc × List W40)) : Mask :=
  maskOf ((vs.filter fun (_, va, _, ws) => va.toNat / 4 * 4 ≤ a && a < va.toNat / 4 * 4 + 4 * ws.length).map (·.1))

/-- The word locations that loads have read, for the region rule of R57. -/
def readLocs (space : Nat) (vs : List (Nat × Double × Loc × List W40)) : List Loc :=
  vs.flatMap fun (_, _, loc, ws) => (List.range ws.length).map fun i => (wordLoc space loc i).align

/-- A word that a load reads must wait (R247, R256): an engine will write its line, or a sub-word merge of the same
warp to the word has not reached its stage. -/
def wordBlocked (s : State) (w : WarpId) (l : Loc) : Bool :=
  s.loadHeld w.bay l || s.merges.any fun m => m.warp = w && m.loc.align = l.align

/-- A load must wait for some word of some lane. -/
def loadBlocked (f : FmtM) (s : State) : Bool :=
  match s.cur with
  | .node w k =>
    match s.warp? w with
    | none => false
    | some x =>
      match x.blk with
      | none => false
      | some b =>
        let n := 2 ^ bitsOf f.mod 3 0
        match resolveLanes s w x f.space.toNat n (accNeed .read)
            ((performing b k).map fun (l, o) => (l, effAddr o.a f.ofs)) with
        | .error _ => false
        | .ok ls => ls.any fun (_, _, loc) =>
            (List.range (max 1 (n / 4))).any fun i => wordBlocked s w (wordLoc f.space.toNat loc i)
  | _ => false

/-- LD (R134): not enabled while a word that it reads must wait. -/
def execLd (f : FmtM) (s : State) : Outcome :=
  if loadBlocked f s then .fault .notEnabled
  else atNode s fun s w k x b =>
    let width := bitsOf f.mod 3 0
    let space := f.space.toNat
    withAddrs s w k x b f.ofs space (2 ^ width) (accNeed .read) .read fun ls =>
      let (s1, vs) := loadLanes s w b f ls
      match badLoad vs with
      | some (_, a, v) => s1.consumed w (.mem space a) v (some k) (badLanes a vs)
      | none =>
        let toks := vs.map fun (l, _, loc, ws) =>
          (l, if width ≤ 1 then narrowLoad width (f.mod.getLsbD 4) loc (wordAt ws 0) else ws)
        let s2 := finishNode s1 w k { b with reads := b.reads ++ readLocs space vs } [(f.t0, byLane toks)]
        if f.order.getLsbD 0 && !ls.isEmpty then s2.acquire w.bay f.scope.toNat else s2

/-! ## Held memory operations -/

/-- The held lanes of a node with addresses. -/
def heldLanes (ls : List (Nat × LaneOps × Double × Loc)) : List HeldLane :=
  ls.map fun (l, o, va, loc) => ⟨l, o.a, o.b, o.c, va, some loc⟩

/-- A held memory operation fired: addresses resolved, operands captured until commit (R127). -/
def holdMem (f : FmtM) (s : State) (n : Nat) (need : Need) (acc : Access) : Outcome :=
  atNode s fun s w k x b =>
    withAddrs s w k x b f.ofs f.space.toNat n need acc fun ls => holdOp s w k f.lsid.toNat b (heldLanes ls)

/-- ST (R134): released at commit. -/
def execSt (f : FmtM) (s : State) : Outcome := holdMem f s (2 ^ bitsOf f.mod 3 0) (accNeed .write) .write

/-- CWB (R138): released at commit. -/
def execCwb (f : FmtM) (s : State) : Outcome := holdMem f s 1 ⟨0, false⟩ .read

/-- CINV (R138): released at commit. -/
def execCinv (f : FmtM) (s : State) : Outcome := holdMem f s 1 ⟨0, false⟩ .read

/-- PREF (R135): the translation is taken at firing (R127), and a lane whose line cannot be had holds none. A remote page
is the permission fault of R363, which names `PREF` (DEDUCED, notes/assumptions/20.md). -/
def execPref (f : FmtM) (s : State) : Outcome :=
  atNode s fun s w k x b =>
    let p := performing b k
    let c := s.ctxOf w
    let remote := p.filter fun q => s.remotePage c (effAddr q.2.a f.ofs)
    let hold (l : Nat) (o : LaneOps) : HeldLane :=
      let va := effAddr o.a f.ofs
      let loc := if !canonical va then none else
        match s.translate c va (accNeed .read) with | .ok p => some p | .error _ => none
      ⟨l, o.a, o.b, o.c, va, loc⟩
    checked s w k x b (p.map fun (l, o) => (l, allOps o))
      (match remote with
       | (_, o) :: _ => s.addrFault w (some k) (maskOf (remote.map (·.1))) 0 (effAddr o.a f.ofs) .read (.walk ⟨0x02, 0, 0, 0, none⟩)
       | [] => holdOp (p.foldl (fun t (_, o) => t.listMiss c (effAddr o.a f.ofs) (accNeed .read)) s) w k f.lsid.toNat b
           (p.map fun (l, o) => hold l o))

/-- FENCE (R138): the acquire part now, the release part held. -/
def execFence (f : FmtM) (s : State) : Outcome :=
  atNode s fun s w k _ b =>
    let p := performing b k
    let s1 := if f.order.getLsbD 0 && !p.isEmpty then s.acquire w.bay f.scope.toNat else s
    holdOp s1 w k f.lsid.toNat b
      (if f.order.getLsbD 1 then p.map fun (l, _) => ⟨l, [], [], [], 0, none⟩ else [])

/-! ## Atomics and reductions -/

/-- A commit operation fired: operands are checked and captured; it is performed at commit (R39). -/
def captureCop (s : State) (w : WarpId) (k lsid : Nat) (x : Warp) (b : Blk) (ofs : BitVec 20) : State :=
  let p := performing b k
  checked s w k x b (p.map fun (l, o) => (l, allOps o))
    (s.putBlk w (({ b with cop := some ⟨k, lsid, p.map fun (l, o) => ⟨l, o.a, o.b, o.c, effAddr o.a ofs, none⟩⟩ } :
      Blk).fire k))

/-- An `ATOM` node fires (R136, R39). -/
def atomNode (f : FmtM) (s : State) : Outcome :=
  atNode s fun s w k x b => captureCop s w k f.lsid.toNat x b f.ofs

/-- A `RED` node fires: a reduction needs W only (Table 16.7), and its record names an atomic access. -/
def redNode (f : FmtM) (s : State) : Outcome := holdMem f s (typeWidth f.mod.toNat / 8) redNeed .atomic

/-- The width in bytes of an atomic type. -/
def atomBytes (f : FmtM) : Nat := typeWidth f.mod.toNat / 8

/-- ATOM.add (R136). -/
def execAtomAdd (f : FmtM) (s : State) : Outcome := atomNode f s
/-- ATOM.min (R136). -/
def execAtomMin (f : FmtM) (s : State) : Outcome := atomNode f s
/-- ATOM.max (R136). -/
def execAtomMax (f : FmtM) (s : State) : Outcome := atomNode f s
/-- ATOM.and (R136). -/
def execAtomAnd (f : FmtM) (s : State) : Outcome := atomNode f s
/-- ATOM.or (R136). -/
def execAtomOr (f : FmtM) (s : State) : Outcome := atomNode f s
/-- ATOM.xor (R136). -/
def execAtomXor (f : FmtM) (s : State) : Outcome := atomNode f s
/-- ATOM.exch (R136). -/
def execAtomExch (f : FmtM) (s : State) : Outcome := atomNode f s
/-- ATOM.cas (R136). -/
def execAtomCas (f : FmtM) (s : State) : Outcome := atomNode f s
/-- ATOM.inc (R136). -/
def execAtomInc (f : FmtM) (s : State) : Outcome := atomNode f s
/-- ATOM.dec (R136). -/
def execAtomDec (f : FmtM) (s : State) : Outcome := atomNode f s
/-- ATOM.fadd (R136). -/
def execAtomFadd (f : FmtM) (s : State) : Outcome := atomNode f s
/-- ATOM.bfadd2 (R136). -/
def execAtomBfadd2 (f : FmtM) (s : State) : Outcome := atomNode f s
/-- RED.add (R136). -/
def execRedAdd (f : FmtM) (s : State) : Outcome := redNode f s
/-- RED.min (R136). -/
def execRedMin (f : FmtM) (s : State) : Outcome := redNode f s
/-- RED.max (R136). -/
def execRedMax (f : FmtM) (s : State) : Outcome := redNode f s
/-- RED.and (R136). -/
def execRedAnd (f : FmtM) (s : State) : Outcome := redNode f s
/-- RED.or (R136). -/
def execRedOr (f : FmtM) (s : State) : Outcome := redNode f s
/-- RED.xor (R136). -/
def execRedXor (f : FmtM) (s : State) : Outcome := redNode f s
/-- RED.inc (R136). -/
def execRedInc (f : FmtM) (s : State) : Outcome := redNode f s
/-- RED.dec (R136). -/
def execRedDec (f : FmtM) (s : State) : Outcome := redNode f s
/-- RED.fadd (R136). -/
def execRedFadd (f : FmtM) (s : State) : Outcome := redNode f s
/-- RED.bfadd2 (R136). -/
def execRedBfadd2 (f : FmtM) (s : State) : Outcome := redNode f s

/-- The new value of an atomic operation (Table 5.4), by the number of `atomOp`; `old`, `v` and `c` are patterns of
the type's width. -/
def atomNew (op t old v c : Nat) : Nat :=
  let n := typeWidth t
  let sg := typeSigned t
  if op = 0 then addV sg n old v 0 else if op = 1 then minV sg n old v 0 else if op = 2 then maxV sg n old v 0
  else if op = 3 then andV sg n old v 0 else if op = 4 then orV sg n old v 0 else if op = 5 then xorV sg n old v 0
  else if op = 6 then v else if op = 7 then (if old = v then c else old)
  else if op = 8 then (if v ≤ old then 0 else old + 1)
  else if op = 9 then (if old = 0 || v < old then v else old - 1)
  else if op = 10 then roundFp f32 .rne 0 (addX .rne (f32.value old) (f32.value v))
  else
    let half (i : Nat) : Nat := roundFp fBF .rne 0
      (addX .rne (fBF.value (old / 2 ^ (16 * i) % 2 ^ 16)) (fBF.value (v / 2 ^ (16 * i) % 2 ^ 16)))
    half 0 + half 1 * 2 ^ 16

end Sys2Proof.Machine
end

