-- ==== Sys2Proof/Machine/EngineNode.lean ====
section
/-! DEFINITION. The firing of format E nodes: barriers, events, waits, mailboxes, the copy engine, truss commands, the
matrix engine, launch, lease and system instructions (spec/05_memory_control_instructions.md R139 to R163,
spec/06_numbers_and_matrix_engine.md R186 to R194). What a held or commit operation does when its block commits stands
in Machine/Release.lean and Machine/Perform.lean. -/

namespace Sys2Proof.Machine

/-! ## Warp-level nodes (R125) -/

/-- The held lanes of a warp-level operation: every performing lane, with the operands of the lowest one. -/
def warpHeld (p : List (Nat × LaneOps)) (va : Double) (loc : Option Loc) : List HeldLane :=
  match p with
  | [] => []
  | (_, o) :: _ => p.map fun (l, _) => ⟨l, o.a, o.b, o.c, va, loc⟩

/-- A warp-level held operation with a test of its operands at firing: `go` answers the fault that the test finds, or
the address that is held (R127). With P empty it has no effect (R163). -/
def heldE (f : FmtE) (s : State)
    (go : State → WarpId → Nat → Warp → List (Nat × LaneOps) → LaneOps → Except State (Double × Option Loc)) :
    Outcome :=
  atNode s fun s w k x b =>
    let p := performing b k
    match p with
    | [] => holdOp s w k f.lsid.toNat b []
    | (_, o) :: _ =>
      checked s w k x b (warpWords p)
        (match go s w k x p o with
         | .error t => t
         | .ok (va, loc) => holdOp s w k f.lsid.toNat b (warpHeld p va loc))

/-- A warp-level held operation that nothing tests at firing. -/
def plainHeld (f : FmtE) (s : State) : Outcome := heldE f s fun _ _ _ _ _ o => .ok (BitVec.ofNat 64 (tokVal o.a), none)

/-- A read-class node that delivers one value to every performing lane: `go` answers the state after the read and the
token (R125). -/
def readE (f : FmtE) (s : State) (go : State → WarpId → Warp → State × Tok) : Outcome :=
  atNode s fun s w k x b =>
    let p := performing b k
    if p.isEmpty then finishNode s w k b [(f.t0, fun _ => none)]
    else
      let (s1, t) := go s w x
      finishNode s1 w k b [(f.t0, byLane (p.map fun (l, _) => (l, t)))]

/-- The mask of performing lanes. -/
def lanesP (p : List (Nat × LaneOps)) : Mask := maskOf (p.map (·.1))

/-- The number in a node's resource index. -/
def resNum (f : FmtE) : Nat := f.res.toNat

/-! ## Barriers (R139 to R143) -/

/-- A team's handle k (Table 5.6). -/
def handleOf (t : Team) (k : Nat) : Double := agetD t.nb k 0

/-- The space of a handle. -/
def handleSpace (h : Double) : Nat := bitsOf h 62 60

/-- The address of a handle: sign-extended for `.gbl`. -/
def handleAddr (h : Double) : Double :=
  if handleSpace h = 0 then sextD (h.extractLsb' 0 57) else (h.extractLsb' 0 57).setWidth 64

/-- The handle of a bound record (Table 5.6). -/
def mkHandle (space : Nat) (cnt : Bool) (a : Double) : Double :=
  BitVec.ofNat 64 (2 ^ 63 + space * 2 ^ 60 + (if cnt then 2 ^ 59 else 0) + a.toNat % 2 ^ 57)

/-- A firing that names an unbound handle faults (R143). -/
def boundHandle (s : State) (w : WarpId) (k : Nat) (x : Warp) (nb : Nat) (lanes : Mask) : Except State Double :=
  let h := handleOf (s.teamD w x) nb
  if h.getLsbD 63 then .ok h else .error (s.progFault w 0x0B (some k) lanes)

/-- A record's location in a space, 16-aligned, or its fault at firing (R132, R141, R143). -/
def recordLoc (s : State) (w : WarpId) (k : Nat) (x : Warp) (lanes : Mask) (space : Nat) (a : Double) (need : Need)
    (acc : Access) : Except State Loc :=
  match s.resolve w (s.teamD w x) x 0 space a 16 need with
  | .ok l => .ok l
  | .error f => .error (s.addrFault w (some k) lanes space a acc f)

/-- BINIT (R141): the record and the handle are written at release. -/
def execBinit (f : FmtE) (s : State) : Outcome :=
  heldE f s fun s w k x p o =>
    let a := BitVec.ofNat 64 (tokVal o.a)
    (recordLoc s w k x (lanesP p) (bitsOf f.imm 2 0) a ⟨2, false⟩ .write).map fun l => (a, some l)

/-- BBIND (R141): the handle is written at release. -/
def execBbind (f : FmtE) (s : State) : Outcome :=
  heldE f s fun s w k x p o =>
    let a := BitVec.ofNat 64 (tokVal o.a)
    (recordLoc s w k x (lanesP p) (bitsOf f.imm 2 0) a (accNeed .read) .read).map fun l => (a, some l)

/-- BRET (R141, R143). -/
def execBret (f : FmtE) (s : State) : Outcome :=
  heldE f s fun s w k x p _ => (boundHandle s w k x (resNum f) (lanesP p)).map fun h => (h, none)

/-- A barrier update fires: the handle's address is translated now, and the release uses it (R143). -/
def barrierUpdate (f : FmtE) (s : State) : Outcome :=
  heldE f s fun s w k x p _ =>
    match boundHandle s w k x (resNum f) (lanesP p) with
    | .error t => .error t
    | .ok h => (recordLoc s w k x (lanesP p) (handleSpace h) (handleAddr h) (accNeed .atomic) .atomic).map fun l =>
        (h, some l)

/-- BARV (R141). -/
def execBarv (f : FmtE) (s : State) : Outcome := barrierUpdate f s
/-- BARX (R141). -/
def execBarx (f : FmtE) (s : State) : Outcome := barrierUpdate f s

/-- A barrier read must wait for some word of its record, as a load must (R180, R256). -/
def barrierBlocked (f : FmtE) (s : State) : Bool :=
  match s.cur with
  | .node w k =>
    match s.warp? w with
    | none => false
    | some x =>
      match x.blk with
      | none => false
      | some b =>
        let h := handleOf (s.teamD w x) (resNum f)
        !(performing b k).isEmpty && h.getLsbD 63 &&
          (match s.resolve w (s.teamD w x) x 0 (handleSpace h) (handleAddr h) 16 (accNeed .read) with
           | .ok l => (List.range 4).any fun i => wordBlocked s w (l.add (4 * i))
           | .error _ => false)
  | _ => false

/-- The record that a barrier read names, taken home: the bay's own dirty bytes of its line are written back and the copy
is stale, so that the read follows the warp's earlier stores and no later load goes back behind it (R238, R241, R242). -/
def barHome (s : State) (w : WarpId) (l : Loc) : State :=
  match l with
  | .phys pa => if pa < Config.loftBase then s.staleLine w.bay (pa / 128) else s
  | _ => s

/-- A barrier read: the handle is bound, the record's first `n` words are read at its home under the block's held
stores and checked, and each lane receives its result (R126, R141). `fin` acts after the delivery. -/
def barrierRead (f : FmtE) (s : State) (n : Nat) (result : List W40 → LaneOps → Tok)
    (fin : State → WarpId → List (Nat × Tok) → State) : Outcome :=
  if barrierBlocked f s then .fault .notEnabled
  else atNode s fun s w k x b =>
    let p := performing b k
    let read : State :=
      match boundHandle s w k x (resNum f) (lanesP p) with
      | .error t => t
      | .ok h =>
        match recordLoc s w k x (lanesP p) (handleSpace h) (handleAddr h) (accNeed .read) .read with
        | .error t => t
        | .ok l =>
          let s1 := barHome s w l
          let ws := (List.range n).map fun i => heldView b f.lsid.toNat (l.add (4 * i)) (s1.homeWord (l.add (4 * i)))
          match ws.zipIdx.find? fun v => !good v.1 with
          | some (v, i) => s1.consumed w (.mem (handleSpace h) ((handleAddr h).toNat + 4 * i)) v (some k) (lanesP p)
          | none =>
            let r := p.map fun (q, o) => (q, result ws o)
            let reads := (List.range n).map fun i => l.add (4 * i)
            fin (finishNode s1 w k { b with reads := b.reads ++ reads } [(f.t0, byLane r)]) w r
    if p.isEmpty then finishNode s w k b [(f.t0, fun _ => none)]
    else checked s w k x b (p.map fun (l, o) => (l, placed 0 o.a)) read

/-- An acquire by a test that delivered 1 (R141). -/
def acquireIfOne (f : FmtE) (s : State) (w : WarpId) (r : List (Nat × Tok)) : State :=
  if r.any fun p => tokVal p.2 = 1 then s.acquire w.bay (bitsOf f.imm 2 0) else s

/-- BGEN (R141, R142). -/
def execBgen (f : FmtE) (s : State) : Outcome :=
  barrierRead f s 1 (fun ws o => tokOf 1 (truthV ((wordAt ws 0).toNat != tokVal o.a))) (acquireIfOne f)

/-- BPAR (R141, R142). -/
def execBpar (f : FmtE) (s : State) : Outcome :=
  barrierRead f s 1 (fun ws o => tokOf 1 (truthV ((wordAt ws 0).getLsbD 0 != (tokVal o.a).testBit 0)))
    (acquireIfOne f)

/-- BSTAT (R141): the record with its stored codes. -/
def execBstat (f : FmtE) (s : State) : Outcome := barrierRead f s 4 (fun ws _ => ws) fun s _ _ => s

/-! ## Events and waits (R144 to R149) -/

/-- A block address that R129 accepts. -/
def targetAddrOk (a : Double) : Bool := a.extractLsb' 0 3 == 0 && canonical a

/-- A mailbox that the warp's team does not own faults (R153). -/
def ownMailbox (s : State) (w : WarpId) (k : Nat) (x : Warp) (m : Nat) (lanes : Mask) : Except State Unit :=
  if (agetD (s.bay w.bay).mbox m .reset).owner = some x.key then .ok () else .error (s.progFault w 0x0C (some k) lanes)

/-- EVBIND (R145): a handler address that breaks R129 faults, and so does a mailbox of another team (R153). -/
def execEvbind (f : FmtE) (s : State) : Outcome :=
  heldE f s fun s w k x p o =>
    let a := BitVec.ofNat 64 (tokVal o.a)
    if !targetAddrOk a then .error (s.progFault w 0x09 (some k) (lanesP p))
    else if f.mod = 2 then (ownMailbox s w k x (bitsOf f.imm 3 0) (lanesP p)).map fun _ => (a, none)
    else .ok (a, none)

/-- EVUNB (R145). -/
def execEvunb (f : FmtE) (s : State) : Outcome := plainHeld f s
/-- EVMASK.set (R145). -/
def execEvmaskSet (f : FmtE) (s : State) : Outcome := plainHeld f s
/-- EVMASK.clr (R145). -/
def execEvmaskClr (f : FmtE) (s : State) : Outcome := plainHeld f s
/-- EVMASK.wr (R145). -/
def execEvmaskWr (f : FmtE) (s : State) : Outcome := plainHeld f s
/-- EVPOST (R145). -/
def execEvpost (f : FmtE) (s : State) : Outcome := plainHeld f s
/-- EVCLR (R145). -/
def execEvclr (f : FmtE) (s : State) : Outcome := plainHeld f s

/-- A wait fired: what it waits on is kept until the block's boundary (R125, R147). -/
def keepWait (s : State) (w : WarpId) (k lsid : Nat) (b : Blk) (lanes : List HeldLane) : State :=
  s.putBlk w (({ b with waits := b.waits ++ [⟨k, lsid, lanes⟩] } : Blk).fire k)

/-- WAITANY (R147): evaluated at the block's boundary. -/
def execWaitany (f : FmtE) (s : State) : Outcome :=
  atNode s fun s w k _ b =>
    keepWait s w k f.lsid.toNat b ((performing b k).map fun (l, _) => ⟨l, [], [], [], 0, none⟩)

/-- WAITADDR (R149): the word's address is translated at firing, and the wait is evaluated at the block's
boundary. -/
def execWaitaddr (f : FmtE) (s : State) : Outcome :=
  atNode s fun s w k x b =>
    let p := performing b k
    match p with
    | [] => keepWait s w k f.lsid.toNat b []
    | (_, o) :: _ =>
      let a := BitVec.ofNat 64 (tokVal o.a)
      let sp := bitsOf f.imm 2 0
      checked s w k x b (warpWords p)
        (match s.resolve w (s.teamD w x) x 0 sp a 4 (accNeed .read) with
         | .error e => s.addrFault w (some k) (lanesP p) sp a .read e
         | .ok l => keepWait s w k f.lsid.toNat b (warpHeld p a (some l)))

/-! ## Mailboxes (R150 to R153) -/

/-- SEND (R152): a commit operation. -/
def execSend (f : FmtE) (s : State) : Outcome :=
  atNode s fun s w k x b => captureCop s w k f.lsid.toNat x b 0

/-- TRYRECV (R153): a commit operation on a mailbox that its team owns. -/
def execTryrecv (f : FmtE) (s : State) : Outcome :=
  atNode s fun s w k x b =>
    let p := performing b k
    if p.isEmpty then captureCop s w k f.lsid.toNat x b 0
    else
      match ownMailbox s w k x (resNum f) (lanesP p) with
      | .error t => t
      | .ok _ => captureCop s w k f.lsid.toNat x b 0

/-- A status read that clears a bit as it delivers it, in the state with the bit cleared: the block notes a bit that was
set, so that its discard, by a conflict at a target too, sets it again (R41). -/
def readClearing (f : FmtE) (s : State) (w : WarpId) (k : Nat) (b : Blk) (p : List (Nat × LaneOps)) (set : Bool)
    (c : Cleared) (v : Nat) : State :=
  let b1 := b.clears set c
  finishNode (s.putBlk w b1) w k b1 [(f.t0, byLane (p.map fun (l, _) => (l, tokOf 1 v)))]

/-- MBSTAT (R151): reading clears the refusal bit. -/
def execMbstat (f : FmtE) (s : State) : Outcome :=
  atNode s fun s w k x b =>
    let p := performing b k
    if p.isEmpty then finishNode s w k b [(f.t0, fun _ => none)]
    else
      match ownMailbox s w k x (resNum f) (lanesP p) with
      | .error t => t
      | .ok _ =>
        let mb := agetD (s.bay w.bay).mbox (resNum f) .reset
        let v := (mb.msgs.length + mb.spillCount) % 2 ^ 16 + (if mb.spillCount != 0 then 2 ^ 16 else 0) +
          (if mb.refused then 2 ^ 17 else 0)
        let s1 := s.modBay w.bay fun y => { y with mbox := aset y.mbox (resNum f) { mb with refused := false } }
        readClearing f s1 w k b p mb.refused (.mbox (resNum f)) v

/-! ## The copy engine (R156) -/

/-- CPKICK (R156): the chain enters the kick queue at release. -/
def execCpkick (f : FmtE) (s : State) : Outcome := plainHeld f s

/-- The value of `CPSTAT` (R156): the team's own kicks queued, its requests in progress, its error. -/
def cpstatValue (s : State) (w : WarpId) (x : Warp) : Nat :=
  let y := s.bay w.bay
  let queued := (y.kicks.filter fun c => c.key = x.key && !c.started).length
  let running := (y.copies.filter fun c => c.kick.key = x.key).length
  min queued 255 + min running 255 * 2 ^ 8 + (if (s.teamD w x).cpErr then 2 ^ 16 else 0)

/-- CPSTAT (R156): the team's own kicks and requests; reading clears the error bit. -/
def execCpstat (f : FmtE) (s : State) : Outcome :=
  atNode s fun s w k x b =>
    let p := performing b k
    if p.isEmpty then finishNode s w k b [(f.t0, fun _ => none)]
    else
      let v := cpstatValue s w x
      let s1 := s.modTeam w.bay x.key fun t => { t with cpErr := false }
      readClearing f s1 w k b p (s.teamD w x).cpErr .copy v

/-! ## Truss commands (R158) -/

/-- A region that the kernel does not declare faults (R158). -/
def declaredRegion (s : State) (w : WarpId) (k : Nat) (x : Warp) (r : Nat) (lanes : Mask) : Except State Region :=
  match (s.bay w.bay).teamRegion x.key r with
  | some g => .ok g
  | none => .error (s.progFault w 0x0F (some k) lanes)

/-- A truss command whose region is declared. -/
def trussHeld (f : FmtE) (s : State) : Outcome :=
  heldE f s fun s w k x p o =>
    (declaredRegion s w k x (bitsOf f.imm 3 0) (lanesP p)).map fun _ => (BitVec.ofNat 64 (tokVal o.a), none)

/-- STRBIND (R158, R214). -/
def execStrbind (f : FmtE) (s : State) : Outcome := trussHeld f s
/-- TSTART (R158). -/
def execTstart (f : FmtE) (s : State) : Outcome := trussHeld f s
/-- TSTOP (R158). -/
def execTstop (f : FmtE) (s : State) : Outcome := trussHeld f s

/-- TLOAD (R158): the image is 32-aligned (R217), and its first line is translated at firing (R220). -/
def execTload (f : FmtE) (s : State) : Outcome :=
  heldE f s fun s w k x p o =>
    let a := BitVec.ofNat 64 (tokVal o.a)
    match declaredRegion s w k x (bitsOf f.imm 3 0) (lanesP p) with
    | .error t => .error t
    | .ok _ =>
      match s.resolve w (s.teamD w x) x 0 0 a 32 (accNeed .read) with
      | .error e => .error (s.addrFault w (some k) (lanesP p) 0 a .read e)
      | .ok l => .ok (a, some l)

/-- TSTAT of a region (Table 5.13). -/
def regionStat (g : Region) : Nat :=
  (if g.loaded then 1 else 0) + (if g.running then 2 else 0) + (if g.quiet then 4 else 0) +
    (if g.faulted then 8 else 0) + min g.errs 255 * 2 ^ 8

/-- TSTAT (R158). -/
def execTstat (f : FmtE) (s : State) : Outcome :=
  atNode s fun s w k x b =>
    let p := performing b k
    if p.isEmpty then finishNode s w k b [(f.t0, fun _ => none)]
    else
      match declaredRegion s w k x (bitsOf f.imm 3 0) (lanesP p) with
      | .error t => t
      | .ok g => finishNode s w k b [(f.t0, byLane (p.map fun (l, _) => (l, tokOf 1 (regionStat g))))]

/-! ## The matrix engine (R177, R186 to R194) -/

/-- A firing by a team that does not own the engine faults (R177). -/
def ownsMatrix (s : State) (w : WarpId) (k : Nat) (x : Warp) (lanes : Mask) : Except State Unit :=
  if (s.bay w.bay).mx.owner = some x.key then .ok () else .error (s.progFault w 0x0D (some k) lanes)

/-- Extents of a matrix command in the team's allocation: offset, bytes, alignment. -/
abbrev Extent := Nat × Nat × Nat

/-- Rows of a command (Table 6.7). -/
def mxRows (f : FmtE) : Nat := bitsOf f.imm 5 0 + 1

/-- The bytes of a row of `ACCRD` and `ACCLD` (Table 6.8). -/
def accRowBytes (t : Nat) : Nat :=
  if t = 6 then 2048 else if t = 2 || t = 3 || t = 0x0B then 1024 else if t = 8 || t = 9 then 256
  else if t = 0x17 || t = 0x18 then 128 else 512

/-- `n` rows of some bytes from an offset at a stride, both exact (R12). -/
def rowExtents (a stride n bytes align : Nat) : List Extent :=
  (List.range n).map fun i => (a + i * stride, bytes, align)

/-- The extents that a command can compute from its slots, with the strides it demands multiples of 64 (R186 to
R193). -/
def mxExtents (opc : Nat) (f : FmtE) (a b c : Nat) : List Extent :=
  if opc = 0x1B0 then
    (if f.mod.getLsbD 0 then [(a, 64, 64)] else rowExtents a b 128 64 64) ++ [(b, 0, 64), (c, 32, 32)]
  else if opc = 0x1B2 then rowExtents a c (mxRows f) 64 64 ++ [(c, 0, 64), (b, 32, 32)]
  else if opc = 0x1B4 || opc = 0x1B6 then
    rowExtents a b (mxRows f) (accRowBytes (bitsOf f.imm 17 13)) 64 ++ [(b, 0, 64)]
  else if opc = 0x1B5 then [(a, 4 * mxRows f, 4)]
  else []

/-- The first extent that is misaligned or runs out of the allocation. A stride has no bytes and no bound. -/
def badExtent (bsp : Nat) (es : List Extent) : Option (Nat × AddrFail) :=
  es.findSome? fun (o, n, al) =>
    if o % al != 0 then some (o, .misaligned) else if n != 0 && bsp < o + n then some (o, .bounds) else none

/-- A matrix command fires: ownership, the barrier handle of BAR, alignment and bounds (R186). R186 gives no order: where
a command fails several of them the fault is the first of this list (DESIGN CHOICE, notes/assumptions/34.md). -/
def matrixHeld (opc : Nat) (f : FmtE) (s : State) : Outcome :=
  heldE f s fun s w k x p o =>
    let bar := (opc = 0x1B2 || opc = 0x1B4) && f.imm.getLsbD 12
    match ownsMatrix s w k x (lanesP p) with
    | .error t => .error t
    | .ok _ =>
      match if bar then (boundHandle s w k x (resNum f) (lanesP p)).map fun _ => () else .ok () with
      | .error t => .error t
      | .ok _ =>
        match badExtent (s.teamD w x).decl (mxExtents opc f (tokVal o.a) (tokVal o.b) (tokVal o.c)) with
        | some (a, e) =>
          .error (s.addrFault w (some k) (lanesP p) 2 (BitVec.ofNat 64 a) (if opc = 0x1B4 then .write else .read) e)
        | none => .ok (0, none)

/-- LDSTAT (R187). -/
def execLdstat (f : FmtE) (s : State) : Outcome := matrixHeld 0x1B0 f s
/-- SWAPST (R188). -/
def execSwapst (f : FmtE) (s : State) : Outcome := matrixHeld 0x1B1 f s
/-- MMS (R189). -/
def execMms (f : FmtE) (s : State) : Outcome := matrixHeld 0x1B2 f s
/-- ACCZ (R190). -/
def execAccz (f : FmtE) (s : State) : Outcome := matrixHeld 0x1B3 f s
/-- ACCRD (R191). -/
def execAccrd (f : FmtE) (s : State) : Outcome := matrixHeld 0x1B4 f s
/-- ACCSC (R192). -/
def execAccsc (f : FmtE) (s : State) : Outcome := matrixHeld 0x1B5 f s
/-- ACCLD (R193). -/
def execAccld (f : FmtE) (s : State) : Outcome := matrixHeld 0x1B6 f s

/-- The value of `MESTAT` (Table 6.9). -/
def mestatValue (m : Matrix) : Nat :=
  m.queue.length + (if m.cur.isSome then 2 ^ 6 else 0) + (if m.act then 2 ^ 7 else 0) +
    (if m.pa.loaded then 2 ^ 8 else 0) + (if m.pb.loaded then 2 ^ 9 else 0) + (if m.err then 2 ^ 10 else 0) +
    m.cause * 2 ^ 11 + m.rows * 2 ^ 16

/-- MESTAT (R194): reading clears ERR and CAUSE. -/
def execMestat (f : FmtE) (s : State) : Outcome :=
  atNode s fun s w k x b =>
    let p := performing b k
    if p.isEmpty then finishNode s w k b [(f.t0, fun _ => none)]
    else
      match ownsMatrix s w k x (lanesP p) with
      | .error t => t
      | .ok _ =>
        let v := mestatValue (s.bay w.bay).mx
        let m := (s.bay w.bay).mx
        let s1 := s.modBay w.bay fun y => { y with mx := { y.mx with err := false, cause := 0 } }
        readClearing f s1 w k b p m.err (.matrix m.cause) v

/-! ## Launch, lease and system instructions (R159 to R162) -/

/-- LAUNCH (R159): a commit operation. -/
def execLaunch (f : FmtE) (s : State) : Outcome :=
  atNode s fun s w k x b => captureCop s w k f.lsid.toNat x b 0

/-- What `LSTAT` delivers for a child handle of a grid (R160). A handle whose use is over answers 2 even where another
grid launched its entry (DESIGN CHOICE, log entry 20). -/
def lstatValue (s : State) (gid : Nat) (h : Nat) : Nat :=
  let e := s.poolEntry (h / 2 ^ 16 % 2 ^ 13)
  if !e.used || e.uses % 8 != h / 2 ^ 29 then 2
  else if (e.launcher.map (·.gid)) != some gid then 3
  else
    match s.grid? e.gid with
    | none => 2
    | some g => if g.retired = g.nteam then 1 else 0

/-- LSTAT (R160), per lane. -/
def execLstat (f : FmtE) (s : State) : Outcome :=
  atNode s fun s w k x b =>
    fireLanes s w k x b [f.t0] (fun o => placed 0 o.a) fun _ o => tokOf 1 (lstatValue s x.key.gid (tokVal o.a))

/-- LEASE.set (R161). -/
def execLeaseSet (f : FmtE) (s : State) : Outcome := plainHeld f s
/-- LEASE.meas (R161). -/
def execLeaseMeas (f : FmtE) (s : State) : Outcome := plainHeld f s
/-- SNAP (R162). -/
def execSnap (f : FmtE) (s : State) : Outcome := plainHeld f s
/-- TRET (R162, R369). -/
def execTret (f : FmtE) (s : State) : Outcome := plainHeld f s

/-- An `INJ` fires, per lane: its words' addresses are translated now (R162, R127). -/
def injNode (f : FmtE) (s : State) : Outcome :=
  atNode s fun s w k x b =>
    withAddrs s w k x b 0 (bitsOf f.imm 2 0) 4 ⟨2, false⟩ .write fun ls =>
      holdOp s w k f.lsid.toNat b (heldLanes ls)

/-- INJ.code (R162). -/
def execInjCode (f : FmtE) (s : State) : Outcome := injNode f s
/-- INJ.data (R162). -/
def execInjData (f : FmtE) (s : State) : Outcome := injNode f s

end Sys2Proof.Machine
end

