-- ==== Sys2Proof/Machine/ExitNode.lean ====
section
/-! DEFINITION. The firing of exit nodes and of the escape opcodes (spec/05_memory_control_instructions.md R128 to R131,
spec/13_compatibility_contract.md R321, R322). The exits act at the block's boundary (Machine/Flow.lean). -/

namespace Sys2Proof.Machine

/-- A lane's vote kept until the block's boundary (R38). -/
def keepVote (s : State) (w : WarpId) (k : Nat) (b : Blk) (lanes : Mask) (targets : Assoc Double) : State :=
  s.putBlk w (({ b with votes := b.votes ++ [⟨k, lanes, targets⟩] } : Blk).fire k)

/-- A direct exit, or one without a target, fires: the performing lanes vote for it. -/
def voteExit (s : State) : Outcome :=
  atNode s fun s w k _ b => keepVote s w k b (lanesP (performing b k)) []

/-- An indirect exit fires (R129): its lanes' targets are checked, and one that is misaligned or not canonical is
the indirect-target fault. -/
def voteIndirect (s : State) : Outcome :=
  atNode s fun s w k x b =>
    let p := performing b k
    let ts := p.map fun (l, o) => (l, BitVec.ofNat 64 (tokVal o.a))
    let bad := ts.filter fun q => !targetAddrOk q.2
    let vote : State :=
      match bad with
      | [] => keepVote s w k b (lanesP p) ts
      | (_, a) :: _ =>
        s.takeFault w { kind := 0x05, sub := 0x09, node := some k, lanes := maskOf (bad.map (·.1)), va := a } none
    checked s w k x b (p.map fun (l, o) => (l, placed 0 o.a)) vote

/-- BR (R129, R131): its group continues at the block's address plus 8 × the offset. -/
def execBr (_f : FmtX) (s : State) : Outcome := voteExit s
/-- BRI (R129): one group for each distinct target. -/
def execBri (_f : FmtX) (s : State) : Outcome := voteIndirect s
/-- CALL (R130): its group pushes a call entry and continues at the target. -/
def execCall (_f : FmtX) (s : State) : Outcome := voteExit s
/-- CALLI (R130). -/
def execCalli (_f : FmtX) (s : State) : Outcome := voteIndirect s
/-- RET (R131): its lanes arrive at the nearest call entry. -/
def execRet (_f : FmtX) (s : State) : Outcome := voteExit s
/-- HALT (R42): its lanes leave the warp at commit. -/
def execHalt (_f : FmtX) (s : State) : Outcome := voteExit s
/-- TRAP (R131): its group stops the warp with a trap record when it runs. -/
def execTrap (_f : FmtX) (s : State) : Outcome := voteExit s
/-- BRK (R131, R380): its group stops the warp for the debugger when it runs, or continues. -/
def execBrk (_f : FmtX) (s : State) : Outcome := voteExit s

/-- ESC (R321, R322): an opcode without an implementation raises the unimplemented-opcode trap. -/
def execEsc (_e : BitVec 4) (_f : FmtA) (s : State) : Outcome :=
  atNode s fun s w k _ b =>
    s.takeFault w { kind := 0x06, sub := captureCause b.words k, node := some k, lanes := b.m } none

end Sys2Proof.Machine
end

