-- ==== Sys2Proof/Machine/Hold.lean ====
section
/-! DEFINITION. What the engines of a bay share: the holds they take on lines (spec/06_numbers_and_matrix_engine.md R180,
spec/08_memory_model_and_check_codes.md R247) and the updates of barrier records
(spec/05_memory_control_instructions.md R139, R140, R143). -/

namespace Sys2Proof.Machine

/-! ## Holds -/

/-- A list of locations without repeats, in order. -/
def distinctLocs : List Loc → List Loc
  | [] => []
  | a :: r => a :: (distinctLocs r).filter (· != a)

/-- The lines of `n` bytes from a location. -/
def linesFrom (l : Loc) (n : Nat) : List Loc :=
  if n = 0 then []
  else (List.range ((l.addr % 128 + n + 127) / 128)).map fun i => (l.add (128 * i)).line

/-- A number for an engine's new request. -/
def State.newSeq (s : State) : Nat × State := (s.holdSeq, { s with holdSeq := s.holdSeq + 1 })

/-- The L1 copy of a global line that an engine will write is written back and marked stale (R247). -/
def staleFor (s : State) (bay : Nat) (line : Loc) : State :=
  match line with
  | .phys k => if k * 128 < Config.loftBase then s.staleLine bay k else s
  | _ => s

/-- The sub-word merges that wait on a set of lines reach their stage, in order: the stores were released before (R256,
R247). -/
def State.mergeLines (s : State) (lines : List Loc) : State :=
  (s.merges.filter fun m => lines.contains m.loc.line).foldl State.mergeAt
    { s with merges := s.merges.filter fun m => !lines.contains m.loc.line }

/-- Holds taken on lines by a request of an engine (R180, R247): stores released before act first, and what the bay's L1
holds dirty of a line that will be written goes to its home. -/
def State.takeHolds (s : State) (bay engine seq : Nat) (lines : List (Bool × Loc)) : State :=
  let s0 := s.mergeLines (lines.map (·.2))
  let s1 := lines.foldl (fun t p => if p.1 then staleFor t bay p.2 else t) s0
  let hold (p : Bool × Loc) : LineHold := ⟨p.2, p.1, engine, seq, s.holdSeq⟩
  { s1.modBay bay (fun b => { b with holds := b.holds ++ lines.map hold }) with holdSeq := s.holdSeq + 1 }

/-- The holds of a request on lines outside a list released. -/
def State.keepHolds (s : State) (bay engine seq : Nat) (lines : List Loc) : State :=
  s.modBay bay fun b => { b with holds := b.holds.filter fun h =>
    h.engine != engine || h.seq != seq || lines.contains h.loc }

/-- Every hold of a request released. -/
def State.dropHolds (s : State) (bay engine seq : Nat) : State := s.keepHolds bay engine seq []

/-- When a request of an engine took its hold on a line; for a line that it does not hold, when it first took one, and
none where it holds nothing. -/
def State.holdOrd (s : State) (bay engine seq : Nat) (l : Loc) : Option Nat :=
  let mine := (s.bay bay).holds.filter fun h => h.engine = engine && h.seq = seq
  match mine.find? fun h => h.loc = l.line with
  | some h => some h.ord
  | none => (mine.map (·.ord)).min?

/-- An engine's access to a line waits while an earlier hold of another engine, or of another request of the copy engine,
lasts (R180 items 5 and 6, R247). -/
def State.engineWaits (s : State) (bay engine seq : Nat) (l : Loc) : Bool :=
  let ord := s.holdOrd bay engine seq l
  (s.holdsOn l).any fun (n, h) =>
    (n != bay || h.engine != engine || (engine = 1 && h.seq != seq)) && ord.all fun o => h.ord < o

/-! ## Barrier records -/

/-- A word of global memory taken to its home: the bay's own copy is written back and marked stale (R235). -/
def State.toHome (s : State) (bay : Nat) (l : Loc) : State := staleFor s bay l.line

/-- The record that a named barrier of a warp's team names now. -/
def barLoc (s : State) (w : WarpId) (x : Warp) (h : Double) (need : Need) : Except AddrFail Loc :=
  s.resolve w (s.teamD w x) x 0 (handleSpace h) (handleAddr h) 16 need

/-- Where the record of a `.bar` binding lies (R144): the record it was bound to, or, for a handle that was unbound or not
translated then, the record the team's handle names now. -/
def barBindLoc (s : State) (w : WarpId) (x : Warp) (e : EventBind) : Option Loc :=
  if e.kind != 0 then none
  else
    match e.loc with
    | some p => some p
    | none =>
      let h := handleOf (s.teamD w x) e.sel
      if h.getLsbD 63 then (barLoc s w x h ⟨0, false⟩).toOption else none

/-- A `.bar` binding names the record at a location. -/
def boundTo (s : State) (w : WarpId) (x : Warp) (l : Loc) (e : EventBind) : Bool := barBindLoc s w x e = some l

/-- The phase-change occurrence of a record (R140). -/
def phaseChange (s : State) (l : Loc) : State := s.mapWarps fun w x => markEvents x (boundTo s w x l)

/-- An update of a barrier record at its home (R139, R140): OUT and ARR grow, then the completion step. The words read
are checked; a bad one is answered with its position, and the record is left unchanged (R259). -/
def updateRecord (s : State) (bay : Nat) (l : Loc) (out : Word) (arr : Nat) : Except (Nat × W40) State :=
  let s := s.toHome bay l
  let ws := s.homeWords l 4
  match (ws.zipIdx.find? fun v => !good v.1) with
  | some (v, i) => .error (i, v)
  | none =>
    let a : Word := wordAt ws 2 + BitVec.ofNat 32 arr
    let o : Word := wordAt ws 3 + out
    if (wordAt ws 1).toNat ≤ a.toNat && o == 0 then
      .ok (phaseChange (s.setHomeWords l [fresh (wordAt ws 0 + 1), fresh (wordAt ws 1), fresh 0, fresh o]) l)
    else .ok (s.setHomeWords (l.add 8) [fresh a, fresh o])

/-- The record that an engine's barrier update translates. -/
def updateReach (s : State) (w : WarpId) (nb : Nat) : List Reach :=
  let h := (s.warp? w).elim 0 fun x => handleOf (s.teamD w x) nb
  if h.getLsbD 63 && handleSpace h = 0 then [reach (s.ctxOf w) .atomic (handleAddr h)] else []

/-- An engine's barrier update waits while an earlier hold of another engine lasts on the record's line (R180, R247). -/
def updateWaits (s : State) (w : WarpId) (engine seq nb : Nat) : Bool :=
  (s.warp? w).any fun x =>
    let h := handleOf (s.teamD w x) nb
    h.getLsbD 63 &&
      match barLoc s w x h (accNeed .atomic) with
      | .ok l => s.engineWaits w.bay engine seq l
      | .error _ => false

/-- An engine's update of the record that a handle of the issuing warp's team names (R143): translated now; a failure
makes no update and reports an engine error; a walk that meets a bad entry sends its record too (R375). The flag says whether the update was made. `rel` asks for the release of
R189. -/
def engineUpdate (s : State) (agent : RecAgent) (w : WarpId) (rel : Bool) (nb : Nat) (out : Word) (arr : Nat) : State × Bool :=
  match s.warp? w with
  | none => (s, false)
  | some x =>
    let h := handleOf (s.teamD w x) nb
    if !h.getLsbD 63 then (s.engineError w, false)
    else
      match barLoc s w x h (accNeed .atomic) with
      | .error (.walk f) =>
        ((s.walkFailed (s.ctxOf w) agent w.bay x.wid x.key (handleAddr h) .atomic f).engineError w, false)
      | .error _ => (s.engineError w, false)
      | .ok l =>
        let scope := if !rel || handleSpace h = 2 then 2 else if handleSpace h = 3 then 3 else 4
        match updateRecord (s.release w.bay scope) w.bay l out arr with
        | .ok s1 => (s1, true)
        | .error (_, v) => (s.engineWordError w v, false)

end Sys2Proof.Machine
end

