-- ==== Sys2Proof/Machine/Matrix.lean ====
section
/-! DEFINITION. The matrix engine: issue, the order of commands, sums, checksums, tiles, errors, and the events
MATRIX_ROW_GROUP_COMPLETE and PLANE_LOAD_COMPLETE (spec/06_numbers_and_matrix_engine.md R164 to R195). -/

namespace Sys2Proof.Machine

/-! ## Operand formats (R168, R172) -/

/-- The processed width w′ of an element format, 0 for one the engine does not take (Table 6.5). -/
def procWidth (fmt : Nat) : Nat :=
  if fmt = 0x12 || fmt = 0x13 || fmt = 0x14 then 4
  else if fmt = 0x10 || fmt = 0x11 || (0x15 ≤ fmt && fmt ≤ 0x18) then 8
  else if fmt = 8 || fmt = 9 then 16
  else if fmt = 0x19 || fmt = 0x0A then 32
  else 0

/-- A format and kind that Tables 6.1, 6.2 and 6.4 assign. -/
def pairAssigned (fmt kind : Nat) : Bool :=
  procWidth fmt != 0 &&
    (kind = 0 || (kind = 1 && fmt = 0x14) || (kind = 2 && (fmt = 0x10 || (0x14 ≤ fmt && fmt ≤ 0x18))) ||
      (kind = 3 && fmt = 0x10))

/-- Elements along K that share a scale (Table 6.4). -/
def groupLen (kind : Nat) : Nat := if kind = 1 then 8 else if kind = 2 then 32 else 512

/-- The bytes of a scale set (R185). -/
def scaleSetBytes (fmt kind : Nat) : Nat :=
  if kind = 0 then 0 else if kind = 3 then 4 else 512 / procWidth fmt / groupLen kind

/-- The class of a pair is integer (Table 6.5). -/
def integerClass (fa ka fb kb : Nat) : Bool :=
  let i4 (f : Nat) : Bool := f = 0x12 || f = 0x13
  let i8 (f : Nat) : Bool := f = 0x10 || f = 0x11
  ka = 0 && kb = 0 && ((i4 fa && i4 fb) || (i8 fa && i8 fb))

/-- Element code `c` flushed on input where R170 says so. -/
def flushElem (fmt dn c : Nat) : Nat :=
  if procWidth fmt = 16 || procWidth fmt = 32 then
    match fmtOf fmt with | some F => flushIn F dn (c % (2 * F.sgn)) | none => c
  else c

/-- Element k of a row of 64 bytes read as one number. -/
def elemAt (fmt row k : Nat) : Nat := row / 2 ^ (k * procWidth fmt) % 2 ^ procWidth fmt

/-- The value of one scale of a set of bytes (R167, R168). -/
def setScale (kind : Nat) (set : List Byte) (k : Nat) : XVal :=
  let byte (i : Nat) : Nat := (set[i]?.getD 0).toNat
  if kind = 0 then .fin false 1 0
  else if kind = 1 then scaleValue 0x1D (byte (k / 8))
  else if kind = 2 then scaleValue 0x1C (byte (k / 32))
  else f32.value (byte 0 + byte 1 * 2 ^ 8 + byte 2 * 2 ^ 16 + byte 3 * 2 ^ 24)

/-- The band scale's value: 1 but for kind 1. -/
def bandScale (kind : Nat) (h : Nat) : XVal := if kind = 1 then fBF.value h else .fin false 1 0

/-- `sv` (R169) of element code c. -/
def scaledValue (fmt kind c : Nat) (g h : XVal) : XVal :=
  let x := match elemValue fmt c with
    | .fin n m e => if fmt = 0x10 && kind = 2 then .fin n m (e - 6) else .fin n m e
    | v => v
  mulX (mulX x g) h

/-- The scaled values of a row (R169), elements already flushed. -/
def rowValues (fmt kind row : Nat) (set : List Byte) (band : Nat) : List XVal :=
  let h := bandScale kind band
  (List.range (512 / procWidth fmt)).map fun k => scaledValue fmt kind (elemAt fmt row k) (setScale kind set k) h

/-- A row with every element flushed. -/
def flushRow (fmt dn row : Nat) : Nat :=
  (List.range (512 / procWidth fmt)).foldl
    (fun r k => r + flushElem fmt dn (elemAt fmt row k) * 2 ^ (k * procWidth fmt)) 0

/-! ## Sums (R173 to R175) -/

/-- The exact sum of a list (R174): NaN, or an infinity, or the exact real. A sum that is zero begins at +0 whatever the
signs of its products (DESIGN CHOICE, notes/assumptions/34.md). -/
def sumX (l : List XVal) : XVal := l.foldl (addX .rne) (.fin false 0 0)

/-- A value is finite. -/
def XVal.finite : XVal → Bool
  | .fin _ _ _ => true
  | _ => false

/-- The sum of neighbouring pairs, each rounded to B128 (R175). -/
def treeLevel : List XVal → List XVal
  | a :: b :: r => fB128.value (roundFp fB128 .rne 0 (addX .rne a b)) :: treeLevel r
  | l => l

/-- The tree of R175 over 2^n products. -/
def treeSum : Nat → List XVal → XVal
  | 0, l => l.headD (.fin false 0 0)
  | n + 1, l => treeSum n (treeLevel l)

/-- The finite value as a dyadic rational. -/
def XVal.dyadic : XVal → Option Dyadic2
  | .fin n m e => some ⟨signed n m, e⟩
  | _ => none

/-- A dyadic rational as a value. -/
def ofDyadic (d : Dyadic2) : XVal := .fin (d.m < 0) d.m.natAbs d.e

/-- The magnitude of a value. -/
def XVal.abs : XVal → XVal
  | .nan => .nan
  | .inf _ => .inf false
  | .fin _ m e => .fin false m e

/-- x ≤ y for finite values. -/
def leX (x y : XVal) : Bool :=
  match addX .rne y x.negate with
  | .fin n m _ => !n || m = 0
  | _ => false

/-- The sum that a column adds for a row: exact, or by the tree for widths 16 and 32 (R173, R175). -/
def groupSum (width : Nat) (prods : List XVal) : XVal :=
  if width ≤ 8 then sumX prods else treeSum (if width = 16 then 5 else 4) prods

/-- The check of R183 over a row: the checksum column against the columns' sums. A row with a product that is not
finite is not checked. -/
def rowCheck (width : Nat) (a : List XVal) (csum : List (Option Dyadic2)) (prods : List (List XVal)) (sums : List XVal) :
    Bool :=
  if !(prods.all fun p => p.all XVal.finite) then true
  else
    let c := sumX ((a.zip csum).map fun (x, d) => match d with | some v => mulX x (ofDyadic v) | none => .nan)
    let d := (addX .rne (sumX sums) c.negate).abs
    if width ≤ 8 then leX d (.fin false 0 0)
    else
      match sumX (prods.map fun p => sumX (p.map XVal.abs)) with
      | .fin n m e => leX d (.fin n m (e - 104))
      | _ => false

/-! ## Reading the scratchpad -/

/-- What a data error is about: its cause (Table 6.9), and the word that failed, zero for a checksum. -/
abbrev MxBad := Nat × W40

/-- The cause of a bad word: 0x12 for a poisoned one, 0x10 for a mismatch (R181, R187). -/
def badCause (w : W40) : MxBad := (if w.p then 0x12 else 0x10, w)

/-- `n` bytes of a team's allocation read as one number, every word checked. -/
def readBytes (s : State) (bay base o n : Nat) : Except MxBad Nat :=
  if n = 0 then .ok 0
  else
    let lo := o / 4 * 4
    let ws := (s.bay bay).pad.words (base + lo) ((o % 4 + n + 3) / 4)
    match ws.find? fun w => !good w with
    | some w => .error (badCause w)
    | none => .ok (tokVal ws / 2 ^ (8 * (o % 4)) % 2 ^ (8 * n))

/-- The bytes of a number, least significant first. -/
def bytesOf (n v : Nat) : List Byte := (List.range n).map fun i => BitVec.ofNat 8 (v / 2 ^ (8 * i))

/-! ## Commands -/

/-- Field [hi:lo] of a command's record (Table 6.6). -/
def recField (c : MxCmd) (hi lo : Nat) : Nat := packetField c.record lo (hi - lo + 1)

/-- Element and kind code of the record's A or B half. -/
def recPair (c : MxCmd) (b : Bool) : Nat × Nat :=
  if b then (recField c 23 16, recField c 27 24) else (recField c 7 0, recField c 11 8)

/-- The row bytes of a command's own operand or destination. -/
def cmdRowBytes (c : MxCmd) : Nat :=
  if c.opc = 0x1B2 then 64 else if c.opc = 0x1B5 then 4 else accRowBytes (bitsOf c.f.imm 17 13)

/-- The number of rows of a command: rows of the tile, or none. -/
def cmdRows (c : MxCmd) : Nat := if 0x1B2 ≤ c.opc && c.opc ≤ 0x1B6 then mxRows c.f else 0

/-- The `.bsp` offset of row i of a command. -/
def cmdRowAt (c : MxCmd) (i : Nat) : Nat :=
  let stride := if c.opc = 0x1B2 then c.c.toNat else if c.opc = 0x1B5 then 4 else c.b.toNat
  c.a.toNat + i * stride

/-- The offset of the scale set of row or column i. -/
def scaleAt (c : MxCmd) (b : Bool) (i : Nat) : Nat :=
  if b then recField c 159 128 + i * recField c 223 192 else recField c 63 32 + i * recField c 127 96

/-- The extents of a command's scales and band scales: offset, bytes, alignment (R185). -/
def scaleExtents (c : MxCmd) : List Extent :=
  let (fmt, kind) := recPair c (c.opc = 0x1B0)
  if kind = 0 || !pairAssigned fmt kind then []
  else
    let n := scaleSetBytes fmt kind
    let al := if kind = 3 then 4 else 1
    if c.opc = 0x1B0 then
      (List.range 128).map (fun i => (scaleAt c true i, n, al)) ++ (if kind = 1 then [(recField c 191 160, 4, 4)] else [])
    else if c.opc = 0x1B2 then
      (List.range (mxRows c.f)).map (fun i => (scaleAt c false i, n, al)) ++
        (if kind = 1 then [(recField c 95 64, 2, 2)] else [])
    else []

/-- The offset and bytes of source row i of an `LDSTAT` (R187). -/
def statRow (c : MxCmd) (i : Nat) : Extent :=
  let w := procWidth (recPair c true).1
  (c.a.toNat + i * c.b.toNat, if c.f.mod.getLsbD 0 then 16 * w else 64, 64)

/-- How many source rows an `LDSTAT` reads. -/
def statRows (c : MxCmd) : Nat :=
  if c.f.mod.getLsbD 0 then 512 / max 1 (procWidth (recPair c true).1) else 128

/-- An extent of a record lies outside an allocation or is misaligned (R186). -/
def outsideExtents (c : MxCmd) (bytes : Nat) : Bool :=
  (scaleExtents c ++ if c.opc = 0x1B0 then (List.range (statRows c)).map (statRow c) else []).any fun (o, n, al) =>
    o % al != 0 || bytes < o + n

/-- The scale set of row r of an `MMS`, and its band scale. -/
def rowScales (c : MxCmd) (r : Nat) : List Extent :=
  if c.opc = 0x1B2 then ((scaleExtents c).drop r).take 1 ++ (scaleExtents c).drop (cmdRows c) else []

/-- What a command still reads and writes from row `i` on. -/
def cmdExtents (c : MxCmd) (i : Nat) : List Extent :=
  if c.opc = 0x1B0 then (List.range (statRows c)).map (statRow c) ++ scaleExtents c
  else
    ((List.range (cmdRows c)).drop i).map (fun r => (cmdRowAt c r, cmdRowBytes c, 1)) ++
      (if c.opc = 0x1B2 then (scaleExtents c).drop i else [])

/-- The scratchpad lines of extents that lie in the team's allocation. -/
def extentLines (bay : Nat) (t : Team) (es : List Extent) : List Loc :=
  distinctLocs (es.flatMap fun (o, n, _) => if o + n ≤ t.decl then linesFrom (.pad bay (t.bspBase + o)) n else [])

/-- A command uses the scratchpad rows it names (all but `ACCZ` and `SWAPST`). -/
def cmdHasRows (c : MxCmd) : Bool := c.opc != 0x1B1 && c.opc != 0x1B3

/-- The lines that a command needs from row i on. -/
def cmdLines (s : State) (bay : Nat) (c : MxCmd) (i : Nat) : List Loc :=
  if cmdHasRows c then extentLines bay ((s.team? bay c.key).getD (noTeam c.key)) (cmdExtents c i) else []

/-- What is wrong with a command (R187, R189): the first of its command errors, told at its turn, since it depends on
the planes as the commands before it leave them. R185 names the fields that kinds 0 to 3 use and no field of an
unassigned kind: for kinds 4 to 15 the model lets scales and stride be nonzero, which leaves cause 0x01, and a nonzero
band is cause 0x04 first (DESIGN CHOICE, notes/assumptions/34.md). -/
def cmdError (s : State) (bay : Nat) (c : MxCmd) : Option Nat :=
  let m := (s.bay bay).mx
  let rz := recField c 255 224 != 0 || recField c 31 28 != 0 || recField c 15 12 != 0
  let named := c.f.mod.getLsbD 1
  let unused (b : Bool) : Bool :=
    let (_, kind) := recPair c b
    let sc := if b then recField c 159 128 else recField c 63 32
    let st := if b then recField c 223 192 else recField c 127 96
    let bd := if b then recField c 191 160 else recField c 95 64
    (kind = 0 && (sc != 0 || st != 0)) || (kind != 1 && bd != 0)
  let plane := if m.act then m.pb else m.pa
  if c.opc = 0x1B0 then
    let (fmt, kind) := recPair c true
    if rz || unused true then some 4
    else if !pairAssigned fmt kind then some 1
    else if named = m.act then some 2
    else if c.outside then some 5
    else none
  else if c.opc = 0x1B2 then
    let (fmt, kind) := recPair c false
    if rz || unused false then some 4
    else if !pairAssigned fmt kind then some 1
    else if named != m.act then some 2
    else if !plane.loaded then some 3
    else if procWidth fmt != procWidth plane.fmt then some 1
    else if (recPair c true) != (plane.fmt, plane.kind) then some 2
    else if c.outside then some 5
    else none
  else none

/-- The cause of the record's first bad word. -/
def recordCause (c : MxCmd) : Option MxBad := (c.record.find? fun w => !good w).map badCause

/-! ## Errors and the order of commands -/

/-- An engine's first error since the last `MESTAT` recorded (Table 6.9). -/
def noteError (m : Matrix) (cause : Nat) : Matrix := if m.err then m else { m with err := true, cause := cause }

/-- A command error (R181): the command releases its holds and its warp faults at its next boundary. -/
def commandError (s : State) (bay : Nat) (c : MxCmd) (cause : Nat) : State :=
  (((s.modBay bay fun y => { y with mx := noteError y.mx cause }).dropHolds bay 0 c.seq).boundaryError c.warp
    (.command c.opc cause)).failIssued c.warp c.seq

/-- A data error (R181): the command stops, the warp's queued commands are discarded, and the warp rolls back at its
next boundary. A checksum failure is counted and logged (R398, R408). -/
def dataError (s : State) (bay : Nat) (c : MxCmd) (e : MxBad) : State :=
  let (cause, bad) := e
  let gone := c :: ((s.bay bay).mx.queue.filter fun d => d.warp = c.warp)
  let s1 := s.modBay bay fun y => { y with
    cks := if cause = 0x11 then y.cks + 1 else y.cks
    mx := { noteError y.mx cause with
      cur := none, rows := 0, queue := y.mx.queue.filter fun d => d.warp != c.warp } }
  let s2 := (gone.foldl (fun t d => (t.dropHolds bay 0 d.seq).failIssued d.warp d.seq) s1).engineWordError c.warp bad
  if cause = 0x11 then s2.logEvent 0x07 0 bay 0 cause (s.ctxOf c.warp) else s2

/-- The owning team is being saved and none of its blocks is left: the engine takes no new command and completes no
further group (R184, R377). -/
def mxStopped (s : State) (bay : Nat) : Bool :=
  let b := s.bay bay
  b.mx.owner.any fun k =>
    let ws := (b.warps.map (·.2)).filter fun x => x.key = k && !x.retired
    ws.any (·.preempt.isSome) && ws.all fun x => x.preempt.isSome && x.blk.isNone

/-- The next command of the queue starts when none is in progress (R179): a `SWAPST` is done at once, and a command
with an error is not performed. R179 and Table 12.5 let an `LDSTAT` into the plane that is not active overlap an earlier
`MMS`: the engine of the model runs one command at a time, an order that both allow (DESIGN CHOICE,
notes/assumptions/34.md). -/
def mxNextFuel (s : State) (bay : Nat) : Nat → State
  | 0 => s
  | n + 1 =>
    let m := (s.bay bay).mx
    match m.cur, m.queue with
    | none, c :: r =>
      let s1 := s.modBay bay fun y => { y with mx := { y.mx with queue := r } }
      if c.opc = 0x1B1 then mxNextFuel (s1.modBay bay fun y => { y with mx := { y.mx with act := !y.mx.act } }) bay n
      else
        match recordCause c with
        | some cause => mxNextFuel (dataError s1 bay c cause) bay n
        | none =>
          match cmdError s1 bay c with
          | some cause => mxNextFuel (commandError s1 bay c cause) bay n
          | none => s1.modBay bay fun y => { y with mx := { y.mx with cur := some c, rows := 0 } }
    | _, _ => s

/-- `mxNextFuel` with fuel for the whole queue. -/
def mxNext (s : State) (bay : Nat) : State :=
  if mxStopped s bay then s else mxNextFuel s bay ((s.bay bay).mx.queue.length + 1)

/-- A matrix command released into the queue (R179, R180): its record is read now, what it
names is checked against the allocation (R186), and its holds are taken. None while the queue is full, or another engine
holds the record's line, or a command issued before will still write it. -/
def mxIssue (s : State) (w : WarpId) (key : TeamKey) (opc : Nat) (f : FmtE) (a b c mode : Word) : Option State :=
  let t := (s.team? w.bay key).getD (noTeam key)
  let at' := if opc = 0x1B0 then some (t.bspBase + c.toNat) else if opc = 0x1B2 then some (t.bspBase + b.toNat) else none
  let held := at'.any fun o => (s.holdsOn (.pad w.bay o)).any fun p => p.1 != w.bay || p.2.engine != 0 || p.2.write
  if 32 ≤ (s.bay w.bay).mx.queue.length || held then none
  else
    let (seq, s1) := s.newSeq
    let record := match at' with | some o => (s1.bay w.bay).pad.words o 8 | none => []
    let cmd0 : MxCmd := ⟨w, key, opc, f, a, b, c, mode, record, false, seq⟩
    let cmd : MxCmd := { cmd0 with outside := outsideExtents cmd0 t.decl }
    let s2 := s1.modBay w.bay fun y => { y with mx := { y.mx with queue := y.mx.queue ++ [cmd] } }
    some (mxNext (s2.takeHolds w.bay 0 seq ((cmdLines s2 w.bay cmd 0).map fun l => (opc == 0x1B4, l))) w.bay)

/-! ## Rows -/

/-- The active plane. -/
def Matrix.plane (m : Matrix) : MxPlane := if m.act then m.pb else m.pa

/-- Column n of a plane as one number, or the cause of its first bad word. -/
def planeColumn (p : MxPlane) (n : Nat) : Except MxBad Nat :=
  let ws := (List.range 16).map fun i => agetD p.words (16 * n + i) .zero
  match ws.find? fun w => !good w with
  | some w => .error (badCause w)
  | none => .ok (tokVal ws)

/-- The scaled values of column n of a plane. -/
def planeValues (p : MxPlane) (n : Nat) : Except MxBad (List XVal) :=
  (planeColumn p n).map fun v =>
    rowValues p.fmt p.kind v (agetD p.scales n []) (p.bands[n / 64]?.getD 0).toNat

/-- A tile row written. -/
def writeTile (m : Matrix) (tile row : Nat) (vs : List Nat) : Matrix :=
  { m with acc := (vs.zipIdx).foldl (fun a (v, n) => aput a (tile * 8192 + row * 128 + n) 0 (BitVec.ofNat 128 v)) m.acc }

/-- An element of a tile. -/
def tileAt (m : Matrix) (tile row n : Nat) : Nat := (agetD m.acc (tile * 8192 + row * 128 + n) 0).toNat

/-- One element's new contents (R173, R175): integer elements wrap, floating ones are rounded once. -/
def accumulate (int : Bool) (old : Nat) (g : XVal) : Nat :=
  if int then
    match g with
    | .fin n m e => wrapI (sval old 128 + signed n (m * 2 ^ e.toNat)) 128
    | _ => old
  else roundFp fB128 .rne 0 (addX .rne (fB128.value old) g)

/-- A list whose every entry is good, or the first cause. -/
def allOk {α : Type} : List (Except MxBad α) → Except MxBad (List α)
  | [] => .ok []
  | .error e :: _ => .error e
  | .ok a :: r => (allOk r).map (a :: ·)

/-- Row i of an `MMS` (R189): its new tile row, or the cause of its data error. -/
def mmsRow (s : State) (bay : Nat) (c : MxCmd) (i : Nat) : Except MxBad (List Nat) := do
  let m := (s.bay bay).mx
  let p := m.plane
  let base := ((s.team? bay c.key).getD (noTeam c.key)).bspBase
  let (fa, ka) := recPair c false
  let dn := modeDN c.mode
  let raw ← readBytes s bay base (cmdRowAt c i) 64
  let set ← readBytes s bay base (scaleAt c false i) (scaleSetBytes fa ka)
  let band ← readBytes s bay base (recField c 95 64) (if ka = 1 then 2 else 0)
  let a := rowValues fa ka (flushRow fa dn raw) (bytesOf (scaleSetBytes fa ka) set) band
  let cols ← allOk ((List.range 128).map (planeValues p))
  let width := procWidth fa
  let prods := cols.map fun b => (a.zip b).map fun (x, y) => mulX x y
  let sums := prods.map (groupSum width)
  if !rowCheck width a p.csum prods sums then .error (0x11, .zero)
  else
    let tile := if c.f.mod.getLsbD 0 then 1 else 0
    let row := bitsOf c.f.imm 11 6 + i
    let int := integerClass fa ka p.fmt p.kind
    .ok ((sums.zipIdx).map fun (g, n) => accumulate int (if c.f.mod.getLsbD 2 then 0 else tileAt m tile row n) g)

/-- An element as `ACCRD` converts it (R191). -/
def readout (c : MxCmd) (x : Nat) : Nat :=
  let t := bitsOf c.f.imm 17 13
  let sat := c.f.imm.getLsbD 18
  match intFmt t, fmtOf t with
  | some (n, sg), _ => if sat then wrapI (satI sg (sval x 128) n) n else wrapI (sval x 128) n
  | none, some F =>
    if fB128.isNan x then F.qnan
    else satInf F sat (roundFp F (rmOf c.mode (bitsOf c.f.imm 21 19)) (modeDN c.mode) (fB128.value x))
  | none, none => x

/-- The bytes of an element of `ACCRD` and `ACCLD` (Table 6.8). -/
def accElemBytes (t : Nat) : Nat := accRowBytes t / 128

/-- An element as `ACCLD` converts it (R170, R193). -/
def loadElem (c : MxCmd) (v : Nat) : Nat :=
  let t := bitsOf c.f.imm 17 13
  match intFmt t, fmtOf t with
  | some (n, sg), _ => wrapI (ival sg v n) 128
  | none, some F => roundFp fB128 .rne 0 (F.value (flushElem t (modeDN c.mode) (v % (2 * F.sgn))))
  | none, none => v

/-- One row of a row-stepped command applied (R189 to R193), or the cause of its data error. -/
def applyRow (s : State) (bay : Nat) (c : MxCmd) (i : Nat) : Except MxBad State := do
  let m := (s.bay bay).mx
  let base := ((s.team? bay c.key).getD (noTeam c.key)).bspBase
  let tile := if c.f.mod.getLsbD 0 then 1 else 0
  let row := bitsOf c.f.imm 11 6 + i
  let put (vs : List Nat) : State := s.modBay bay fun y => { y with mx := writeTile y.mx tile row vs }
  let cur := (List.range 128).map (tileAt m tile row)
  let size := accElemBytes (bitsOf c.f.imm 17 13)
  if c.opc = 0x1B2 then (mmsRow s bay c i).map put
  else if c.opc = 0x1B3 then .ok (put (List.replicate 128 0))
  else if c.opc = 0x1B4 then
    let v := (cur.zipIdx).foldl (fun acc (x, n) => acc + readout c x * 2 ^ (8 * size * n)) 0
    .ok (s.setHomeWords (.pad bay (base + cmdRowAt c i)) (tokOf (32 * size) v))
  else if c.opc = 0x1B5 then do
    let fac ← readBytes s bay base (cmdRowAt c i) 4
    .ok (put (cur.map fun x => roundFp fB128 .rne 0 (mulX (fB128.value x) (f32.value fac))))
  else do
    let v ← readBytes s bay base (cmdRowAt c i) (128 * size)
    .ok (put ((List.range 128).map fun n => loadElem c (v / 2 ^ (8 * size * n) % 2 ^ (8 * size))))

/-- Rows i, i + 1, … of a command applied, `n` of them: the state reached, and the cause that stopped it. -/
def applyRows (s : State) (bay : Nat) (c : MxCmd) (i : Nat) : Nat → State × Option MxBad
  | 0 => (s, none)
  | n + 1 =>
    match applyRow s bay c i with
    | .error e => (s, some e)
    | .ok s1 => applyRows s1 bay c (i + 1) n

/-- The command in progress leaves the engine, and the next starts. -/
def mxFinish (s : State) (bay : Nat) (c : MxCmd) : State :=
  mxNext ((s.modBay bay fun y => { y with mx := { y.mx with cur := none, rows := 0 } }).dropHolds bay 0 c.seq) bay

/-- A command that still updates a barrier after its groups: an `MMS` or `ACCRD` with BAR set (R189, R191). -/
def cmdBar (c : MxCmd) : Bool := (c.opc = 0x1B2 || c.opc = 0x1B4) && c.f.imm.getLsbD 12

/-- A group of up to 8 rows completed with its barrier update (R189, R191). After an update that was not performed no
later group makes one (R143); that this also holds where the record's home refused the update for a bad word, of which R143
and R259 do not speak, is the model's choice (DESIGN CHOICE, notes/assumptions/34.md). -/
def groupStep (s : State) (bay : Nat) (c : MxCmd) (i : Nat) : State :=
  let n := min 8 (cmdRows c - i)
  let (s1, bad) := applyRows s bay c i n
  match bad with
  | some cause => mxNext (dataError s1 bay c cause) bay
  | none =>
    let (s2, ok) := if cmdBar c then engineUpdate s1 .walker c.warp true c.f.res.toNat 0 n else (s1, true)
    let c1 := if ok then c else { c with f := { c.f with imm := c.f.imm &&& ~~~(0x1000 : BitVec 24) } }
    if cmdRows c ≤ i + n then mxFinish s2 bay c1
    else (s2.modBay bay fun y => { y with mx := { y.mx with cur := some c1, rows := i + n } }).keepHolds bay 0 c.seq
        (cmdLines s2 bay c1 (i + n))

/-- The lines that the next step of a command touches. -/
def groupLines (s : State) (bay : Nat) (c : MxCmd) (i : Nat) : List Loc :=
  if c.opc = 0x1B0 then cmdLines s bay c 0
  else if cmdHasRows c then
    let t := (s.team? bay c.key).getD (noTeam c.key)
    extentLines bay t (((List.range (cmdRows c)).drop i).take 8 |>.flatMap fun r =>
      (cmdRowAt c r, cmdRowBytes c, 1) :: rowScales c r)
  else []

/-- The engine can go on: a command is in progress, and no other engine's earlier hold is in its way, on a line of its
next step or on its barrier record's (R180). -/
def mxReady (s : State) (bay : Nat) : Bool :=
  match (s.bay bay).mx.cur with
  | none => false
  | some c => ((groupLines s bay c (s.bay bay).mx.rows).all fun l =>
      !(s.engineWaits bay 0 c.seq (match l with | .pad b k => .pad b (k * 128) | .phys k => .phys (k * 128) | r => r))) &&
      !(cmdBar c && updateWaits s c.warp 0 c.seq c.f.res.toNat)

/-- MATRIX_ROW_GROUP_COMPLETE (R189 to R193). -/
def execMatrixRowGroupComplete (bay : Nat) (s : State) : Outcome :=
  match (s.bay bay).mx.cur with
  | some c =>
    if c.opc != 0x1B0 && mxReady s bay && !mxStopped s bay then .next (groupStep s bay c (s.bay bay).mx.rows)
    else .fault .notEnabled
  | none => .fault .notEnabled

/-! ## Loading a plane (R187, R183) -/

/-- The columns that an `LDSTAT` loads, each as one number with its elements flushed, or a data error's cause. -/
def statColumns (s : State) (bay : Nat) (c : MxCmd) : Except MxBad (List Nat) := do
  let (fmt, _) := recPair c true
  let w := procWidth fmt
  let dn := modeDN c.mode
  let base := ((s.team? bay c.key).getD (noTeam c.key)).bspBase
  let rows ← allOk ((List.range (statRows c)).map fun i =>
    let (o, n, _) := statRow c i
    readBytes s bay base o n)
  if c.f.mod.getLsbD 0 then
    .ok ((List.range 128).map fun n => flushRow fmt dn
      ((rows.zipIdx).foldl (fun acc (r, k) => acc + r / 2 ^ (n * w) % 2 ^ w * 2 ^ (k * w)) 0))
  else .ok (rows.map (flushRow fmt dn))

/-- The plane that an `LDSTAT` builds (R187): fresh codes, scales, and the checksum column. -/
def statPlane (s : State) (bay : Nat) (c : MxCmd) : Except MxBad MxPlane := do
  let (fmt, kind) := recPair c true
  let base := ((s.team? bay c.key).getD (noTeam c.key)).bspBase
  let n := scaleSetBytes fmt kind
  let cols ← statColumns s bay c
  let sets ← allOk ((List.range 128).map fun i => (readBytes s bay base (scaleAt c true i) n).map (bytesOf n))
  let band ← readBytes s bay base (recField c 191 160) (if kind = 1 then 4 else 0)
  let bands : List (BitVec 16) := [BitVec.ofNat 16 band, BitVec.ofNat 16 (band / 2 ^ 16)]
  let words := (cols.zipIdx).foldl (fun m (v, col) =>
    ((tokOf 16 v).zipIdx).foldl (fun m (t, i) => aput m (16 * col + i) .zero t) m) []
  let vals := (cols.zip sets).zipIdx.map fun ((v, set), col) =>
    rowValues fmt kind v set (bands[col / 64]?.getD 0).toNat
  let csum := (List.range (512 / procWidth fmt)).map fun k =>
    (sumX (vals.map fun v => v[k]?.getD .nan)).dyadic
  .ok ⟨true, fmt, kind, words, (sets.zipIdx).map fun (t, i) => (i, t), bands, csum⟩

/-- PLANE_LOAD_COMPLETE (R187): the named plane is loaded, or the load ends in a data error, which leaves the plane as it
was (DESIGN CHOICE, notes/assumptions/34.md). -/
def execPlaneLoadComplete (bay : Nat) (s : State) : Outcome :=
  match (s.bay bay).mx.cur with
  | none => .fault .notEnabled
  | some c =>
    if c.opc != 0x1B0 || !mxReady s bay then .fault .notEnabled
    else
      match statPlane s bay c with
      | .error cause => .next (mxNext (dataError s bay c cause) bay)
      | .ok p =>
        let put (m : Matrix) : Matrix := if c.f.mod.getLsbD 1 then { m with pb := p } else { m with pa := p }
        .next (mxFinish (s.modBay bay fun y => { y with mx := put y.mx }) bay c)

/-- The matrix engine's next event, if it can go on. -/
def mxWork (s : State) (bay : Nat) : Option Instr :=
  match (s.bay bay).mx.cur with
  | none => none
  | some c =>
    if mxReady s bay then some (if c.opc = 0x1B0 then .planeLoadComplete bay else .matrixRowGroupComplete bay) else none

end Sys2Proof.Machine
end

