-- ==== Sys2Proof/Machine/Copy.lean ====
section
/-! DEFINITION. The copy engine and what the truss streams share with it: requests, patterns, holds, engine reads and
writes, completion, and the events COPY_REQUEST_START, COPY_CHUNK_LAND and COPY_COMPLETION
(spec/05_memory_control_instructions.md R154 to R157, spec/08_memory_model_and_check_codes.md R235, R247, R251). -/

namespace Sys2Proof.Machine

/-! ## Requests (Tables 5.11, 5.12) -/

/-- A field of a request's CTL word. -/
def ctlField (q : List W40) (hi lo : Nat) : Nat := bitsOf (wordAt q 0) hi lo

/-- A flag of the CTL word. -/
def ctlBit (q : List W40) (i : Nat) : Bool := (wordAt q 0).getLsbD i

/-- KIND of a request. -/
def reqKind (q : List W40) : Nat := ctlField q 31 28

/-- LEN of a request. -/
def reqLen (q : List W40) : Nat := (wordAt q 1).toNat

/-- Rows of a plane and planes of a request. -/
def reqCounts (q : List W40) : Nat × Nat :=
  (if 1 ≤ reqKind q then (wordAt q 6).toNat + 1 else 1, if 2 ≤ reqKind q then (wordAt q 7).toNat + 1 else 1)

/-- All bytes of a request's pattern. -/
def reqTotal (q : List W40) : Nat := (reqCounts q).1 * (reqCounts q).2 * reqLen q

/-- The space of a side: false source, true destination. -/
def sideSpace (q : List W40) (dst : Bool) : Nat := if dst then ctlField q 24 22 else ctlField q 27 25

/-- The base address of a side. -/
def sideBase (q : List W40) (dst : Bool) : Double := if dst then doubleAt q 4 else doubleAt q 2

/-- The row and plane strides of a side, zero where KIND does not use them. -/
def sideStrides (q : List W40) (dst : Bool) : Int × Int :=
  (if 1 ≤ reqKind q then (wordAt q (if dst then 9 else 8)).toInt else 0,
   if 2 ≤ reqKind q then (wordAt q (if dst then 11 else 10)).toInt else 0)

/-- The address of a side's byte at a position in the pattern (R155). -/
def patternAddr (q : List W40) (dst : Bool) (pos : Nat) : Double :=
  let len := max 1 (reqLen q)
  let row := pos / len
  let (s1, s2) := sideStrides q dst
  let n := (reqCounts q).1
  sideBase q dst + BitVec.ofInt 64 ((row / n : Nat) * s2 + (row % n : Nat) * s1 + (pos % len : Nat))

/-- A space that a request or stream may name (R154). -/
def copySpace (sp : Nat) : Bool := sp = 0 || sp = 2 || sp = 3 || sp = 4

/-- A side's `.bsp`, `.csh` or `.lft` pattern lies within its allocation, and a `.gbl` base is canonical (R157, R231). The
offset that the request names lies there also when LEN is 0.
R157 names an offset outside the allocation; that a pattern which runs beyond it is refused whole at the start is a choice
(DESIGN CHOICE, notes/assumptions/25.md). No row of a `.csh` pattern can lie in another member: strides stay below 2^31
bytes, and members are 2^32 apart. -/
def sideOk (s : State) (t : Team) (q : List W40) (dst : Bool) : Bool :=
  let sp := sideSpace q dst
  let a := sideBase q dst
  let (s1, s2) := sideStrides q dst
  let (n1, n2) := reqCounts q
  let r1 := s1 * ((n1 - 1 : Nat) : Int)
  let r2 := s2 * ((n2 - 1 : Nat) : Int)
  let lo (base : Nat) : Int := base + min 0 r1 + min 0 r2
  let hi (base : Nat) : Int := base + max 0 r1 + max 0 r2 + reqLen q
  let lim : Nat := if sp = 2 then t.decl else (s.ctx t.ctx).lftn * 65536
  copySpace sp && a.toNat % 4 = 0 && s1 % 4 = 0 && s2 % 4 = 0 &&
    (if sp = 0 then canonical a
     else if sp = 3 then
       let o := bitsOf a 31 0
       (match s.member 0 t (bitsOf a 35 32) with
        | some (_, u) => a.toNat < 2 ^ 36 && bitsOf a 35 32 < t.clsize && o < u.decl &&
            (reqLen q = 0 || (0 ≤ lo o && hi o ≤ (u.decl : Int)))
        | none => false)
     else a.toNat < lim && (reqLen q = 0 || (0 ≤ lo a.toNat && hi a.toNat ≤ (lim : Int))))

/-- A request at an offset of a team's allocation is aligned and lies below the `.bsp` declaration (R154, R231). -/
def requestFits (t : Team) (ofs : Nat) : Bool := ofs % 64 = 0 && ofs + 64 ≤ t.decl

/-- A request holds nothing that R157 refuses, for the sides that are used. CWADDR is checked where CTL.CW uses it
(DESIGN CHOICE, notes/assumptions/25.md). That a `.lft` completion word lies in the allocation is found at the completion
write. -/
def requestOk (s : State) (t : Team) (q : List W40) (src dst : Bool) : Bool :=
  let cw := doubleAt q 12
  reqKind q ≤ 2 && reqLen q % 4 = 0 && reqLen q ≤ 2 ^ 24 && ctlField q 18 16 ≤ 5 &&
    (wordAt q 15 = 0 || requestFits t (wordAt q 15).toNat) && (!src || sideOk s t q false) && (!dst || sideOk s t q true) &&
    (!ctlBit q 21 || (handleOf t (ctlField q 7 4)).getLsbD 63) &&
    (!ctlBit q 20 || (cw.toNat % 4 = 0 && (ctlBit q 3 || canonical cw)))

/-- Where a request of a team lies, none when it is not in the allocation or misaligned. -/
def requestLoc (bay : Nat) (t : Team) (ofs : Nat) : Option Loc :=
  if requestFits t ofs then some (.pad bay (t.bspBase + ofs)) else none

/-- The sixteen words of a request in a team's allocation, none when they do not lie there or are misaligned. -/
def requestWords (s : State) (bay : Nat) (t : Team) (ofs : Nat) : Option (List W40) :=
  (requestLoc bay t ofs).map fun l => s.homeWords l 16

/-- An engine's reading of a request waits while another engine holds its line (R180 items 5 and 6, R247). -/
def requestWaits (s : State) (bay engine seq : Nat) (t : Team) (ofs : Nat) : Bool :=
  (requestLoc bay t ofs).any fun l => s.engineWaits bay engine seq l

/-- The first bad word of a request; zero when every word is good. -/
def firstBad (q : List W40) : W40 := (q.find? fun w => !good w).getD .zero

/-! ## Remote writes (R251, R363, R364) -/

/-- The Voling stream of a warp's grid. -/
def streamOf (s : State) (w : WarpId) : Nat :=
  match s.warp? w with
  | some x => ((s.grid? x.key.gid).map fun g => packetField g.packet 608 12).getD 0
  | none => 0

/-- A Voling port is up (R405). -/
def State.portUp (s : State) (p : Nat) : Bool := (agetD s.links p ⟨true, 1⟩).up

/-- The port that carries a peer's traffic: the lowest of its PORTS set that is up (R363, R405;
notes/assumptions/15.md). -/
def State.portTo (s : State) (peer : Nat) : Option Nat :=
  let ports : BitVec 16 := (agetD s.vl.peers peer 0).extractLsb' 48 16
  (List.range 16).find? fun p => ports.getLsbD p && s.portUp p

/-- Writes put on the links, each on the port that carries its peer's traffic; with no port up a write waits among the
unacknowledged ones. -/
def State.transmit (s : State) (ms : List VolingWrite) : State :=
  { s with vl := { s.vl with sent := s.vl.sent ++ ms.filterMap fun m => (s.portTo m.peer).map fun p => (p, m) } }

/-- A remote write sent: the ridge numbers it in its stream to the peer, and keeps it until it is acknowledged. An
engine's write names the page it was translated from. -/
def State.sendRemote (s : State) (w : WarpId) (peer addr len : Nat) (words : List W40) (rel : Bool)
    (page : Option Nat) : State :=
  let st := streamOf s w
  let key := peer * 4096 + st
  let o := agetD s.vl.outs key ⟨0, []⟩
  let m : VolingWrite := ⟨s.vl.ident, peer, st, o.next % 2 ^ 48, addr, len, words, rel⟩
  ({ s with vl := { s.vl with outs := aset s.vl.outs key ⟨o.next + 1, o.unacked ++ [⟨w, m, page, false⟩]⟩ } } : State).transmit [m]

/-- The warp has remote writes that are not acknowledged (R244). -/
def State.remotePending (s : State) (w : WarpId) : Bool := s.vl.outs.any fun p => p.2.unacked.any fun q => q.warp = w

/-! ## Engine reads and writes -/

/-- A word with the sub-word stores that a bay's warps have released to it and that have not reached their stage. -/
def withMerges (s : State) (bay : Nat) (l : Loc) (w : W40) : W40 :=
  (s.merges.filter fun m => m.warp.bay = bay && m.loc = l).foldl (fun v m => mergeWord v m.mask m.n m.cn) w

/-- A word as an engine of a bay reads it (R247): bytes that the bay's L1 holds dirty from there, every other byte from
its home, with the stores that the bay's warps have released. -/
def engineRead (s : State) (bay : Nat) (l : Loc) : W40 :=
  withMerges s bay l (match l with
  | .phys pa =>
    match (s.bay bay).l1Find (pa / 128) with
    | some x =>
      let d := x.dirtyWord (pa / 4 % 32)
      if d = 0 then s.homeWord l else writeBackWord (s.homeWord l) (agetD x.words (pa / 4 % 32) .zero) d
    | none => s.homeWord l
  | _ => s.homeWord l)

/-- A word written by an engine of a bay (R235): at its home, the bay's own copy marked stale; or sent to a peer. `va` is
the address that was translated. -/
def engineWrite (s : State) (w : WarpId) (l : Loc) (va : Double) (v : W40) (rel : Bool) : State :=
  match l with
  | .remote peer pa => s.sendRemote w peer pa 4 [v] rel (some (pageOf va.toNat))
  | _ => (s.toHome w.bay l).setHomeWord l v

/-- Consecutive words read by an engine. -/
def engineReads (s : State) (bay : Nat) (l : Loc) (n : Nat) : List W40 :=
  (List.range n).map fun i => engineRead s bay (l.add (4 * i))

/-- Consecutive words of one line written by an engine. -/
def engineWrites (s : State) (w : WarpId) (l : Loc) (va : Double) : List W40 → State
  | [] => s
  | v :: r => engineWrites (engineWrite s w l va v false) w (l.add 4) va r

/-- The location of a side's word for a warp's request. -/
def sideLoc (s : State) (w : WarpId) (x : Warp) (q : List W40) (dst : Bool) (pos : Nat) : Except AddrFail Loc :=
  s.resolve w (s.teamD w x) x 0 (sideSpace q dst) (patternAddr q dst pos) 4 (accNeed (if dst then .write else .read))

/-! ## Chunks and holds -/

/-- The bytes of the chunk at a position: the rest of its row within one source line and one destination line. -/
def chunkBytes (q : List W40) (src dst : Bool) (pos : Nat) : Nat :=
  let len := max 1 (reqLen q)
  let room (d : Bool) : Nat := 128 - (patternAddr q d pos).toNat % 128
  min (len - pos % len) (min (if src then room false else 128) (if dst then room true else 128))

/-- The chunks of a side from a position on: the addresses at which they begin. -/
def sideChunks (q : List W40) (src dst side : Bool) : Nat → Nat → List Double
  | 0, _ => []
  | n + 1, pos =>
    if reqTotal q ≤ pos then []
    else patternAddr q side pos :: sideChunks q src dst side n (pos + chunkBytes q src dst pos)

/-- A side's lines are held: every destination line, and source lines in a scratchpad (R247). -/
def sideHeld (q : List W40) (dst : Bool) : Bool := dst || sideSpace q false = 2 || sideSpace q false = 3

/-- A line inserted in address order: side, and the address of one of its bytes. -/
def insertLine (p : Bool × Double) : List (Bool × Double) → List (Bool × Double)
  | [] => [p]
  | q :: r =>
    if p.1 = q.1 && p.2.toNat / 128 = q.2.toNat / 128 then q :: r
    else if p.2.toNat / 128 ≤ q.2.toNat / 128 then p :: q :: r
    else q :: insertLine p r

/-- The lines that a request holds from a position on, in address order (R247). -/
def linesToHold (q : List W40) (src dst : Bool) (pos : Nat) : List (Bool × Double) :=
  let side (d : Bool) : List (Bool × Double) :=
    if (if d then dst else src) && sideHeld q d then
      (sideChunks q src dst d (reqTotal q) pos).map fun a => (d, a)
    else []
  (side true ++ side false).foldr insertLine []

/-- The line of a side's address. -/
def sideLine (s : State) (w : WarpId) (x : Warp) (q : List W40) (d : Bool) (a : Double) : Except AddrFail Loc :=
  (s.resolve w (s.teamD w x) x 0 (sideSpace q d) (BitVec.ofNat 64 (a.toNat / 4 * 4)) 4
    (accNeed (if d then .write else .read))).map Loc.line

/-- Lines up to the first that does not translate, and how that one failed (R247). -/
def translated (s : State) (w : WarpId) (x : Warp) (q : List W40) :
    List (Bool × Double) → List (Bool × Loc) × Option AddrFail
  | [] => ([], none)
  | (d, a) :: r =>
    match sideLine s w x q d a with
    | .error f => ([], some f)
    | .ok l => let (ls, f) := translated s w x q r; ((d, l) :: ls, f)

/-- A location is of this module. -/
def Loc.here : Loc → Bool
  | .remote _ _ => false
  | _ => true

/-- A request's holds taken from a position on, on the lines it does not hold yet (R247). A line that it also writes is
held as a destination. A walk that meets a bad entry has it listed (R375). -/
def takeRequestHolds (s : State) (w : WarpId) (x : Warp) (q : List W40) (src dst : Bool) (engine seq pos : Nat) :
    State :=
  let mine := ((s.bay w.bay).holds.filter fun h => h.engine = engine && h.seq = seq).map (·.loc)
  let (all, bad) := translated s w x q (linesToHold q src dst pos)
  let s := match bad with | some (.walk f) => s.listPoison f | _ => s
  let ls := all.filter fun p => p.2.here && !mine.contains p.2
  let writes := (ls.filter (·.1)).map (·.2)
  let held := distinctLocs (ls.map (·.2))
  if held.isEmpty then s else s.takeHolds w.bay engine seq (held.map fun l => (writes.contains l, l))

/-- A request does not hold some line of a list that it will use: none did translate when it took its holds (R247). -/
def lacksHold (s : State) (bay engine seq : Nat) (ls : List Loc) : Bool :=
  ls.any fun l => l.here && !((s.bay bay).holds.any fun h => h.engine = engine && h.seq = seq && h.loc = l.line)

/-- The lines that a request will still reach from a position on, where they translate. -/
def linesAhead (s : State) (w : WarpId) (x : Warp) (q : List W40) (src dst : Bool) (pos : Nat) : List Loc :=
  let side (d : Bool) : List Loc :=
    if (if d then dst else src) then
      (sideChunks q src dst d (reqTotal q) pos).filterMap fun a =>
        (sideLine s w x q d a).toOption
    else []
  side false ++ side true

/-! ## What a request translates next (R373) -/

/-- A side's access at an address. -/
def sideReach (c : Nat) (q : List W40) (dst : Bool) (va : Double) : List Reach :=
  if sideSpace q dst = 0 then [reach c (if dst then .write else .read) va] else []

/-- The lines that a request takes holds on from a position. -/
def holdReach (c : Nat) (q : List W40) (src dst : Bool) (pos : Nat) : List Reach :=
  (linesToHold q src dst pos).flatMap fun (d, a) => sideReach c q d (BitVec.ofNat 64 (a.toNat / 4 * 4))

/-- The completion write of a request. -/
def cwReach (c : Nat) (q : List W40) : List Reach :=
  if ctlBit q 20 && !ctlBit q 3 then [reach c .write (doubleAt q 12)] else []

/-- The countdown of a request. -/
def countReach (s : State) (w : WarpId) (q : List W40) : List Reach :=
  if ctlBit q 21 then updateReach s w (ctlField q 7 4) else []

/-! ## Failures -/

/-- The record of a stalled request or binding (Tables 16.1, 16.2): kind 0x10, or 0x03 for a bad page-table entry. -/
def stallRecord (s : State) (w : WarpId) (x : Warp) (agent : RecAgent) (ofs moved : Nat) (space : Nat) (va : Double)
    (acc : Access) (f : WalkFail) : Record :=
  let kind := if f.kind = 0x03 then 0x03 else 0x10
  let i : RecInfo :=
    { kind := kind, sub := f.sub, va := va, space := space, access := accessCode acc, level := f.level, pa := f.pa,
      bad := f.bad, f040 := BitVec.ofNat 64 (ofs + moved * 2 ^ 32) }
  let m := headerWords (s.ctxOf w) kind 1 w.bay x.wid 0 0 x.key.tid x.key.gid
  ⟨s.recNum, s.ctxOf w, kind, agent, bodyWords m 0 0 0 i, none⟩

/-- A failed engine access is a translation fault, which stalls the engine, or an engine error (R157). -/
def stalls (f : AddrFail) : Option WalkFail :=
  match f with
  | .walk g => if g.kind = 0x02 then none else some g
  | _ => none

/-- A request in progress rewritten. -/
def Bay.modCopy (b : Bay) (seq : Nat) (f : CopyRun → CopyRun) : Bay :=
  { b with copies := b.copies.map fun c => if c.seq = seq then f c else c }

/-- The holds of a list of requests released. -/
def dropRuns (s : State) (bay : Nat) (rs : List CopyRun) : State := rs.foldl (fun t c => t.dropHolds bay 1 c.seq) s

/-- A chain stops (R157): its requests from one on leave the engine, and none follows. -/
def stopChain (s : State) (bay chain seq : Nat) : State :=
  let out (c : CopyRun) : Bool := c.kick.chain = chain && seq ≤ c.seq
  (dropRuns s bay ((s.bay bay).copies.filter out)).modBay bay fun y => { y with
    copies := y.copies.filter fun c => !out c
    kicks := y.kicks.filter fun k => !(k.started && k.chain = chain) }

/-- A copy request ends with an engine error, over a bad word where there is one, and its chain stops (R157). -/
def copyError (s : State) (bay : Nat) (k : CopyKick) (seq : Nat) (bad : W40) : State :=
  ((stopChain s bay k.chain seq).modTeam bay k.key fun t => { t with cpErr := true }).engineWordError k.warp bad
    |>.failIssued k.warp k.chain

/-- A failure of a request in progress at an address. -/
def copyFail (s : State) (bay : Nat) (x : Warp) (c : CopyRun) (space : Nat) (va : Double) (acc : Access)
    (f : AddrFail) : State :=
  match stalls f with
  | some g =>
    let r := stallRecord s c.kick.warp x (.copy bay c.kick.warp) c.kick.ofs c.moved space va acc g
    ((s.listPoison g).modBay bay fun y => y.modCopy c.seq fun d => { d with stalled := some s.recNum }).addRecord r
  | none => copyError s bay c.kick c.seq .zero

/-! ## Events -/

/-- The request that starts next (R156): chains in kick order, the rest of a chain that has begun before the next
chain. CPSTAT counts requests in progress in eight bits, and no more than 255 are (notes/assumptions/25.md). -/
def nextKick (b : Bay) : Option CopyKick := if b.copies.length < 255 then b.kicks.head? else none

/-- The requests of a chain that follow one stand in front of the kick queue. -/
def chainOn (k : CopyKick) (q : List W40) : List CopyKick :=
  let next := (wordAt q 15).toNat
  if next = 0 then [] else [{ k with ofs := next, started := true }]

/-- COPY_REQUEST_START (R154, R156, R157, R247). -/
def execCopyRequestStart (bay : Nat) (s : State) : Outcome :=
  match nextKick (s.bay bay) with
  | none => .fault .notEnabled
  | some k =>
    let (seq, s1) := (s.modBay bay fun y => { y with kicks := y.kicks.drop 1 }).newSeq
    match s.warp? k.warp, s.team? bay k.key with
    | some x, some t =>
      if requestWaits s1 bay 1 seq t k.ofs then .fault .notEnabled
      else
      match requestWords s1 bay t k.ofs with
      | none => .next (copyError s1 bay k seq .zero)
      | some q =>
        if !requestOk s1 t q true true || !q.all good then .next (copyError s1 bay k seq (firstBad q))
        else
          let s2 := s1.modBay bay fun y => { y with
            copies := y.copies ++ [⟨{ k with started := true }, q, 0, none, seq⟩]
            kicks := chainOn k q ++ y.kicks }
          .next (takeRequestHolds s2 k.warp x q true true 1 seq 0)
    | _, _ => .next s1

/-- A request in progress that is not stalled. -/
def runningCopy (b : Bay) (n : Nat) : Option CopyRun :=
  (b.copies[n]?).bind fun c => if c.stalled.isNone then some c else none

/-- An earlier request of the chain is still in progress (R156): its reports come first. -/
def chainWaits (b : Bay) (c : CopyRun) : Bool := b.copies.any fun d => d.kick.chain = c.kick.chain && d.seq < c.seq

/-- The countdown of a copy's chunk waits for an earlier hold on its barrier record's line (R180, R247). -/
def countWaits (s : State) (w : WarpId) (q : List W40) (engine seq : Nat) : Bool :=
  ctlBit q 21 && updateWaits s w engine seq (ctlField q 7 4)

/-- A chunk landed: its words are moved with their codes, then counted down (R155). -/
def landChunk (s : State) (bay : Nat) (x : Warp) (c : CopyRun) (src dst : Loc) : State :=
  let n := chunkBytes c.req true true c.moved
  let w := c.kick.warp
  let s1 := engineWrites s w dst (patternAddr c.req true c.moved) (engineReads s bay src (n / 4))
  let (s2, ok) := if ctlBit c.req 21 then engineUpdate s1 (.copy bay w) w false (ctlField c.req 7 4) (BitVec.ofInt 32 (-(n : Int))) 0
    else (s1, true)
  if !ok then (stopChain s2 bay c.kick.chain c.seq).modTeam bay c.kick.key fun t => { t with cpErr := true }
  else
    let rest := linesAhead s2 w x c.req true true (c.moved + n)
    let done : List Loc := [src.line, dst.line].filter fun l => !rest.contains l
    let kept := (((s2.bay bay).holds.filter fun h => h.engine = 1 && h.seq = c.seq).map (·.loc)).filter
      fun l => !done.contains l
    (s2.modBay bay fun y => y.modCopy c.seq fun d => { d with moved := c.moved + n }).keepHolds bay 1 c.seq kept

/-- The last chunk of a request is the first of its reports, so it comes after those of the chain's earlier requests
(R155, R156). -/
def chunkWaits (b : Bay) (c : CopyRun) : Bool :=
  reqTotal c.req ≤ c.moved + chunkBytes c.req true true c.moved && chainWaits b c

/-- The lines of a chunk that a request holds: the destination, and a source in a scratchpad. -/
def heldOf (q : List W40) (l d : Loc) : List Loc := if sideHeld q false then [l, d] else [d]

/-- COPY_CHUNK_LAND (R155, R157): the chunk's lines are translated now; a failure stalls the request or ends it. A line
that did not translate when the request took its holds, and does now, is held from here on with those after it (R247). -/
def execCopyChunkLand (i : CopyId) (s : State) : Outcome :=
  let bay := i.bay
  match runningCopy (s.bay bay) i.n with
  | none => .fault .notEnabled
  | some c =>
    match s.warp? c.kick.warp with
    | none => .fault .notEnabled
    | some x =>
      if reqTotal c.req ≤ c.moved || chunkWaits (s.bay bay) c then .fault .notEnabled
      else
        let w := c.kick.warp
        match sideLoc s w x c.req false c.moved, sideLoc s w x c.req true c.moved with
        | .error f, _ =>
          .next (copyFail s bay x c (sideSpace c.req false) (patternAddr c.req false c.moved) .read f)
        | _, .error f =>
          .next (copyFail s bay x c (sideSpace c.req true) (patternAddr c.req true c.moved) .write f)
        | .ok l, .ok d =>
          let s1 := if lacksHold s bay 1 c.seq (heldOf c.req l d) then takeRequestHolds s w x c.req true true 1 c.seq c.moved
            else s
          if s1.engineWaits bay 1 c.seq l || s1.engineWaits bay 1 c.seq d || countWaits s1 w c.req 1 c.seq then
            .fault .notEnabled
          else .next (landChunk s1 bay x c l d)

/-- The location of a request's completion word. -/
def cwLoc (s : State) (w : WarpId) (x : Warp) (q : List W40) : Except AddrFail Loc :=
  s.resolve w (s.teamD w x) x 0 (if ctlBit q 3 then 4 else 0) (doubleAt q 12) 4 (accNeed .write)

/-- A completion write waits at system scope for the warp's earlier remote writes (R244), and behind an earlier hold of
another engine on its line (R180, R247). -/
def cwWaits (s : State) (w : WarpId) (q : List W40) (engine seq : Nat) : Bool :=
  ctlBit q 20 && ((ctlField q 18 16 = 5 && s.remotePending w) ||
    (s.warp? w).any fun x => (cwLoc s w x q).toOption.any fun l => s.engineWaits w.bay engine seq l)

/-- The completion write of a request, with its release (R155 item 2). -/
def completionWrite (s : State) (w : WarpId) (q : List W40) (l : Loc) : State :=
  let sc := ctlField q 18 16
  engineWrite (s.release w.bay sc) w l (doubleAt q 12) (fresh (wordAt q 14)) (sc = 5)

/-- The `.copy` occurrence of a request (R155 item 3). -/
def copyOccurrence (s : State) (bay : Nat) (key : TeamKey) (q : List W40) : State :=
  if ctlBit q 19 then s.occur bay (·.key = key) fun e => e.kind = 1 && e.sel = ctlField q 15 8 else s

/-- A finished request leaves the engine. -/
def copyDone (s : State) (bay : Nat) (c : CopyRun) : State :=
  (copyOccurrence s bay c.kick.key c.req).dropHolds bay 1 c.seq |>.modBay bay fun y => { y with
    copies := y.copies.filter fun d => d.seq != c.seq }

/-- COPY_COMPLETION (R155, R156, R157). -/
def execCopyCompletion (i : CopyId) (s : State) : Outcome :=
  let bay := i.bay
  match runningCopy (s.bay bay) i.n with
  | none => .fault .notEnabled
  | some c =>
    match s.warp? c.kick.warp with
    | none => .fault .notEnabled
    | some x =>
      if c.moved < reqTotal c.req || cwWaits s c.kick.warp c.req 1 c.seq || chainWaits (s.bay bay) c then .fault .notEnabled
      else if !ctlBit c.req 20 then .next (copyDone s bay c)
      else
        match cwLoc s c.kick.warp x c.req with
        | .ok l => .next (copyDone (completionWrite s c.kick.warp c.req l) bay c)
        | .error f => .next (copyFail s bay x c (if ctlBit c.req 3 then 4 else 0) (doubleAt c.req 12) .write f)

end Sys2Proof.Machine
end

