-- ==== Sys2Proof/Machine/Truss.lean ====
section
/-! DEFINITION. The truss: channels and credits, regions, region faults, exported lanes, stream bindings and the truss
commands at release (spec/07_truss_fabric.md R196 to R200, R213 to R216, R222 to R225,
spec/05_memory_control_instructions.md R158). -/

namespace Sys2Proof.Machine

/-! ## Channels (R199) -/

/-- The key of an element in its bay. -/
def ekey (row col : Nat) : Nat := row * 8 + col

/-- An element. -/
def Bay.elem (b : Bay) (row col : Nat) : Elem := agetD b.elems (ekey row col) .reset

/-- An element rewritten. -/
def Bay.modElem (b : Bay) (row col : Nat) (f : Elem → Elem) : Bay :=
  { b with elems := amod b.elems (ekey row col) .reset f }

/-- A port. -/
def Bay.port (b : Bay) (row : Nat) : Port := agetD b.ports row .reset

/-- A port rewritten. -/
def Bay.modPort (b : Bay) (row : Nat) (f : Port → Port) : Bay := { b with ports := amod b.ports row .reset f }

/-- The tokens queued at input i, oldest first. -/
def Elem.queue (e : Elem) (i : Nat) : List TTok := agetD e.queues i []

/-- The tokens in flight from output k. -/
def Elem.flying (e : Elem) (k : Nat) : List TTok := agetD e.flight k []

/-- The head of input i. -/
def Elem.head (e : Elem) (i : Nat) : Option TTok := (e.queue i).head?

/-- An element whose input i has lost its head. -/
def Elem.pop (e : Elem) (i : Nat) : Elem := { e with queues := aput e.queues i [] ((e.queue i).drop 1) }

/-- An output holds a credit (R199); one without a route drops its tokens and never waits. -/
def Bay.credit (b : Bay) (row col k : Nat) : Bool :=
  let e := b.elem row col
  match aget e.routes k with
  | none => true
  | some r => ((b.elem r.row r.col).queue r.inp).length + (e.flying k).length < 4

/-- A token sent on an output (R199). -/
def Bay.send (b : Bay) (row col k : Nat) (t : TTok) : Bay :=
  match aget (b.elem row col).routes k with
  | none => b
  | some _ => b.modElem row col fun e => { e with flight := aset e.flight k (e.flying k ++ [t]) }

/-- An end token of level 0. -/
def endTok : TTok := ⟨fresh 0, 2⟩

/-- An error token (Table 7.1). -/
def errTok (cause elem detail : Nat) : TTok :=
  ⟨fresh (BitVec.ofNat 32 (cause * 2 ^ 24 + elem % 256 * 2 ^ 16 + detail % 2 ^ 16)), 3⟩

/-! ## Regions -/

/-- A region rewritten. -/
def State.modRegion (s : State) (bay : Nat) (key : TeamKey) (idx : Nat) (f : Region → Region) : State :=
  s.modBay bay fun b => { b with regions := b.regions.map fun g => if g.key = key && g.idx = idx then f g else g }

/-- A region runs: its clock is not gated (R215, R216). -/
def Region.clocked (g : Region) : Bool := g.running && !g.faulted

/-- The rows and columns of a region. -/
def Region.cells (g : Region) : List (Nat × Nat) :=
  (List.range g.h).flatMap fun i => (List.range g.w).map fun j => (g.row + i, g.col + j)

/-- An element's number relative to its region's origin (Table 7.1). -/
def Region.elemNum (g : Region) (row col : Nat) : Nat := 8 * (row - g.row) + (col - g.col)

/-- A token enters the region from a port or the warp: its quiescence ends (R222). -/
def wakeRegion (s : State) (bay : Nat) (g : Region) : State :=
  s.modRegion bay g.key g.idx fun r => { r with quiet := false, scan := none }

/-- A token sent on a port's output; it enters the region. -/
def portSend (s : State) (p : PortId) (g : Region) (k : Nat) (t : TTok) : State :=
  wakeRegion (s.modBay p.bay fun b => b.send p.row 0 k t) p.bay g

/-- The context of a team on a bay. -/
def teamCtx (s : State) (bay : Nat) (key : TeamKey) : Nat := ((s.team? bay key).map (·.ctx)).getD 0

/-! ## Exported lanes (R47, R225) -/

/-- The position on the stack of the join entry that holds a lane out. -/
def outEntry (es : List StackEntry) (lane : Nat) : Option Nat :=
  es.findIdx? fun e => e.kind == .join && e.out.getLsbD lane

/-- A warp parked on the export return goes on once its top entry holds no lane out (R47 item 6). -/
def exportResume (s : State) (w : WarpId) : State :=
  match s.warp? w with
  | none => s
  | some x =>
    let waiting := ((allEntries s w).find? fun e => e.kind == .join).any fun e => e.out != 0
    if x.park == .exportReturn && !waiting then ((s.wakeWarp w).endGroup w).settle w else s

/-- A lane leaves the out mask of its join entry: into A when it returned, or into a pending group at the path's
entry, placed above the join entry, when it retries (R47). A push that the spill area has no room for leaves the lane
out: the warp's next boundary takes the split-overflow fault, and serving it tries the push again (R45; DESIGN CHOICE,
log entry 21). A lane that no join entry holds out, because a rollback has cut the stack below it, returns to nothing
(DESIGN CHOICE, log entry 21). -/
def laneBack (s : State) (w : WarpId) (x : Warp) (lane : Nat) (retry : Bool) : State :=
  let es := allEntries s w
  match outEntry es lane with
  | none => s.modWarp w fun y => { y with outs := adel y.outs lane }
  | some i =>
    let m : Mask := 1 <<< lane
    let path := ((aget x.outs lane).map (·.2)).getD 0
    let above := es.take i
    let below := es.drop (i + 1)
    let e := es[i]?.getD ⟨.join, 0, 0, 0⟩
    let e1 := { e with out := e.out &&& ~~~m, mask := if retry then e.mask else e.mask ||| m }
    let above1 :=
      if !retry then above
      else
        match above.reverse with
        | p :: r =>
          if p.kind == .pending && p.addr = path && !(x.acts.any fun g => g.addr = p.addr && g.mask = p.mask) then
            r.reverse ++ [{ p with mask := p.mask ||| m }]
          else above ++ [⟨.pending, path, m, 0⟩]
        | [] => [⟨.pending, path, m, 0⟩]
    let es1 := above1 ++ e1 :: below
    if stackCapacity s w < es1.length && es.length < es1.length then s.boundaryError w (.overflow lane)
    else
    let s1 := setEntries s w es1
    s1.modWarp w fun y => { y with
      outs := adel y.outs lane
      evpend := (markEvents y fun b => b.kind = 6).evpend }

/-- Every exported lane that a region holds returns to its warp to be retried (R215, R216, R225). -/
def retryLanes (s : State) (bay : Nat) (key : TeamKey) (idx : Nat) : State :=
  (s.warpsOf bay key).foldl (fun t (w, x) =>
    let lanes := (x.outs.filter fun p => p.2.1 = idx).map (·.1)
    if lanes.isEmpty then t
    else
      exportResume (lanes.foldl (fun u l => match u.warp? w with | some y => laneBack u w y l true | none => u) t) w) s

/-- Export and return buffers of a region's ports emptied. -/
def clearExports (s : State) (bay : Nat) (g : Region) : State :=
  if g.col != 0 then s
  else s.modBay bay fun b => { b with ports := b.ports.map fun (r, p) =>
    if g.row ≤ r && r < g.row + g.h then
      (r, { p with exports := [], retMark := none, retToks := [] }) else (r, p) }

/-! ## Region faults (R215) -/

/-- A region fault: TSTAT[3], the clock gated, its exported lanes retried, and a notice to the driver (R411). -/
def regionFault (s : State) (bay : Nat) (g : Region) (sub port : Nat) (f020 f038 : Double) : State :=
  let s1 := s.modRegion bay g.key g.idx fun r => { r with faulted := true, running := false, scan := none }
  let s2 := retryLanes (clearExports s1 bay g) bay g.key g.idx
  s2.notice (teamCtx s bay g.key) sub bay g.idx port g.key.tid g.key.gid 0 f020 0 f038

/-! ## The sink (R213) -/

/-- A sink looks at its count word: `n` tokens are written there and one more fits; it is full; an engine holds the line
that it would read or write; or the count word fails its check. -/
inductive SinkLook where
  | drop
  | held
  | room (pad n : Nat)
  | full
  | bad (ofs : Nat) (w : W40)
  deriving DecidableEq, Repr

/-- A sink waits while an engine holds a line that it would read or write (R180 items 5 and 6, R247). -/
def sinkWaits (s : State) (bay pad : Nat) : Bool := s.storeHeld (.pad bay pad)

/-- What the sink of a port finds (R213). A port whose SINKCAP is 0 drops its tokens. -/
def sinkLook (s : State) (p : PortId) : SinkLook :=
  let b := s.bay p.bay
  let cfg := portCfg (b.port p.row)
  let cap := (wordAt cfg 5).toNat
  if cap = 0 then .drop
  else
    match b.sinkBase p.row with
    | none => .drop
    | some base =>
      let w := s.homeWord (.pad p.bay base)
      if sinkWaits s p.bay base then .held
      else if !good w then .bad (wordAt cfg 4).toNat w
      else if cap ≤ w.v.toNat then .full
      else if sinkWaits s p.bay (base + 8 + 8 * w.v.toNat) then .held
      else .room base w.v.toNat

/-- A token written as a sink entry: its data with its code, its tag with a fresh code, the count, and the `.sink`
occurrence; an error token is counted (R213). -/
def sinkWrite (s : State) (bay : Nat) (g : Region) (base n : Nat) (t : TTok) : State :=
  let s1 := s.setHomeWords (.pad bay (base + 8 + 8 * n)) [t.w, fresh (t.tag.setWidth 32)]
  let s2 := (s1.release bay 2).setHomeWord (.pad bay base) (fresh (BitVec.ofNat 32 (n + 1)))
  let s3 := if t.tag = 3 then s2.modRegion bay g.key g.idx fun r => { r with errs := min 255 (r.errs + 1) } else s2
  s3.occur bay (·.key = g.key) fun e => e.kind = 3 && e.sel = g.idx

/-- A count word that fails its check stops the sink and faults the region (R213, R215). -/
def sinkFault (s : State) (p : PortId) (g : Region) (ofs : Nat) (w : W40) : State :=
  regionFault (s.modBay p.bay fun b => b.modPort p.row fun q => { q with sinkStop := true }) p.bay g 0x0005
    (p.row - g.row) (BitVec.ofNat 64 ofs) (badField (some w))

/-- A token taken by a sink: written, dropped, or left, and whether it was taken. A full sink waits for a write to its
count word's line. -/
def sinkTake (s : State) (p : PortId) (g : Region) (t : TTok) : State × Bool :=
  if ((s.bay p.bay).port p.row).sinkStop then (s, false)
  else
    match sinkLook s p with
    | .drop => (s, true)
    | .held => (s, false)
    | .room base n => (sinkWrite s p.bay g base n t, true)
    | .full =>
      (s.modBay p.bay fun b => b.modPort p.row fun q => { q with sinkWait := true, sinkKick := false }, false)
    | .bad ofs w => (sinkFault s p g ofs w, false)

/-- The sink of a region: the lowest of its ports whose SINKCAP is not 0. -/
def regionSink (s : State) (bay : Nat) (g : Region) : Option Nat :=
  if g.col = 0 then ((List.range g.h).map fun i => g.row + i).find? fun r => wordAt (portCfg ((s.bay bay).port r)) 5 != 0
  else none

/-- A token sent straight to the region's sink over the configuration network (R210, R214): written at once, or queued
at the sink while it cannot be taken. A region without a sink drops it. The token joins `i3` behind the tokens that are
there, as a fifth one where `i3` holds four: no rule says where it waits (DESIGN CHOICE, notes/assumptions/27.md). -/
def toSink (s : State) (bay : Nat) (g : Region) (t : TTok) : State :=
  match regionSink s bay g with
  | none => s
  | some r =>
    let (s1, taken) := sinkTake s ⟨bay, r⟩ g t
    if taken then s1
    else s1.modBay bay fun y => y.modElem r 0 fun e => { e with queues := aset e.queues 3 (e.queue 3 ++ [t]) }

/-! ## Hops (R199, R223) -/

/-- A token moved into the destination queue of a route. -/
def Bay.arrive (b : Bay) (r : Route) (t : TTok) : Bay :=
  b.modElem r.row r.col fun y => { y with queues := aset y.queues r.inp (y.queue r.inp ++ [t]) }

/-- The export token that leaves a port on `o1` next, when its region's clock runs and the output has credit
(R223). -/
def exportNext (b : Bay) (row : Nat) : Option TTok :=
  match b.regionAt row 0 with
  | some g => if g.clocked && b.credit row 0 1 then (b.port row).exports.head? else none
  | none => none

/-- TOKEN_HOP (R199): the oldest token in flight on an output arrives at its destination. From a port's `o1` with
nothing in flight the next token of the export buffer sets out and arrives (R223). -/
def execTokenHop (e : ElemId) (k : Nat) (s : State) : Outcome :=
  let b := s.bay e.bay
  let x := b.elem e.row e.col
  match aget x.routes k, x.flying k with
  | some r, t :: rest =>
    .next (s.setBay e.bay
      ((b.modElem e.row e.col fun y => { y with flight := aput y.flight k [] rest }).arrive r t))
  | route, _ =>
    if e.col = 0 && k = 1 then
      match exportNext b e.row with
      | some t =>
        let b1 := b.modPort e.row fun p => { p with exports := p.exports.drop 1 }
        .next (s.setBay e.bay (match route with | some r => b1.arrive r t | none => b1))
      | none => .fault .notEnabled
    else .fault .notEnabled

/-! ## Stream bindings (R158, R214) -/

/-- The engine number of a port's stream in the holds of its bay. -/
def streamEngine (row : Nat) (dir : Bool) : Nat := 2 + 2 * row + (if dir then 1 else 0)

/-- A port's binding of a direction: false memory to truss, true truss to memory. -/
def Port.bind (p : Port) (dir : Bool) : Option StreamBind := if dir then p.outBind else p.inBind

/-- A port's binding of a direction replaced. -/
def Port.setBind (p : Port) (dir : Bool) (c : Option StreamBind) : Port :=
  if dir then { p with outBind := c } else { p with inBind := c }

/-- A binding removed with its holds. -/
def unbind (s : State) (bay row : Nat) (dir : Bool) : State :=
  match ((s.bay bay).port row).bind dir with
  | none => s
  | some c => (s.modBay bay fun b => b.modPort row fun p => p.setBind dir none).dropHolds bay (streamEngine row dir) c.seq

/-- A binding ends with an engine error of its warp (R214). -/
def bindError (s : State) (bay row : Nat) (dir : Bool) : State :=
  match ((s.bay bay).port row).bind dir with
  | none => s
  | some c => ((unbind s bay row dir).engineError c.warp).failIssued c.warp c.seq

/-- STRBIND at release (R158, R214): the request is read and checked as the copy engine does (R157), and the port
takes its holds. A binding of the same direction that has not finished, or a port that the region lacks, is an
engine error. -/
def strbind (s : State) (w : WarpId) (x : Warp) (dir : Bool) (port r ofs : Nat) : State :=
  match (s.bay w.bay).teamRegion x.key r, s.team? w.bay x.key with
  | some g, some t =>
    let row := g.row + port
    if g.col != 0 || g.h ≤ port || (((s.bay w.bay).port row).bind dir).isSome then s.engineError w
    else
      match requestWords s w.bay t ofs with
      | none => s.engineError w
      | some q =>
        if !requestOk s t q (!dir) dir || !q.all good then s.engineWordError w (firstBad q)
        else
          let (seq, s1) := s.newSeq
          let c : StreamBind := ⟨x.key, w, ofs, q, 0, none, false, seq⟩
          let s2 := s1.modBay w.bay fun b => b.modPort row fun p => p.setBind dir (some c)
          takeRequestHolds s2 w x q (!dir) dir (streamEngine row dir) seq 0
  | _, _ => s.engineError w

/-- The requests and bindings of a bay that a condition on their team and their stalled record selects take holds on the
lines that they do not hold yet: they resume, which counts as issue for those lines (R247). -/
def State.rehold (s : State) (bay : Nat) (p : TeamKey → Option Nat → Bool) : State :=
  let run (t : State) (c : CopyRun) : State :=
    match t.warp? c.kick.warp with
    | some x => if p c.kick.key c.stalled then takeRequestHolds t c.kick.warp x c.req true true 1 c.seq c.moved else t
    | none => t
  let bind (row : Nat) (dir : Bool) (t : State) (c : StreamBind) : State :=
    match t.warp? c.warp with
    | some x =>
      if p c.key c.stalled then takeRequestHolds t c.warp x c.req (!dir) dir (streamEngine row dir) c.seq c.moved else t
    | none => t
  (s.bay bay).ports.foldl (fun t (row, q) => q.outBind.toList.foldl (bind row true) (q.inBind.toList.foldl (bind row false) t))
    ((s.bay bay).copies.foldl run s)

/-- `TRET` and RESUME (R369) with what they mean for an engine: a stalled request or binding that goes on takes the holds
that it lacks (R247). -/
def State.serve (s : State) (issuer : Nat) (a : Double) : State :=
  match namedRecord s issuer a with
  | none => s
  | some r =>
    (match r.agent with
      | .copy b _ => s.rehold b fun _ n => n = some r.num
      | .stream q _ _ => s.rehold q.bay fun _ n => n = some r.num
      | _ => s).tret issuer a

/-- TSTART at release (R158, R216, R228): no effect on an unloaded or faulted region. A region is loaded as soon as its
full image has been accepted; its elements start one by one (R219). TSTAT[2] of a region that is quiet stays as it is
over TSTOP and TSTART: until an element fires the region is not scanned again and `.quiet` is not raised again, which R222
does not say (DESIGN CHOICE, notes/assumptions/27.md). -/
def tstart (s : State) (w : WarpId) (x : Warp) (r : Nat) : State :=
  s.modRegion w.bay x.key r fun g => if g.image.isSome && !g.faulted then { g with running := true, scan := none } else g

/-- TSTOP at release (R216). -/
def tstop (s : State) (w : WarpId) (x : Warp) (r : Nat) : State :=
  s.modRegion w.bay x.key r fun g => { g with running := false, scan := none }

/-- TLOAD at release: the loader receives the command with the translation taken at firing (R220, R127). -/
def tload (s : State) (w : WarpId) (x : Warp) (r image : Nat) (va : Double) (loc : Option Loc) : State :=
  let (n, s1) := s.newSeq
  s1.modRegion w.bay x.key r fun g => { g with loads := g.loads ++ [⟨w, va, loc, image, n⟩] }

/-- STRBIND's reading of its request waits while an engine holds the request's line (R180, R247). -/
def strbindWaits (s : State) (w : WarpId) (x : Warp) (dir : Bool) (port r ofs : Nat) : Bool :=
  match (s.bay w.bay).teamRegion x.key r, s.team? w.bay x.key with
  | some g, some t => requestWaits s w.bay (streamEngine (g.row + port) dir) s.holdSeq t ofs
  | _, _ => false

/-- A truss command waits behind a load that its region has not yet performed, so that commands act in order. -/
def trussBusy (s : State) (w : WarpId) (x : Warp) (r : Nat) : Bool :=
  ((s.bay w.bay).teamRegion x.key r).any fun g => !g.loads.isEmpty

end Sys2Proof.Machine
end

