-- ==== Sys2Proof/Machine/Element.lean ====
section
/-! DEFINITION. The element operations of the truss: triggers, operands, the firing with its predicates and double
firing, and the 32 operations (spec/07_truss_fabric.md R200 to R210, R221). -/

namespace Sys2Proof.Machine

/-! ## Triggers (R202) -/

/-- The instruction in slot k of a plane: three words, bits [31:0] first (R201). Plane 0 or 1 is `second`. -/
def Elem.slotWord (e : Elem) (second : Bool) (k : Nat) : BitVec 96 :=
  let w (i : Nat) : Word := (agetD e.planes ((if second then 48 else 0) + 3 * k + i) .zero).v
  w 2 ++ w 1 ++ w 0

/-- A head token passes an HTEST code (Table 7.2). -/
def headPasses (test : Nat) (t : TTok) : Bool :=
  match test with
  | 0 => t.tag == 0 || t.tag == 3
  | 1 => t.tag == 1
  | 2 => t.tag == 2
  | _ => true

/-- The inputs in NEED hold heads that pass their HTEST. -/
def needsMet (e : Elem) (x : ElemWord) : Bool :=
  [0, 1, 2, 3].all fun k => !x.need.getLsbD k ||
    (match e.head k with
     | some t => headPasses (x.htest.extractLsb' (2 * k) 2).toNat t
     | none => false)

/-- The outputs that a firing might use (R202, R208): OMASK, and for STEER IMM[11:8] too. -/
def outputsOf (op : Nat) (x : ElemWord) : BitVec 4 := if op = 28 then x.omask ||| x.imm.extractLsb' 8 4 else x.omask

/-- The sources that the operation uses and that name an input name one in NEED (R202). -/
def sourcesNeeded (op : Nat) (x : ElemWord) : Bool :=
  (!(elemUses op x).1 || 4 ≤ x.srca.toNat || x.need.getLsbD x.srca.toNat) &&
    (!(elemUses op x).2 || 4 ≤ x.srcb.toNat || x.need.getLsbD x.srcb.toNat)

/-- An instruction is ready at an element of a bay (R202). -/
def elemReady (b : Bay) (row col op : Nat) (x : ElemWord) : Bool :=
  let e := b.elem row col
  (e.preds &&& x.pcare) == (x.pval &&& x.pcare) && needsMet e x && sourcesNeeded op x &&
    [0, 1, 2, 3].all fun k => !(outputsOf op x).getLsbD k || b.credit row col k

/-- An element may fire: its region's clock runs, it has its configuration, and no plane-only load into it is
incomplete (R215, R219, R221). -/
def mayFire (b : Bay) (row col : Nat) : Bool :=
  (match b.regionAt row col with | some g => g.clocked | none => false) && (b.elem row col).started &&
    (b.elem row col).pref != 1

/-! ## Operands (R200) -/

/-- A token as `check` leaves it: a bad one is replaced by an error token with CAUSE 0x02, and DETAIL 0 where no index is
named (DESIGN CHOICE, log entry 15). -/
def checkTok (num : Nat) (t : TTok) : TTok := if good t.w then t else errTok 0x02 num 0

/-- Local k. -/
def Elem.local? (e : Elem) (k : Nat) : W40 := agetD e.locals k .zero

/-- The operand that a source names: a head, a local, or for b the immediate. -/
def sourceTok (e : Elem) (num : Nat) (x : ElemWord) (src : BitVec 3) (isB : Bool) : TTok :=
  if src.toNat < 4 then checkTok num ((e.head src.toNat).getD ⟨.zero, 0⟩)
  else if isB && src = 7 then ⟨fresh (x.imm.signExtend 32), 0⟩
  else checkTok num ⟨e.local? (src.toNat - 4), 0⟩

/-- What a firing reads: the element, its number, the word, the operands, and the first error among those read. -/
structure FireIn where
  e : Elem
  num : Nat
  x : ElemWord
  a : TTok
  b : TTok
  err : Option TTok

/-- A firing's reads. -/
def readFire (e : Elem) (num op : Nat) (x : ElemWord) : FireIn :=
  let u := elemUses op x
  let a := sourceTok e num x x.srca false
  let b := sourceTok e num x x.srcb true
  ⟨e, num, x, a, b, if u.1 && a.tag == 3 then some a else if u.2 && b.tag == 3 then some b else none⟩

/-- The local that LDST names (R200's implicit read). -/
def FireIn.cur (i : FireIn) : W40 := i.e.local? i.x.ldst.toNat

/-! ## What a firing does -/

/-- The effects of a firing (R203): the token sent and to which outputs, the locals written, the test result, the bits
that PSETF copies, the inputs dequeued, the SRAM word written, and whether an SRAM read was uncorrectable. -/
structure Firing where
  out : Option TTok := none
  mask : BitVec 4
  dst : Option W40 := none
  l3 : Option W40 := none
  test : Option Bool := none
  bits : Byte := 0xFF
  deq : BitVec 4
  sram : Option (Nat × W40) := none
  bad : Bool := false

/-- A firing that sends a token to OMASK and dequeues DEQ. -/
def FireIn.sends (i : FireIn) (t : TTok) : Firing := { out := some t, mask := i.x.omask, deq := i.x.deq }

/-- A computed result: sent with tag OTAG, and written to the local (R204). -/
def FireIn.result (i : FireIn) (w : W40) : Firing := { i.sends ⟨w, i.x.otag⟩ with dst := some w }

/-- A firing with an error token (R209): sent to the outputs; no local, no SRAM; t is 0 for a test. -/
def FireIn.fails (i : FireIn) (t : TTok) (isTest : Bool) : Firing :=
  { i.sends t with test := if isTest then some false else none }

/-- The second of R200's implicit reads: a local that fails its check makes the firing fail with CAUSE 0x02. -/
def FireIn.withLocals (i : FireIn) (ls : List W40) (isTest : Bool) (k : Firing) : Firing :=
  if ls.all good then k else i.fails (errTok 0x02 i.num 0) isTest

/-- A computing operation: an error operand passes, otherwise f gives the result from the operand values. -/
def computes (f : Word → Word → Word) (i : FireIn) : Firing :=
  match i.err with
  | some t => i.fails t false
  | none => i.result (fresh (f i.a.w.v i.b.w.v))

/-- A test: 1 or 0 is the result, and t goes to the predicates (R205). -/
def tests (f : Word → Word → Bool) (i : FireIn) : Firing :=
  match i.err with
  | some t => i.fails t true
  | none => { i.result (fresh (if f i.a.w.v i.b.w.v then 1 else 0)) with test := some (f i.a.w.v i.b.w.v) }

/-- A token passed on with its code (R204): its tag as given. -/
def passes (i : FireIn) (t : TTok) (tag : BitVec 2) : Firing :=
  match i.err with
  | some e => i.fails e false
  | none => { i.sends ⟨t.w, tag⟩ with dst := some t.w }

/-- Predicates after a firing (R205): PSETF takes the given bits, or t; PCLRF takes 0, or not t, and wins. -/
def predsAfter (q : Byte) (x : ElemWord) (r : Firing) : Byte :=
  let set : Byte := match r.test with | some true => x.psetf | some false => 0 | none => r.bits &&& x.psetf
  let q1 := (q &&& ~~~x.psetf) ||| set
  let clr : Byte := match r.test with | some false => x.pclrf | _ => 0
  (q1 &&& ~~~x.pclrf) ||| clr

/-- The end token of a round (R198). -/
def roundEnd (t : TTok) : Bool := t.tag == 2 && t.w.v == 0xFFFFFFFF

/-- The inputs of a set lose their heads; an end of round among them swaps a complete prefetching plane in (R221). -/
def dequeueAll (e : Elem) (deq : BitVec 4) : Elem :=
  let ks := [0, 1, 2, 3].filter fun k => deq.getLsbD k
  let swap := e.pref = 2 && (ks.any fun k => ((e.head k).map roundEnd).getD false)
  let e1 := ks.foldl Elem.pop e
  if swap then { e1 with act := !e1.act, preds := 0, pref := 0 } else e1

/-- A firing's effects at its element (R203): outputs, locals and SRAM, predicates, dequeues. -/
def applyFiring (b : Bay) (row col : Nat) (x : ElemWord) (r : Firing) : Bay :=
  let b1 := match r.out with
    | some t => [0, 1, 2, 3].foldl (fun (y : Bay) k => if r.mask.getLsbD k then y.send row col k t else y) b
    | none => b
  b1.modElem row col fun e =>
    let e1 := match r.dst with
      | some w => if x.ldst.toNat < 4 then { e with locals := aput e.locals x.ldst.toNat .zero w } else e
      | none => e
    let e2 := match r.l3 with | some w => { e1 with locals := aput e1.locals 3 .zero w } | none => e1
    let e3 := match r.sram with | some (k, w) => { e2 with sram := aput e2.sram k .zero w } | none => e2
    dequeueAll { e3 with preds := predsAfter e3.preds x r } r.deq

/-- FIRING an element operation that is ready (R202, R203, R210). A firing whose two computations differ delivers
nothing: it counts in DBLF (R408), sends an error token with CAUSE 0x03 and DETAIL 0 (DESIGN CHOICE, log entry 15) to the
sink, and faults the region. R210 names outputs, locals and SRAM: that such a firing dequeues nothing and changes no
predicate is the model's choice (DESIGN CHOICE, notes/assumptions/27.md). -/
def fireElem (op : Nat) (f : FireIn → Firing) (x : ElemWord) (s : State) : Outcome :=
  match s.cur with
  | .elem e =>
    match (s.bay e.bay).regionAt e.row e.col with
    | none => .fault .notEnabled
    | some g =>
      if !(mayFire (s.bay e.bay) e.row e.col && elemReady (s.bay e.bay) e.row e.col op x) then .fault .notEnabled
      else
        let s : State := { s with cur := .none }
        let num := g.elemNum e.row e.col
        let el := (s.bay e.bay).elem e.row e.col
        let s0 := s.modRegion e.bay g.key g.idx fun r => { r with fires := r.fires + 1, quiet := false }
        if el.glitch then
          let t := errTok 0x03 num 0
          let s1 := s0.modBay e.bay fun b =>
            { b.modElem e.row e.col (fun y => { y with glitch := false }) with dblf := b.dblf + 1 }
          let s2 := (toSink s1 e.bay g t).logEvent 0x08 0 e.bay (BitVec.ofNat 64 num) 0x03 (teamCtx s e.bay g.key)
          .next (regionFault s2 e.bay g 0x0001 0 0 (t.w.v.setWidth 64))
        else
          let r := f (readFire el num op x)
          let s1 := s0.modBay e.bay fun b => applyFiring b e.row e.col x r
          .next (if r.bad then
              regionFault s1 e.bay g 0x0002 0 0 (((r.out.map fun (t : TTok) => t.w.v).getD 0).setWidth 64) else s1)
  | _ => .fault .notEnabled

/-! ## SRAM (R207) -/

/-- What a read of an SRAM word gives: an index out of range or an uncorrectable word gives an error token. -/
def sramAt (i : FireIn) (idx : Nat) (detail : Nat) (isTest : Bool) (k : W40 → Firing) : Firing :=
  if 1024 ≤ idx then i.fails (errTok 0x01 i.num detail) isTest
  else
    let w := agetD i.e.sram idx .zero
    if w.p then { i.fails (errTok 0x04 i.num detail) isTest with bad := true } else k w

/-- The index A + sext(IMM). -/
def sramIndex (i : FireIn) : Word := i.a.w.v + i.x.imm.signExtend 32

/-- The function that UPD's IMM[2:0] selects. -/
def updFn (k : Nat) (old b : Word) : Word :=
  match k with
  | 0 => old + b
  | 1 => if old.toInt ≤ b.toInt then old else b
  | 2 => if old.toInt ≤ b.toInt then b else old
  | 3 => old ||| b
  | 4 => old ^^^ b
  | 5 => BitVec.ofNat 32 (fpAdd f32 ⟨0, .rne, 0⟩ old.toNat b.toNat 0)
  | _ => b

/-! ## Meanings -/

/-- An FP32 operation of R204: RNE, subnormals preserved, R109 for special operands. -/
def elemFp (f : FpOp) (a b c : Word) : Word := BitVec.ofNat 32 (f f32 ⟨0, .rne, 0⟩ a.toNat b.toNat c.toNat)

/-- ELEM_ADD (R204). -/
def execElemAdd (x : ElemWord) (s : State) : Outcome := fireElem 0 (computes fun a b => a + b) x s

/-- ELEM_SUB (R204). -/
def execElemSub (x : ElemWord) (s : State) : Outcome := fireElem 1 (computes fun a b => a - b) x s

/-- ELEM_MUL (R204). -/
def execElemMul (x : ElemWord) (s : State) : Outcome := fireElem 2 (computes fun a b => a * b) x s

/-- ELEM_FADD (R204). -/
def execElemFadd (x : ElemWord) (s : State) : Outcome := fireElem 3 (computes fun a b => elemFp fpAdd a b 0) x s

/-- ELEM_FMUL (R204). -/
def execElemFmul (x : ElemWord) (s : State) : Outcome := fireElem 4 (computes fun a b => elemFp fpMul a b 0) x s

/-- ELEM_FFMA (R204): A × B + dst rounded once; dst is read implicitly. -/
def execElemFfma (x : ElemWord) (s : State) : Outcome :=
  fireElem 5 (fun i =>
    match i.err with
    | some t => i.fails t false
    | none => i.withLocals [i.cur] false (i.result (fresh (elemFp fpFma i.a.w.v i.b.w.v i.cur.v)))) x s

/-- ELEM_AND (R204). -/
def execElemAnd (x : ElemWord) (s : State) : Outcome := fireElem 6 (computes fun a b => a &&& b) x s

/-- ELEM_OR (R204). -/
def execElemOr (x : ElemWord) (s : State) : Outcome := fireElem 7 (computes fun a b => a ||| b) x s

/-- ELEM_XOR (R204). -/
def execElemXor (x : ElemWord) (s : State) : Outcome := fireElem 8 (computes fun a b => a ^^^ b) x s

/-- ELEM_SHL (R204). -/
def execElemShl (x : ElemWord) (s : State) : Outcome :=
  fireElem 9 (computes fun a b => if b.toNat < 32 then a <<< b.toNat else 0) x s

/-- ELEM_SHR (R204). -/
def execElemShr (x : ElemWord) (s : State) : Outcome :=
  fireElem 10 (computes fun a b => if b.toNat < 32 then a >>> b.toNat else 0) x s

/-- ELEM_CMPEQ (R204, R205). -/
def execElemCmpeq (x : ElemWord) (s : State) : Outcome := fireElem 11 (tests fun a b => a == b) x s

/-- ELEM_CMPLT (R204, R205). -/
def execElemCmplt (x : ElemWord) (s : State) : Outcome := fireElem 12 (tests fun a b => a.slt b) x s

/-- ELEM_CMPLTN (R204, R205). -/
def execElemCmpltn (x : ElemWord) (s : State) : Outcome := fireElem 13 (tests fun a b => a.ult b) x s

/-- ELEM_MIN (R204). -/
def execElemMin (x : ElemWord) (s : State) : Outcome := fireElem 14 (computes fun a b => if b.slt a then b else a) x s

/-- ELEM_MAX (R204). -/
def execElemMax (x : ElemWord) (s : State) : Outcome := fireElem 15 (computes fun a b => if a.slt b then b else a) x s

/-- ELEM_SEL (R204): a when the predicate that IMM[2:0] names is 1, else b. -/
def execElemSel (x : ElemWord) (s : State) : Outcome :=
  fireElem 16 (fun i => passes i (if i.e.preds.getLsbD (bitsOf x.imm 2 0) then i.a else i.b) x.otag) x s

/-- ELEM_MOV (R204). -/
def execElemMov (x : ElemWord) (s : State) : Outcome := fireElem 17 (fun i => passes i i.a x.otag) x s

/-- ELEM_DEQ (R204): the a token with its own tag. -/
def execElemDeq (x : ElemWord) (s : State) : Outcome := fireElem 18 (fun i => passes i i.a i.a.tag) x s

/-- ELEM_TAG (R204). -/
def execElemTag (x : ElemWord) (s : State) : Outcome := fireElem 19 (fun i => i.result (fresh (x.imm.setWidth 32))) x s

/-- ELEM_PSET (R205): the predicates of PSETF take the bits of A. An error operand leaves A the error token's
data. -/
def execElemPset (x : ElemWord) (s : State) : Outcome :=
  fireElem 20 (fun i => { mask := 0, deq := x.deq, bits := i.a.w.v.setWidth 8 }) x s

/-- ELEM_PCLR (R204). -/
def execElemPclr (x : ElemWord) (s : State) : Outcome := fireElem 21 (fun _ => { mask := 0, deq := x.deq }) x s

/-- ELEM_CNT (R206). -/
def execElemCnt (x : ElemWord) (s : State) : Outcome :=
  fireElem 22 (fun i => i.withLocals [i.cur] false (i.result (fresh (i.cur.v + x.imm.signExtend 32)))) x s

/-- ELEM_LD (R207): the SRAM word with its code. -/
def execElemLd (x : ElemWord) (s : State) : Outcome :=
  fireElem 23 (fun i =>
    match i.err with
    | some t => i.fails t false
    | none => sramAt i (sramIndex i).toNat (sramIndex i).toNat false fun w => i.result w) x s

/-- ELEM_ST (R207): the b token is stored with its code, and the index is the result. -/
def execElemSt (x : ElemWord) (s : State) : Outcome :=
  fireElem 24 (fun i =>
    match i.err with
    | some t => i.fails t false
    | none =>
      let k := (sramIndex i).toNat
      if 1024 ≤ k then i.fails (errTok 0x01 i.num k) false
      else { i.result (fresh (sramIndex i)) with sram := some (k, i.b.w) }) x s

/-- ELEM_TAS (R207). -/
def execElemTas (x : ElemWord) (s : State) : Outcome :=
  fireElem 25 (fun i =>
    match i.err with
    | some t => i.fails t true
    | none =>
      let bit := i.a.w.v.toNat
      sramAt i (bit / 32) bit true fun w =>
        if !good w then i.fails (errTok 0x02 i.num bit) true
        else
          let t := w.v.getLsbD (bit % 32)
          { i.result (fresh (if t then 1 else 0)) with
            test := some t
            sram := some (bit / 32, fresh (w.v ||| 1 <<< (bit % 32))) }) x s

/-- ELEM_UPD (R207): the old word is the result. -/
def execElemUpd (x : ElemWord) (s : State) : Outcome :=
  fireElem 26 (fun i =>
    match i.err with
    | some t => i.fails t false
    | none =>
      let k := i.a.w.v.toNat
      sramAt i k k false fun w =>
        if !good w then i.fails (errTok 0x02 i.num k) false
        else { i.result (fresh w.v) with sram := some (k, fresh (updFn (bitsOf x.imm 2 0) w.v i.b.w.v)) }) x s

/-- ELEM_GEN (R206): `l3` holds the count. -/
def execElemGen (x : ElemWord) (s : State) : Outcome :=
  fireElem 27 (fun i =>
    let n := i.e.local? 3
    i.withLocals [i.cur, n] true
      (if n.v != 0 then
        { i.sends ⟨fresh i.cur.v, x.otag⟩ with
          dst := some (fresh (i.cur.v + x.imm.signExtend 32))
          l3 := some (fresh (n.v - 1))
          test := some true }
       else { i.sends endTok with test := some false })) x s

/-- ELEM_STEER (R208): the a token, to OMASK when the predicate is 1, otherwise to IMM[11:8]. -/
def execElemSteer (x : ElemWord) (s : State) : Outcome :=
  fireElem 28 (fun i =>
    { passes i i.a i.a.tag with
      mask := if i.e.preds.getLsbD (bitsOf x.imm 2 0) then x.omask else x.imm.extractLsb' 8 4 }) x s

/-- ELEM_MERGE (R208): an ordered merge. It ignores DEQ: it dequeues the head it passes, or both marker or end heads. -/
def execElemMerge (x : ElemWord) (s : State) : Outcome :=
  fireElem 29 (fun i =>
    let ka : BitVec 4 := 1 <<< x.srca.toNat
    let kb : BitVec 4 := 1 <<< x.srcb.toNat
    let go (t : TTok) (deq : BitVec 4) : Firing :=
      { i.sends t with dst := if t.tag = 3 then none else some t.w, deq := deq }
    if i.a.tag = 3 then go i.a ka
    else if i.b.tag = 3 then go i.b kb
    else if i.a.tag = 0 && (i.b.tag != 0 || i.a.w.v.toNat ≤ i.b.w.v.toNat) then go i.a ka
    else if i.b.tag = 0 then go i.b kb
    else go i.a (ka ||| kb)) x s

/-- ELEM_JOIN (R206): counts, and on the match sends its token and starts again; with IMM 0 it never does. An error
operand is passed on while the counter still changes (R209). -/
def execElemJoin (x : ElemWord) (s : State) : Outcome :=
  fireElem 30 (fun i =>
    let n := i.cur.v + 1
    let hit := x.imm != 0 && n == x.imm.setWidth 32
    let count := some (fresh (if hit then 0 else n))
    match i.err with
    | some t => { i.fails t true with dst := if good i.cur then count else none }
    | none =>
      i.withLocals [i.cur] true
        { out := if hit then some ⟨fresh (if x.srcb = 1 then i.a.w.v else 0), x.otag⟩ else none
          mask := x.omask, dst := count, test := some hit, deq := x.deq }) x s

/-- ELEM_ERR (R204): an error token with CAUSE 0x80; no local. -/
def execElemErr (x : ElemWord) (s : State) : Outcome :=
  fireElem 31 (fun i => i.sends (errTok 0x80 i.num x.imm.toNat)) x s

end Sys2Proof.Machine
end

