-- ==== Sys2Proof/Machine/Port.lean ====
section
/-! DEFINITION. The port elements: load requests and replies, the sink, stream bindings, export returns, and the
emptiness detector (spec/07_truss_fabric.md R211 to R214, R222 to R225,
spec/11_programs_stream_bfs.md R290). -/

namespace Sys2Proof.Machine

/-- The region of a port whose clock runs and whose port has its configuration (R215, R216, R219). -/
def portRegion (s : State) (p : PortId) : Option Region :=
  match (s.bay p.bay).regionAt p.row 0 with
  | some g => if g.clocked && ((s.bay p.bay).elem p.row 0).started then some g else none
  | none => none

/-- The head of a port's input. -/
def portHead (s : State) (p : PortId) (i : Nat) : Option TTok := ((s.bay p.bay).elem p.row 0).head i

/-- A port's input loses its head. -/
def portPop (s : State) (p : PortId) (i : Nat) : State := s.modBay p.bay fun b => b.modElem p.row 0 fun e => e.pop i

/-- A port rewritten. -/
def State.modPort (s : State) (p : PortId) (f : Port → Port) : State := s.modBay p.bay fun b => b.modPort p.row f

/-- A port's output holds credit. -/
def portCredit (s : State) (p : PortId) (k : Nat) : Bool := (s.bay p.bay).credit p.row 0 k

/-! ## Load requests (R212, R290) -/

/-- PORT_LOAD_REQUEST: the head of `i2` takes one of the 16 places. A token that is no data token passes in its place
(R290); a request that fails its check becomes an error token with CAUSE 0x02 (R200). -/
def execPortLoadRequest (p : PortId) (s : State) : Outcome :=
  match portRegion s p, portHead s p 2 with
  | some g, some t =>
    if 16 ≤ ((s.bay p.bay).port p.row).reqs.length then .fault .notEnabled
    else
      let r : PortReq :=
        if t.tag != 0 then ⟨0, some t⟩
        else if good t.w then ⟨t.w.v, none⟩
        else ⟨0, some (errTok 0x02 (g.elemNum p.row 0) 0)⟩
      .next ((portPop s p 2).modPort p fun q => { q with reqs := q.reqs ++ [r] })
  | _, _ => .fault .notEnabled

/-- Where a port's load finds its word (R212, R231, R234): a plain load of the team in SPACE. R212 asks only that the
offset be 4-aligned: a BASE that is not is neither rejected at the load nor answered by an error, and the word is the
one at the sum itself (DESIGN CHOICE, notes/assumptions/27.md). -/
def portLoc (s : State) (p : PortId) (g : Region) (space : Nat) (a : Double) : Except AddrFail Loc :=
  let ctx := teamCtx s p.bay g.key
  if space = 0 then
    if !canonical a then .error .bounds
    else
      match s.translate ctx a (accNeed .read) with
      | .ok l => .ok l
      | .error f => .error (.walk f)
  else if space = 2 then
    match s.team? p.bay g.key with
    | some t => if a.toNat + 4 ≤ t.decl then .ok (.pad p.bay (t.bspBase + a.toNat)) else .error .bounds
    | none => .error .bounds
  else
    let c := s.ctx ctx
    if a.toNat + 4 ≤ c.lftn * 65536 then .ok (.phys (Config.loftBase + c.lftb * 65536 + a.toNat)) else .error .bounds

/-- The record of a stalled port (Tables 16.1, 16.2): kind 0x11, or 0x03 for a bad page-table entry. -/
def portRecord (s : State) (p : PortId) (g : Region) (space : Nat) (a : Double) (f : WalkFail) : Record :=
  let kind := if f.kind = 0x03 then 0x03 else 0x11
  let ctx := teamCtx s p.bay g.key
  let i : RecInfo := { kind := kind, sub := f.sub, va := a, space := space, level := f.level, pa := f.pa, bad := f.bad }
  let m := headerWords ctx kind 2 p.bay 0 g.idx (p.row - g.row) g.key.tid g.key.gid
  ⟨s.recNum, ctx, kind, .port p g.idx, bodyWords m 0 0 0 i, none⟩

/-- A reply leaves `o2`, in request order. -/
def portReply (s : State) (p : PortId) (g : Region) (t : TTok) : State :=
  (portSend s p g 2 t).modPort p fun q => { q with reqs := q.reqs.drop 1 }

/-- PORT_LOAD_REPLY (R212): the oldest request is performed and its reply, or error reply, leaves `o2`. It reads the home,
so it waits for every engine that holds the line as a destination (R180 items 3, 5, 6, R247). A translation fault without
XFT stalls the port instead, with a record. -/
def execPortLoadReply (p : PortId) (s : State) : Outcome :=
  let q := (s.bay p.bay).port p.row
  match portRegion s p, q.reqs with
  | some g, r :: _ =>
    if !portCredit s p 2 || q.stalled.isSome then .fault .notEnabled
    else
      match r.pass with
      | some t => .next (portReply s p g t)
      | none =>
        let cfg := portCfg q
        let space := bitsOf (wordAt cfg 3) 2 0
        let a := doubleAt cfg 0 + r.ofs.setWidth 64
        let refuse (cause : Nat) : TTok := errTok cause (g.elemNum p.row 0) r.ofs.toNat
        if r.ofs.toNat % 4 != 0 || (wordAt cfg 2).toNat < r.ofs.toNat + 4 then .next (portReply s p g (refuse 0x01))
        else
          match portLoc s p g space a with
          | .ok l =>
            if (s.holdsOn l).any (·.2.write) then .fault .notEnabled else .next (portReply s p g ⟨engineRead s p.bay l, 0⟩)
          | .error f =>
            match f with
            | .walk w =>
              if w.kind = 0x02 then
                let t := refuse 0x05
                .next (regionFault (portReply s p g t) p.bay g 0x0003 (p.row - g.row) a (t.w.v.setWidth 64))
              else if (wordAt cfg 3).getLsbD 3 then .next (portReply (s.listPoison w) p g (refuse 0x07))
              else
                .next (((s.listPoison w).modPort p fun q => { q with stalled := some s.recNum }).addRecord
                  (portRecord s p g space a w))
            | _ => .next (portReply s p g (refuse 0x01))
  | _, _ => .fault .notEnabled

/-! ## The sink (R213) -/

/-- The head of `i3` offered to the sink. -/
def sinkHead (s : State) (p : PortId) (g : Region) (t : TTok) : State :=
  let (s1, taken) := sinkTake s p g t
  if taken then portPop s1 p 3 else s1

/-- SINK_DEQUEUE (R213). -/
def execSinkDequeue (p : PortId) (s : State) : Outcome :=
  let q := (s.bay p.bay).port p.row
  match portRegion s p, portHead s p 3 with
  | some g, some t => if q.sinkWait || q.sinkStop || sinkLook s p = .held then .fault .notEnabled
    else .next (sinkHead s p g t)
  | _, _ => .fault .notEnabled

/-- SINK_RECHECK (R213): after a write to its count word's line a full sink reads the count word again. -/
def execSinkRecheck (p : PortId) (s : State) : Outcome :=
  let q := (s.bay p.bay).port p.row
  match portRegion s p with
  | none => .fault .notEnabled
  | some g =>
    if !(q.sinkWait && q.sinkKick) || sinkLook s p = .held then .fault .notEnabled
    else
      let s1 := s.modPort p fun q => { q with sinkWait := false, sinkKick := false }
      .next (match portHead s1 p 3 with | some t => sinkHead s1 p g t | none => s1)

/-! ## Streams (R214, R155, R157) -/

/-- A binding's next pattern position as a location: never on a remote page, which only lane stores and the copy engine
write (R363). -/
def bindLoc (s : State) (c : StreamBind) (x : Warp) (dir : Bool) : Except AddrFail Loc :=
  match sideLoc s c.warp x c.req dir c.moved with
  | .ok (.remote _ _) => .error (.walk ⟨0x02, 0, 0, 0, none⟩)
  | r => r

/-- A binding that fails at an address (R214): it stalls with a record, or ends with an engine error. -/
def bindFail (s : State) (p : PortId) (dir : Bool) (c : StreamBind) (x : Warp) (space : Nat) (va : Double) (acc : Access)
    (f : AddrFail) : State :=
  match stalls f with
  | some g =>
    let r := stallRecord s c.warp x (.stream p dir c.warp) c.ofs c.moved space va acc g
    ((s.listPoison g).modPort p fun q => q.setBind dir (some { c with stalled := some s.recNum })).addRecord r
  | none => bindError s p.bay p.row dir

/-- A binding's countdown waits for an earlier hold on its barrier record's line (R180, R247). -/
def bindWaits (s : State) (p : PortId) (dir : Bool) (c : StreamBind) : Bool :=
  countWaits s c.warp c.req (streamEngine p.row dir) c.seq

/-- Bytes counted down on OUT of the named record (R155 item 1); a failed update ends the binding (R143). -/
def bindCount (s : State) (p : PortId) (dir : Bool) (c : StreamBind) (n : Nat) : State × Bool :=
  if !ctlBit c.req 21 || n = 0 then (s, true)
  else
    let (s1, ok) := engineUpdate s (.stream p dir c.warp) c.warp false (ctlField c.req 7 4) (BitVec.ofInt 32 (-(n : Int))) 0
    if ok then (s1, true) else (unbind s1 p.bay p.row dir, false)

/-- The end token of a finished DIR 1 pattern leaves `o3`, at once when it has credit (R211). -/
def sendEnd (s : State) (p : PortId) (g : Region) : State :=
  if portCredit s p 3 then portSend (s.modPort p fun q => { q with endOut := false }) p g 3 endTok
  else s.modPort p fun q => { q with endOut := true }

/-- A finished pattern reports completion (R155 items 2 and 3, R214): the completion write, the `.copy` occurrence, and
for DIR 1 the end token on `o3`. -/
def bindComplete (s : State) (p : PortId) (g : Region) (dir : Bool) (c : StreamBind) (x : Warp) : State :=
  let finish (t : State) : State :=
    let u := unbind (copyOccurrence t p.bay c.key c.req) p.bay p.row dir
    if dir then sendEnd u p g else u
  if !ctlBit c.req 20 then finish s
  else if cwWaits s c.warp c.req (streamEngine p.row dir) c.seq then s
  else
    match cwLoc s c.warp x c.req with
    | .ok l => finish (completionWrite s c.warp c.req l)
    | .error f => bindFail s p dir c x (if ctlBit c.req 3 then 4 else 0) (doubleAt c.req 12) .write f

/-- A binding whose pattern is finished: its phase is set, and completion is reported. -/
def bindEnd (s : State) (p : PortId) (g : Region) (dir : Bool) (c : StreamBind) (x : Warp) : State :=
  let c1 := { c with ending := true }
  bindComplete (s.modPort p fun q => q.setBind dir (some c1)) p g dir c1 x

/-- A binding has moved a word: its position, and the holds it still needs (R247). -/
def bindMoved (s : State) (p : PortId) (dir : Bool) (c : StreamBind) (x : Warp) : State × StreamBind :=
  let c1 := { c with moved := c.moved + 4 }
  let engine := streamEngine p.row dir
  let rest := linesAhead s c.warp x c.req (!dir) dir c1.moved
  let done : List Loc := match bindLoc s c x dir with | .ok l => [l.line] | .error _ => []
  let kept := (((s.bay p.bay).holds.filter fun h => h.engine = engine && h.seq = c.seq).map (·.loc)).filter fun l =>
    rest.contains l || !done.contains l
  ((s.modPort p fun q => q.setBind dir (some c1)).keepHolds p.bay engine c.seq kept, c1)

/-- A binding in progress: not stalled, its warp known. -/
def liveBind (s : State) (p : PortId) (dir : Bool) : Option (StreamBind × Warp) :=
  match ((s.bay p.bay).port p.row).bind dir with
  | some c => if c.stalled.isSome then none else (s.warp? c.warp).map fun x => (c, x)
  | none => none

/-- The line of a binding's next word is one that the binding holds, and it lacks the hold. -/
def bindLacks (s : State) (p : PortId) (dir : Bool) (c : StreamBind) (l : Loc) : Bool :=
  sideHeld c.req dir && lacksHold s p.bay (streamEngine p.row dir) c.seq [l]

/-- The state in which a binding holds the line of its next word: one that did not translate when the binding took its
holds, and does now, is held from here on with those after it (R247). -/
def bindHolds (s : State) (p : PortId) (dir : Bool) (c : StreamBind) (x : Warp) (l : Loc) : State :=
  if bindLacks s p dir c l then takeRequestHolds s c.warp x c.req (!dir) dir (streamEngine p.row dir) c.seq c.moved else s

/-- STREAM_IN_WORD (R214): the next word of a DIR 0 pattern leaves `o0` as a data token with its code; after the last,
one end token, and the report of completion. -/
def execStreamInWord (p : PortId) (s : State) : Outcome :=
  match portRegion s p, liveBind s p false with
  | some g, some (c, x) =>
    if c.ending then
      if cwWaits s c.warp c.req (streamEngine p.row false) c.seq then .fault .notEnabled
      else .next (bindComplete s p g false c x)
    else if !portCredit s p 0 then .fault .notEnabled
    else if reqTotal c.req ≤ c.moved then .next (bindEnd (portSend s p g 0 endTok) p g false c x)
    else
      match bindLoc s c x false with
      | .error f => .next (bindFail s p false c x (sideSpace c.req false) (patternAddr c.req false c.moved) .read f)
      | .ok l =>
        let s1 := bindHolds s p false c x l
        if s1.engineWaits p.bay (streamEngine p.row false) c.seq l || bindWaits s1 p false c then .fault .notEnabled
        else
          let s2 := portSend s1 p g 0 ⟨engineRead s1 p.bay l, 0⟩
          let (s3, ok) := bindCount s2 p false c 4
          .next (if ok then (bindMoved s3 p false c x).1 else s3)
  | _, _ => .fault .notEnabled

/-- A data token written at a DIR 1 binding's position. -/
def streamStore (s : State) (p : PortId) (g : Region) (c : StreamBind) (x : Warp) (l : Loc) (t : TTok) : State :=
  let s1 := engineWrite (portPop s p 0) c.warp l (patternAddr c.req true c.moved) t.w false
  let (s2, ok) := bindCount s1 p true c 4
  if !ok then s2
  else
    let (s3, c1) := bindMoved s2 p true c x
    if reqTotal c.req ≤ c1.moved then bindEnd s3 p g true c1 x else s3

/-- STREAM_OUT_WORD (R214): a DIR 1 binding dequeues a token at `i0`. A data token is written with its code to the next
position, a marker is dropped, an error token goes to the region's sink, an end token finishes the pattern early and
the bytes it leaves are counted down. A port whose end token is still to leave `o3` sends that first. -/
def execStreamOutWord (p : PortId) (s : State) : Outcome :=
  match portRegion s p with
  | none => .fault .notEnabled
  | some g =>
    if ((s.bay p.bay).port p.row).endOut then
      if portCredit s p 3 then .next (sendEnd s p g) else .fault .notEnabled
    else
      match liveBind s p true with
      | none => .fault .notEnabled
      | some (c, x) =>
        if c.ending then
          if cwWaits s c.warp c.req (streamEngine p.row true) c.seq then .fault .notEnabled
          else .next (bindComplete s p g true c x)
        else if reqTotal c.req ≤ c.moved then .next (bindEnd s p g true c x)
        else
          match portHead s p 0 with
          | none => .fault .notEnabled
          | some t =>
            if t.tag = 1 then .next (portPop s p 0)
            else if t.tag = 2 then
              if bindWaits s p true c then .fault .notEnabled
              else
              let (s1, ok) := bindCount (portPop s p 0) p true c (reqTotal c.req - c.moved)
              .next (if ok then bindEnd s1 p g true c x else s1)
            else if t.tag = 3 then
              let room := (regionSink s p.bay g).all fun r =>
                (((s.bay p.bay).elem r 0).queue 3).length < 4
              if room then .next (toSink (portPop s p 0) p.bay g t) else .fault .notEnabled
            else
              match bindLoc s c x true with
              | .error f =>
                .next (bindFail s p true c x (sideSpace c.req true) (patternAddr c.req true c.moved) .write f)
              | .ok l =>
                let s1 := bindHolds s p true c x l
                if s1.engineWaits p.bay (streamEngine p.row true) c.seq l || bindWaits s1 p true c then .fault .notEnabled
                else .next (streamStore s1 p g c x l t)

/-! ## Export returns (R224, R225, R47) -/

/-- The lane-class read entries of a block: register number and width in words, in entry order. -/
def laneReads (ws : List Double) : List (Nat × Nat) :=
  ((List.range (hdr ws).rc).map (readEntry ws)).filterMap fun e =>
    if e.extractLsb' 30 2 = 0 then some (bitsOf e 29 22, entryWidth ws e / 32) else none

/-- The warp and lane that a return marker names, when that lane is out in the port's region. -/
def markedLane (s : State) (p : PortId) (g : Region) (m : Word) : Option (WarpId × Warp × Nat) :=
  ((s.warpsOf p.bay g.key).find? fun q => q.2.wid = bitsOf m 11 6 && !q.2.retired).bind fun (w, x) =>
    let lane := bitsOf m 5 0
    if (aget x.outs lane).any (·.1 = g.idx) then some (w, x, lane) else none

/-- The lane-class read entries of the join block to which a lane returns. -/
def joinReads (s : State) (w : WarpId) (lane : Nat) : Option (List (Nat × Nat)) :=
  let es := allEntries s w
  (outEntry es lane).bind fun i => (peekBlock s w (es[i]?.getD ⟨.join, 0, 0, 0⟩).addr).map laneReads

/-- Values written into a lane's registers, w words for an entry of width w. -/
def putReturns (x : Warp) (lane : Nat) : List (Nat × Nat) → List W40 → Warp
  | [], _ => x
  | (r, n) :: more, ts =>
    putReturns ((List.range n).foldl (fun y i => y.setReg (r + i) lane (ts[i]?.getD .zero)) x) lane more (ts.drop n)

/-- A port forgets the lane whose tokens it was taking: it discards what comes before the next marker. -/
def dropReturn (s : State) (p : PortId) : State := s.modPort p fun q => { q with retMark := none, retToks := [] }

/-- A lane that a marker names returns to be retried on its warp (R225). -/
def retryLane (s : State) (p : PortId) (g : Region) (m : Word) : State :=
  match markedLane s p g m with
  | some (w, x, lane) => exportResume (laneBack s w x lane true) w
  | none => s

/-- The lane of the marker held by a port, if any, is retried, and the rest of its tokens discarded. -/
def abandonReturn (s : State) (p : PortId) (g : Region) : State :=
  match ((s.bay p.bay).port p.row).retMark with
  | some t => dropReturn (retryLane s p g t.w.v) p
  | none => s

/-- A lane with all its Nret tokens returns (R224): its registers are written and it moves to A. An extra token that
stands behind them makes it retry. -/
def finishReturn (s : State) (p : PortId) (g : Region) (m : Word) (toks : List W40) : State :=
  match markedLane s p g m with
  | none => dropReturn s p
  | some (w, x, lane) =>
    let extra := match portHead s p 1 with | some t => t.tag != 1 | none => false
    match joinReads s w lane with
    | some rs =>
      if extra then abandonReturn s p g
      else
        let s1 := s.modWarp w fun y => putReturns y lane rs toks
        dropReturn (exportResume (laneBack s1 w x lane false) w) p
    | none => abandonReturn s p g

/-- The number of tokens that the lane of a marker must return. -/
def returnCount (s : State) (p : PortId) (g : Region) (m : Word) : Nat :=
  match markedLane s p g m with
  | some (w, _, lane) => (((joinReads s w lane).getD []).map (·.2)).foldl (· + ·) 0
  | none => 0

/-- EXPORT_RETURN (R224, R225): one token at `i1`. A marker names the lane whose tokens follow; the last of them
completes the return. A marker that asks for a retry or fails its check, a marker too early, an error token, a token
that fails its check and a token that is neither data nor marker make the lane retry. Tokens without a marker are
discarded. -/
def execExportReturn (p : PortId) (s : State) : Outcome :=
  match portRegion s p, portHead s p 1 with
  | some g, some t =>
    let s1 := portPop s p 1
    let q := (s.bay p.bay).port p.row
    if t.tag = 1 then
      let s2 := abandonReturn s1 p g
      if t.w.v.getLsbD 31 || !good t.w then .next (dropReturn (retryLane s2 p g t.w.v) p)
      else
        let s3 := s2.modPort p fun q => { q with retMark := some t, retToks := [] }
        .next (if returnCount s3 p g t.w.v = 0 then finishReturn s3 p g t.w.v [] else s3)
    else
      match q.retMark with
      | none => .next s1
      | some m =>
        if t.tag != 0 || !good t.w then .next (abandonReturn s1 p g)
        else
          let toks := (q.retToks ++ [t]).map (·.w)
          if returnCount s p g m.w.v ≤ toks.length then .next (finishReturn s1 p g m.w.v toks)
          else .next (s1.modPort p fun q => { q with retToks := q.retToks ++ [t] })
  | _, _ => .fault .notEnabled

/-! ## Quiescence (R222) -/

/-- Some slot of an element's active plane is ready. -/
def anyReady (b : Bay) (row col : Nat) : Bool :=
  mayFire b row col && (List.range 16).any fun k =>
    match buildElem ((b.elem row col).slotWord (b.elem row col).act k) with
    | some i => (match i.elem with | some (op, x) => elemReady b row col op.toNat x | none => false)
    | none => false

/-- One scan finds an element empty: no queued token and none on its way from it. -/
def elemEmpty (b : Bay) (row col : Nat) : Bool :=
  (b.elem row col).queues.all (·.2.isEmpty) && (b.elem row col).flight.all (·.2.isEmpty) &&
    !(1 ≤ col && anyReady b row col)

/-- One scan finds a port empty: no request, reply, binding or export token. -/
def portEmpty (q : Port) : Bool :=
  q.reqs.isEmpty && q.inBind.isNone && q.outBind.isNone && q.stalled.isNone && q.exports.isEmpty && !q.endOut

/-- A complete scan of a region finds it empty (R222). -/
def regionEmpty (b : Bay) (g : Region) : Bool :=
  g.cells.all fun (r, c) => elemEmpty b r c && (c != 0 || portEmpty (b.port r))

/-- QUIESCENCE_SCAN (R222): one complete scan of the region at a position of its bay's list. A second clean scan with
the firing counter unchanged reports quiescence. A running region is scanned once every element of it has started: R222 does
not say what a scan makes of one that has not (DESIGN CHOICE, notes/assumptions/27.md). -/
def execQuiescenceScan (bay region : Nat) (s : State) : Outcome :=
  match (s.bay bay).regions[region]? with
  | none => .fault .notEnabled
  | some g =>
    if !g.clocked || !g.loaded || g.quiet then .fault .notEnabled
    else if !regionEmpty (s.bay bay) g then
      if g.scan.isNone then .fault .notEnabled
      else .next (s.modRegion bay g.key g.idx fun r => { r with scan := none })
    else if g.scan = some g.fires then
      .next ((s.modRegion bay g.key g.idx fun r => { r with quiet := true, scan := none }).occur bay (·.key = g.key)
        fun e => e.kind = 4 && e.sel = g.idx)
    else .next (s.modRegion bay g.key g.idx fun r => { r with scan := some r.fires })

end Sys2Proof.Machine
end

