-- ==== Sys2Proof/Machine/Image.lean ====
section
/-! DEFINITION. Truss images: reading, checking and loading them, and the delivery of configuration packets
(spec/07_truss_fabric.md R216 to R221, Tables 7.6 to 7.9). -/

namespace Sys2Proof.Machine

/-! ## Reading (R217, R220) -/

/-- Word i of an image as the loader of a bay reads it, none when its line does not translate or may not be read. The
first line keeps the translation that the `TLOAD` took at its firing (R127). -/
def imageWord (s : State) (bay ctx : Nat) (va : Double) (first : Option Loc) (i : Nat) : Option W40 :=
  let a := va + BitVec.ofNat 64 (4 * i)
  match (if a.toNat / 128 = va.toNat / 128 then first else none) with
  | some l => some (engineRead s bay (l.add (4 * i)))
  | none =>
    if !canonical a then none
    else
      match s.translate ctx a (accNeed .read) with
      | .ok l => some (engineRead s bay l)
      | .error _ => none

/-- A word that must translate and pass its check; its byte offset when it does not. -/
def checkedWord (rd : Nat → Option W40) (i : Nat) : Except Nat Word :=
  match rd i with
  | some w => if good w then .ok w.v else .error (4 * i)
  | none => .error (4 * i)

/-- A word that must translate; its byte offset when it does not. -/
def rawWord (rd : Nat → Option W40) (i : Nat) : Except Nat W40 :=
  match rd i with
  | some w => .ok w
  | none => .error (4 * i)

/-- A requirement; the byte offset of what breaks it. -/
def must (p : Bool) (ofs : Nat) : Except Nat Unit := if p then .ok () else .error ofs

/-- The header of an image: PLN, NPKT, BYTES (Table 7.7), checked against the region's shape. -/
structure ImageHead where
  pln : Bool
  npkt : Nat
  bytes : Nat

/-- The header read and checked in word order (R220). -/
def readImageHead (rd : Nat → Option W40) (g : Region) : Except Nat ImageHead := do
  let n ← checkedWord rd 0
  let h ← checkedWord rd 1
  must (bitsOf h 6 0 = 0 && bitsOf h 31 16 = 1 && bitsOf h 15 13 + 1 = g.h && bitsOf h 12 10 + 1 = g.w &&
    bitsOf h 9 8 = g.pat.toNat) 4
  let b ← checkedWord rd 2
  let _ ← [3, 4, 5, 6, 7].mapM fun i => do
    let v ← checkedWord rd i
    must (v == 0) (4 * i)
  .ok ⟨h.getLsbD 7, n.toNat, b.toNat⟩

/-! ## Packets (Tables 7.8, 7.9) -/

/-- A packet with the number of its header's first word in the image; rows and columns are relative to the
region. -/
structure ImagePacket where
  at_ : Nat
  p : CfgPacket

/-- One instruction of a packet for an element of a column: the empty slot, or a word that passes R220. -/
def slotOk (absCol : Nat) (w : BitVec 96) : Bool :=
  w == 0 ||
    (match decodeElem w with
     | .ok i => (match i.elem with | some (op, _) => absCol = 7 || !(23 ≤ op.toNat && op.toNat ≤ 26) | none => false)
     | .error _ => false)

/-- Consecutive instructions of a payload that starts at image word i. -/
def slotsOk (absCol : Nat) (i : Nat) : List W40 → Except Nat Unit
  | a :: b :: c :: r => do
    must (slotOk absCol (c.v ++ b.v ++ a.v)) (4 * i)
    slotsOk absCol (i + 3) r
  | _ => .ok ()

/-- The kinds that an element takes (R220). -/
def kindOk (absCol kind : Nat) : Bool :=
  if absCol = 0 then kind = 3 || kind = 4 || kind = 15
  else kind ≤ 3 || kind = 15 || (kind = 5 && absCol = 7)

/-- How many words of a payload the loader checks (R220). -/
def checkedCount (kind len : Nat) : Nat := if kind = 2 then min 1 len else if kind = 5 then 0 else len

/-- The payload length fits its kind. -/
def lenOk (kind len slot : Nat) : Bool :=
  if kind ≤ 1 then len % 3 = 0 && slot + len / 3 ≤ 16
  else if kind = 2 then len = 5
  else if kind = 3 then len = 2
  else if kind = 4 then len = 8
  else if kind = 5 then 1 ≤ len
  else len = 0

/-- A port configuration (R220, Table 7.6) in a payload that starts at image word i. -/
def portCfgOk (bsp i : Nat) (ws : List W40) : Except Nat Unit := do
  let sp := bitsOf (wordAt ws 3) 2 0
  must (bitsOf (wordAt ws 3) 31 4 = 0 && (sp = 0 || sp = 2 || sp = 4)) (4 * (i + 3))
  let base := (wordAt ws 4).toNat
  let cap := (wordAt ws 5).toNat
  must (cap = 0 || base % 8 = 0) (4 * (i + 4))
  must (cap = 0 || base + 8 + 8 * cap ≤ bsp) (4 * (i + 5))
  must (wordAt ws 6 == 0) (4 * (i + 6))
  must (wordAt ws 7 == 0) (4 * (i + 7))

/-- Route entry k of a pair of words (R218). -/
def routeEntry (ws : List W40) (k : Nat) : BitVec 16 := (wordAt ws (k / 2)).extractLsb' (16 * (k % 2)) 16

/-- The routes of a payload stay inside the region (R220). -/
def routesOk (g : Region) (i : Nat) (ws : List W40) : Except Nat Unit := do
  let _ ← [0, 1, 2, 3].mapM fun k =>
    let r := routeEntry ws k
    must (bitsOf r 6 0 = 0 && (!r.getLsbD 15 || (bitsOf r 14 12 < g.h && bitsOf r 11 9 < g.w))) (4 * (i + k / 2))
  .ok ()

/-- The payload of a packet, checked word by word and then by its kind. -/
def payloadOk (g : Region) (bsp absCol kind i : Nat) (ws : List W40) : Except Nat Unit := do
  let _ ← (ws.zipIdx.take (checkedCount kind ws.length)).mapM fun (w, j) => must (good w) (4 * (i + j))
  if kind ≤ 1 then slotsOk absCol i ws
  else if kind = 2 then must (bitsOf (wordAt ws 0) 31 8 = 0) (4 * i)
  else if kind = 3 then routesOk g i ws
  else if kind = 4 then portCfgOk bsp i ws
  else if kind = 5 then must ((wordAt ws 0).toNat + (ws.length - 1) ≤ 1024) (4 * i)
  else .ok ()

/-- The packets of an image from image word i on, n of them, within its BYTES (R217, R220). R220 names no such check: the
model takes packets that run beyond BYTES for a configuration error, and accepts an image whose packets end before it
(DESIGN CHOICE, notes/assumptions/27.md). -/
def readPackets (rd : Nat → Option W40) (g : Region) (bsp : Nat) (hd : ImageHead) : Nat → Nat →
    Except Nat (List ImagePacket)
  | 0, _ => .ok []
  | n + 1, i => do
    must (4 * i + 8 ≤ 32 + hd.bytes) (4 * i)
    let lo ← checkedWord rd i
    let hi ← checkedWord rd (i + 1)
    let kind := bitsOf hi 31 28
    let row := bitsOf hi 27 25
    let col := bitsOf hi 24 22
    let len := bitsOf hi 21 14
    let slot := bitsOf hi 13 10
    must (lo == 0) (4 * i)
    must (bitsOf hi 9 0 = 0 && row < g.h && col < g.w && kindOk (g.col + col) kind && (!hd.pln || kind = 1) &&
      lenOk kind len slot && 4 * (i + 2 + len + len % 2) ≤ 32 + hd.bytes) (4 * (i + 1))
    let ws ← (List.range len).mapM fun j => rawWord rd (i + 2 + j)
    payloadOk g bsp (g.col + col) kind (i + 2) ws
    let rest ← readPackets rd g bsp hd n (i + 2 + len + len % 2)
    .ok (⟨i, ⟨kind, row, col, slot, ws⟩⟩ :: rest)

/-! ## Checks over the whole image (R220) -/

/-- The last packet of a kind for an element. -/
def lastPacket (ps : List ImagePacket) (kind row col : Nat) : Option ImagePacket :=
  (ps.filter fun q => q.p.kind = kind && q.p.row = row && q.p.col = col).getLast?

/-- The routes of an image: destination row, column and input, and the image word of the entry, from every element's
last route packet. -/
def imageRoutes (g : Region) (ps : List ImagePacket) : List (Nat × Nat × Nat × Nat) :=
  g.cells.flatMap fun (r, c) =>
    match lastPacket ps 3 (r - g.row) (c - g.col) with
    | none => []
    | some q => [0, 1, 2, 3].filterMap fun k =>
        let e := routeEntry q.p.words k
        if e.getLsbD 15 then some (bitsOf e 14 12, bitsOf e 11 9, bitsOf e 8 7, q.at_ + 2 + k / 2) else none

/-- No input is the destination of two routes: the image word of a route that breaks this. -/
def doubleRoute : List (Nat × Nat × Nat × Nat) → Option Nat
  | [] => none
  | (r, c, i, _) :: rest =>
    match rest.find? fun q => q.1 = r && q.2.1 = c && q.2.2.1 = i with
    | some q => some q.2.2.2
    | none => doubleRoute rest

/-- The offsets of a GEN lie below a port's LIMIT, 4-aligned and without wrapping: base, step, count (R220). -/
def genOk (base : Nat) (step : Int) (count limit : Nat) : Bool :=
  let last : Int := base + (count - 1 : Nat) * step
  count = 0 || (base % 4 = 0 && (count = 1 || step % 4 = 0) && base + 4 ≤ limit && 0 ≤ last && last + 4 ≤ limit &&
    last < (2 ^ 32 : Nat))

/-- The instructions of a packet with their image words. -/
def packetSlots (q : ImagePacket) : List (BitVec 96 × Nat) :=
  if 1 < q.p.kind then []
  else (List.range (q.p.words.length / 3)).map fun k =>
    (wordAt q.p.words (3 * k + 2) ++ wordAt q.p.words (3 * k + 1) ++ wordAt q.p.words (3 * k), q.at_ + 2 + 3 * k)

/-- A GEN routed straight to a port's `i2` passes R220's check; a port without a configuration has LIMIT 0 (Table 7.6). -/
def slotGenOk (g : Region) (ps : List ImagePacket) (q : ImagePacket) (w : BitVec 96) : Bool :=
  let x := unpackElem w
  if w.extractLsb' 63 5 != 27 then true
  else
    let init := (lastPacket ps 2 q.p.row q.p.col).map (·.p.words)
    let loc (k : Nat) : Nat := (wordAt (init.getD []) (1 + k)).toNat
    let routes := (lastPacket ps 3 q.p.row q.p.col).map (·.p.words)
    [0, 1, 2, 3].all fun k =>
      let e := routeEntry (routes.getD []) k
      if x.omask.getLsbD k && e.getLsbD 15 && bitsOf e 8 7 = 2 then
        let cfg := ((lastPacket ps 4 (bitsOf e 14 12) (bitsOf e 11 9)).map (·.p.words)).getD []
        g.col + bitsOf e 11 9 != 0 || genOk (loc x.ldst.toNat) x.imm.toInt (loc 3) (wordAt cfg 2).toNat
      else true

/-- Every element has its end of part, routes are distinct and GENs bounded; or the byte offset of what breaks it. -/
def imageOk (g : Region) (ps : List ImagePacket) : Except Nat Unit := do
  must (g.cells.all fun (r, c) => (lastPacket ps 15 (r - g.row) (c - g.col)).isSome) 0
  match doubleRoute (imageRoutes g ps) with
  | some i => .error (4 * i)
  | none => .ok ()
  let _ ← ps.mapM fun q => (packetSlots q).mapM fun (w, i) => must (slotGenOk g ps q w) (4 * i)
  .ok ()

/-- The lines of an image that its packets do not reach translate too (R220). -/
def tailOk (rd : Nat → Option W40) (hd : ImageHead) : Except Nat Unit := do
  let _ ← (List.range ((hd.bytes + 31) / 32)).mapM fun k => rawWord rd (8 + 8 * k)
  .ok ()

/-- An image read and checked whole (R220): its header and packets, or the byte offset of the first word or line found
bad. A GEN of a plane-only image is not bounded: its initial locals and routes are no part of the image, and R220 does not
say which it would be checked with (DESIGN CHOICE, notes/assumptions/27.md). -/
def checkImage (rd : Nat → Option W40) (g : Region) (bsp : Nat) : Except Nat (ImageHead × List ImagePacket) := do
  let hd ← readImageHead rd g
  let ps ← readPackets rd g bsp hd hd.npkt 8
  tailOk rd hd
  if hd.pln then .ok () else imageOk g ps
  .ok (hd, ps)

/-! ## Loading (R216) -/

/-- The first four steps of a full load (R216): the region stops, its elements and ports are discarded, exported lanes
retry, and unfinished bindings are engine errors. -/
def clearRegion (s : State) (bay : Nat) (g : Region) : State :=
  let s1 := s.modRegion bay g.key g.idx fun r =>
    { r with running := false, loaded := false, image := none, quiet := false, scan := none, packets := [] }
  let rows := if g.col = 0 then (List.range g.h).map fun i => g.row + i else []
  let s2 := rows.foldl (fun t r => [false, true].foldl (fun u d => bindError u bay r d) t) s1
  let s3 := s2.modBay bay fun b => { b with
    elems := g.cells.foldl (fun m (r, c) => adel m (ekey r c)) b.elems
    ports := rows.foldl (fun m r => adel m r) b.ports }
  retryLanes s3 bay g.key g.idx

/-- The packets with the region's origin added (R219). -/
def placePackets (g : Region) (ps : List ImagePacket) : List CfgPacket :=
  ps.map fun q => { q.p with row := g.row + q.p.row, col := g.col + q.p.col }

/-- PLN of an image as its header word shows it, whatever else is wrong. -/
def imagePln (rd : Nat → Option W40) : Bool := match rd 1 with | some w => w.v.getLsbD 7 | none => false

/-- A line of an image that does not translate: a bad entry is listed and has its record, of kind 0x03 (R375); R220 sends
none of kinds 0x01 and 0x02. -/
def imageFail (s : State) (bay : Nat) (g : Region) (w : WarpId) (va : Double) : State :=
  let c := teamCtx s bay g.key
  if !canonical va then s
  else
    match s.translate c va (accNeed .read) with
    | .ok _ => s
    | .error f => s.walkFailed c .walker bay (((s.warp? w).map (·.wid)).getD 0) g.key va .read f

/-- A load performed (R216, R220). -/
def loadImage (s : State) (bay : Nat) (g : Region) (l : ImageLoad) : State :=
  let bsp := ((s.team? bay g.key).map (·.decl)).getD 0
  let rd := imageWord s bay (teamCtx s bay g.key) l.va l.loc
  let res := checkImage rd g bsp
  let s := match res with
    | .error ofs => if (rd (ofs / 4)).isNone then imageFail s bay g l.warp (l.va + BitVec.ofNat 64 ofs) else s
    | .ok _ => s
  if imagePln rd then
    match res with
    | .ok (_, ps) =>
      if g.image.isSome && !g.faulted && ps.all (fun q => 1 ≤ g.col + q.p.col) then
        s.modRegion bay g.key g.idx fun r => { r with packets := placePackets g ps }
      else (s.engineError l.warp).failIssued l.warp l.seq
    | .error _ => (s.engineError l.warp).failIssued l.warp l.seq
  else
    let s1 := clearRegion s bay g
    match res with
    | .ok (_, ps) =>
      s1.modRegion bay g.key g.idx fun r =>
        { r with packets := placePackets g ps, image := some l.image, faulted := false }
    | .error ofs => regionFault (s1.failIssued l.warp l.seq) bay g 0x0004 0 l.va (BitVec.ofNat 64 ofs)

/-- TRUSS_IMAGE_LOAD (R216, R220) of the region at a position of its bay's list: the oldest load that it waits for,
once the packets of the one before have been delivered. -/
def execTrussImageLoad (bay region : Nat) (s : State) : Outcome :=
  match (s.bay bay).regions[region]? with
  | none => .fault .notEnabled
  | some g =>
    match g.loads with
    | [] => .fault .notEnabled
    | l :: rest =>
      if !g.packets.isEmpty then .fault .notEnabled
      else .next (loadImage (s.modRegion bay g.key g.idx fun r => { r with loads := rest }) bay g l)

/-! ## Delivery (R218, R219, R221) -/

/-- Words put at consecutive keys. -/
def putKeys (m : Assoc W40) (k : Nat) : List W40 → Assoc W40
  | [] => m
  | w :: r => putKeys (aput m k .zero w) (k + 1) r

/-- The words of one plane removed. -/
def clearPlane (m : Assoc W40) (second : Bool) : Assoc W40 := m.filter fun p => (48 ≤ p.1) != second

/-- A packet at a compute or memory element (Table 7.9). The first packet of a prefetching plane empties that plane. -/
def elemPacket (e : Elem) (p : CfgPacket) : Elem :=
  let at_ (second : Bool) : Nat := (if second then 48 else 0) + 3 * p.slot
  if p.kind = 0 then { e with planes := putKeys e.planes (at_ e.act) p.words }
  else if p.kind = 1 then
    let m := if e.pref = 1 then e.planes else clearPlane e.planes (!e.act)
    { e with planes := putKeys m (at_ (!e.act)) p.words, pref := 1 }
  else if p.kind = 2 then
    { e with preds := (wordAt p.words 0).setWidth 8, locals := putKeys [] 0 (p.words.drop 1) }
  else if p.kind = 5 then { e with sram := putKeys e.sram (wordAt p.words 0).toNat (p.words.drop 1) }
  else if p.kind = 15 then { e with started := true }
  else e

/-- The routes of a packet with the region's origin added (R219). -/
def placeRoutes (g : Region) (ws : List W40) : Assoc Route :=
  [0, 1, 2, 3].filterMap fun k =>
    let e := routeEntry ws k
    if e.getLsbD 15 then some (k, ⟨g.row + bitsOf e 14 12, g.col + bitsOf e 11 9, bitsOf e 8 7⟩) else none

/-- CONFIG_PACKET_DELIVER (R219) to the region at a position of its bay's list: the next packet reaches its element,
which starts on its kind 0xF packet. A prefetching plane is complete once no further packet names it (R221). TSTAT[0]
becomes 1 when every element has started. -/
def execConfigPacketDeliver (bay region : Nat) (s : State) : Outcome :=
  match (s.bay bay).regions[region]? with
  | none => .fault .notEnabled
  | some g =>
    match g.packets with
    | [] => .fault .notEnabled
    | p :: rest =>
      let more := rest.any fun q => q.kind = 1 && q.row = p.row && q.col = p.col
      let s1 := s.modBay bay fun b =>
        let b1 := b.modElem p.row p.col fun e =>
          let e1 := if p.kind = 3 then { e with routes := placeRoutes g p.words } else elemPacket e p
          if p.kind = 1 && !more then { e1 with pref := 2 } else e1
        if p.kind = 4 then b1.modPort p.row fun q => { q with cfg := putKeys [] 0 p.words } else b1
      let all := g.cells.all fun (r, c) => ((s1.bay bay).elem r c).started
      .next (s1.modRegion bay g.key g.idx fun r => { r with packets := rest, loaded := all })

end Sys2Proof.Machine
end

