-- ==== Sys2Proof/Machine/Release.lean ====
section
/-! DEFINITION. What a held operation does when its block releases it (spec/02_execution_model.md R40,
spec/05_memory_control_instructions.md R134 to R163). `releaseOp` answers none while the release must wait. -/

namespace Sys2Proof.Machine

/-! ## Stores and cache commands -/

/-- A release at a scope must wait at system scope for the warp's remote writes (R244). -/
def releaseWaits (s : State) (w : WarpId) (scope : Nat) : Bool := scope = 5 && s.remotePending w

/-- The locations of a held access of a width code. -/
def accessLocs (space width : Nat) (l : Loc) : List Loc :=
  (List.range (if width ≤ 1 then 1 else 2 ^ width / 4)).map fun i => (wordLoc space l i)

/-- A lane's store released (R134, R245): whole words are written, a sub-word goes to its merge (R256), and a word of
a remote page is sent (R364). -/
def storeLane (s : State) (w : WarpId) (f : FmtM) (h : HeldLane) : State :=
  let width := bitsOf f.mod 3 0
  let space := f.space.toNat
  let rel := f.order.getLsbD 1 && f.scope = 5
  match h.loc with
  | none => s
  | some (.remote peer pa) =>
    if width ≤ 1 then
      let (_, d, c) := subStore (.remote peer pa) (2 ^ width) (wordAt h.b 0)
      s.sendRemote w peer pa (2 ^ width) [⟨d, c, false⟩] rel none
    else s.sendRemote w peer pa (2 ^ width) ((List.range (2 ^ width / 4)).map fun i => fresh (wordAt h.b i)) rel none
  | some l =>
    if width ≤ 1 then
      let (m, d, c) := subStore l (2 ^ width) (wordAt h.b 0)
      let s1 := match space, l with
        | 0, .phys pa => (s.lookup w (pa / 128) f.cache.toNat).touchLine w (pa / 128) f.cache.toNat
        | _, _ => s
      { s1 with merges := s1.merges ++ [⟨l.align, m, d, c, w⟩] }
    else s.storeWords w space f.cache.toNat l ((List.range (2 ^ width / 4)).map fun i => fresh (wordAt h.b i))

/-- A store to a word that a block of the region has read ends the region (R57). -/
def endRegionAt (s : State) (w : WarpId) (b : Blk) (ls : List Loc) : State :=
  s.modWarp w fun x =>
    if ls.any fun l => (b.reads ++ x.rdset).contains l then { x with region := none, rdset := [] } else x

/-- ST released (R134). -/
def releaseSt (s : State) (w : WarpId) (b : Blk) (f : FmtM) (h : HeldOp) : Option State :=
  let scope := f.scope.toNat
  let rel := f.order.getLsbD 1
  let width := bitsOf f.mod 3 0
  let locs := (h.lanes.filterMap (·.loc)).flatMap fun l => (accessLocs f.space.toNat width l).map Loc.align
  if (rel && releaseWaits s w scope) || locs.any s.storeHeld then none
  else
    let s1 := if rel && !h.lanes.isEmpty then s.release w.bay scope else s
    some (endRegionAt (h.lanes.foldl (fun t l => storeLane t w f l) s1) w b locs)

/-- The L1 line of a held global access, when it can have one. -/
def l1LineOf (h : HeldLane) : Option Nat :=
  match h.loc with
  | some (.phys pa) => if pa < Config.loftBase then some (pa / 128) else none
  | _ => none

/-- PREF released (R135): CACHE 0 brings the line into L1, CACHE 1 into the ridge cache, which holds no state of its
own. A lane without a translation is skipped. -/
def releasePref (s : State) (w : WarpId) (f : FmtM) (h : HeldOp) : State :=
  if f.cache != 0 then s
  else (h.lanes.filterMap l1LineOf).foldl (fun t k => t.l1Fetch w k) s

/-- CWB released (R138). -/
def releaseCwb (s : State) (w : WarpId) (h : HeldOp) : State :=
  (h.lanes.filterMap l1LineOf).foldl (fun t k => t.cleanLine w.bay k) s

/-- CINV released (R138). -/
def releaseCinv (s : State) (w : WarpId) (h : HeldOp) : State :=
  (h.lanes.filterMap l1LineOf).foldl (fun t k => t.dropLine w.bay k) s

/-! ## Operations at a home -/

/-- The locations of the words of an atomic operation of a type (R230). -/
def atomLocs (space t : Nat) (l : Loc) : List Loc := (List.range (typeWidth t / 32)).map (wordLoc space l)

/-- The old words of an atomic operation at its home (R137): a global line is looked up (R270, R271), and the bay's own
L1 copy is written back and stale. -/
def homeOld (s : State) (w : WarpId) (l : Loc) (ls : List Loc) : State × List W40 :=
  let s0 := match l with
    | .phys pa => if pa < Config.loftBase then (s.lookup w (pa / 128) 0).touchLine w (pa / 128) 0 else s
    | _ => s
  let s1 := s0.toHome w.bay l
  (s1, ls.map s1.homeWord)

/-- An atomic operation performed at a location (R136, R137): the state and the old words, or the bad old word with its
position. -/
def performAtomic (s : State) (w : WarpId) (op t space : Nat) (l : Loc) (v c : Nat) :
    Except (Nat × W40) (State × List W40) :=
  let ls := atomLocs space t l
  let (s1, old) := homeOld s w l ls
  match old.zipIdx.find? fun p => !good p.1 with
  | some (x, i) => .error (i, x)
  | none =>
    let new := tokOf ls.length (atomNew op t (tokVal old) v c)
    .ok (s1.writeWhole (ls.zip new), old)

/-- The operation number of an `ATOM` or `RED` opcode: `RED` has no exch and cas. -/
def atomOp (opc : Nat) : Nat :=
  if opc < 0x138 then opc - 0x128 else if opc < 0x13E then opc - 0x138 else opc - 0x138 + 2

/-- RED released (R136, R259): in lane order at the home; a bad old word stays and is reported. -/
def releaseRed (s : State) (w : WarpId) (opc : Nat) (f : FmtM) (h : HeldOp) : Option State :=
  let rel := f.order.getLsbD 1
  let t := f.mod.toNat
  if (rel && releaseWaits s w f.scope.toNat) ||
      ((h.lanes.filterMap (·.loc)).flatMap (atomLocs f.space.toNat t)).any s.storeHeld then none
  else
    let s1 := if rel && !h.lanes.isEmpty then s.release w.bay f.scope.toNat else s
    let one (s : State) (l : HeldLane) : State :=
      match l.loc with
      | none => s
      | some p =>
        match performAtomic s w (atomOp opc) t f.space.toNat p (tokVal l.b) (tokVal l.c) with
        | .ok (s2, _) => s2
        | .error (i, v) =>
          { s with reports := s.reports ++ [⟨w, .mem f.space.toNat (l.va.toNat + 4 * i), v⟩] }
    let s2 := h.lanes.foldl one s1
    some (if f.order.getLsbD 0 && !h.lanes.isEmpty then s2.acquire w.bay f.scope.toNat else s2)

/-! ## Barriers (R141) -/

/-- A named barrier handle of a team set. -/
def setHandle (s : State) (bay : Nat) (key : TeamKey) (k : Nat) (h : Double) : State :=
  s.modTeam bay key fun t => { t with nb := aput t.nb k 0 h }

/-- BINIT released (R141): the record is written whole, completes at once when EXP is 0 (R143), and the handle is
bound. -/
def releaseBinit (s : State) (w : WarpId) (x : Warp) (f : FmtE) (l : HeldLane) : State :=
  match l.loc with
  | none => s
  | some p =>
    let e := wordAt l.b 0
    let gen : Word := if e = 0 then 1 else 0
    let s1 := (s.toHome w.bay p).setHomeWords p [fresh gen, fresh e, fresh 0, fresh 0]
    let s2 := if e = 0 then phaseChange s1 p else s1
    setHandle s2 w.bay x.key (resNum f) (mkHandle (bitsOf f.imm 2 0) (f.mod.getLsbD 0) l.va)

/-- A barrier update released (R141, R143): the release, then one indivisible update; a bad record word is reported
(R259). -/
def releaseBar (s : State) (w : WarpId) (scope : Nat) (l : HeldLane) (out : Word) (arr : Nat) : Option State :=
  match l.loc with
  | none => some s
  | some p =>
    if releaseWaits s w scope || s.storeHeld p then none
    else
      let s1 := s.release w.bay scope
      match updateRecord s1 w.bay p out arr with
      | .ok s2 => some s2
      | .error (i, v) =>
        some { s1 with reports := s1.reports ++
          [⟨w, .mem (handleSpace l.va) ((handleAddr l.va).toNat + 4 * i), v⟩] }

/-- What a firing counts: 1, or popcount(P) under the handle's CNT (Table 5.6). -/
def firingCount (h : Double) (lanes : Nat) : Nat := if h.getLsbD 59 then lanes else 1

/-! ## Events (R145) -/

/-- EVBIND released: the binding replaces the old one; the pending bit is cleared, or takes its level. -/
def releaseEvbind (s : State) (w : WarpId) (x : Warp) (f : FmtE) (l : HeldLane) : State :=
  let k := resNum f
  let kind := f.mod.toNat
  let sel := f.imm.toNat
  let h := handleOf (s.teamD w x) (bitsOf f.imm 3 0)
  let rec' := if kind = 0 && h.getLsbD 63 then some (barLoc s w x h ⟨0, false⟩) else none
  let loc := rec'.bind (·.toOption)
  let s0 := match rec' with | some (.error (.walk g)) => s.listPoison g | _ => s
  let s1 := s0.modWarp w fun y => { y with
    binds := aset y.binds k ⟨kind, sel, l.va, 0, loc⟩
    evpend := y.evpend &&& ~~~((1 : BitVec 16) <<< k) }
  if kind = 2 then s1.mailboxLevel w.bay (bitsOf f.imm 3 0) else s1

/-- Every mailbox level of a warp's bindings taken again (R144). -/
def levelsAgain (s : State) (w : WarpId) (x : Warp) : State :=
  (x.binds.filter fun p => p.2.kind = 2).foldl (fun t p => t.mailboxLevel w.bay p.2.sel) s

/-- EVPOST released: an occurrence at the target warp's slot when it is bound `.post`. -/
def releaseEvpost (s : State) (w : WarpId) (x : Warp) (f : FmtE) (l : HeldLane) : State :=
  let k := resNum f
  let target := tokVal l.a
  s.modBay w.bay fun b => { b with warps := b.warps.map fun (j, y) =>
    if y.key = x.key && y.wid = target && !y.retired && (aget y.binds k).any (·.kind = 8) then
      (j, { y with evpend := y.evpend ||| ((1 : BitVec 16) <<< k) })
    else (j, y) }

/-! ## Lease, snapshot, injection -/

/-- LEASE released (R161): the controller decides anew. -/
def releaseLease (s : State) (w : WarpId) (f : FmtE) : State :=
  let upd (x : Warp) : Warp :=
    if f.mod.getLsbD 0 then { x with measured := true }
    else { x with measured := false, leaseDecl := min 128 (bitsOf f.imm 7 0) }
  (s.modWarp w upd).admission w.bay

/-- INJ released for a lane (R162): L1 copies of the line are invalidated, then the home's word is altered. A zero
pattern has no effect. -/
def releaseInj (s : State) (data : Bool) (f : FmtE) (l : HeldLane) : State :=
  let pat : Word := if data then wordAt l.b 0 else BitVec.ofNat 32 (bitsOf f.imm 15 8)
  match l.loc with
  | none => s
  | some p =>
    if pat = 0 then s
    else
      let s1 := match p with
        | .phys pa => if pa < Config.loftBase then
            s.bays.foldl (fun (t : State) (q : Nat × Bay) => t.dropLine q.1 (pa / 128)) s else s
        | _ => s
      let v := s1.homeWord p
      s1.setHomeWord p (if data then { v with v := v.v ^^^ pat } else { v with c := v.c ^^^ pat.extractLsb' 0 8 })

/-! ## The release of one operation -/

/-- A format M operation released. -/
def releaseM (s : State) (w : WarpId) (b : Blk) (opc : Nat) (f : FmtM) (h : HeldOp) : Option State :=
  if opc = 0x121 then releaseSt s w b f h
  else if opc = 0x122 then some (releasePref s w f h)
  else if opc = 0x123 then
    (if releaseWaits s w f.scope.toNat then none else some (s.release w.bay f.scope.toNat))
  else if opc = 0x124 then some (releaseCinv s w h)
  else if opc = 0x125 then some (releaseCwb s w h)
  else releaseRed s w opc f h

/-- A format E operation released: `l` holds the operands of its lowest lane. -/
def releaseE (s : State) (w : WarpId) (x : Warp) (b : Blk) (opc : Nat) (f : FmtE) (h : HeldOp) (l : HeldLane) :
    Option State :=
  let n := h.lanes.length
  let r := bitsOf f.imm 3 0
  let word (t : Tok) : Word := wordAt t 0
  if opc = 0x160 then
    (if l.loc.any s.storeHeld then none else some (releaseBinit s w x f l))
  else if opc = 0x161 then some (setHandle s w.bay x.key (resNum f) 0)
  else if opc = 0x162 then
    some (setHandle s w.bay x.key (resNum f) (mkHandle (bitsOf f.imm 2 0) (f.mod.getLsbD 0) l.va))
  else if opc = 0x163 then releaseBar s w (bitsOf f.imm 2 0) l 0 (firingCount l.va n)
  else if opc = 0x164 then
    releaseBar s w (bitsOf f.imm 2 0) l (word l.a) (if f.mod.getLsbD 0 then 0 else firingCount l.va n)
  else if opc = 0x170 then some (releaseEvbind s w x f l)
  else if opc = 0x171 then
    some (s.modWarp w fun y => { y with
      binds := adel y.binds (resNum f)
      evpend := y.evpend &&& ~~~((1 : BitVec 16) <<< resNum f) })
  else if opc = 0x172 then
    let bits := f.imm.extractLsb' 0 16
    some (s.modWarp w fun y => { y with evmask :=
      if f.mod = 0 then y.evmask ||| bits else if f.mod = 1 then y.evmask &&& ~~~bits else bits })
  else if opc = 0x173 then some (releaseEvpost s w x f l)
  else if opc = 0x174 then
    some (levelsAgain (s.modWarp w fun y => { y with evpend := y.evpend &&& ~~~(f.imm.extractLsb' 0 16) }) w x)
  else if opc = 0x1A0 then
    (if 64 ≤ ((s.bay w.bay).kicks.filter fun k => !k.started).length then none
     else
       let (n, s1) := s.newSeq
       some (s1.modBay w.bay fun y => { y with kicks := y.kicks ++ [⟨x.key, w, tokVal l.a, false, n⟩] }))
  else if opc = 0x1A2 then
    (if trussBusy s w x r || strbindWaits s w x (f.mod.getLsbD 0) (resNum f) r (tokVal l.a) then none
     else some (strbind s w x (f.mod.getLsbD 0) (resNum f) r (tokVal l.a)))
  else if opc = 0x1A8 then some (tload s w x r (resNum f) l.va l.loc)
  else if opc = 0x1A9 then (if trussBusy s w x r then none else some (tstart s w x r))
  else if opc = 0x1AA then (if trussBusy s w x r then none else some (tstop s w x r))
  else if 0x1B0 ≤ opc && opc ≤ 0x1B6 then
    mxIssue s w x.key opc f (word l.a) (word l.b) (word l.c) b.mode
  else if opc = 0x1CA then some (releaseLease s w f)
  else if opc = 0x1E0 then some (s.trigger (bitsOf f.imm 15 0))
  else if opc = 0x1E1 then some (s.serve (s.ctxOf w) (BitVec.ofNat 64 (tokVal l.a)))
  else if opc = 0x1E2 then some (h.lanes.foldl (fun t q => releaseInj t (f.mod.getLsbD 0) f q) s)
  else some s

/-- A held operation released (R40), or none while it must wait: behind a sub-word merge of its warp, for a held line,
for a full queue, or for acknowledgements. With no lane it has no effect. -/
def releaseOp (s : State) (w : WarpId) (b : Blk) (h : HeldOp) : Option State :=
  if s.merges.any (·.warp = w) then none
  else
    match h.lanes with
    | [] => some s
    | l :: _ =>
      match nodeAt b.words h.node, s.warp? w with
      | (o, .m f), _ => releaseM s w b o.toNat f h
      | (o, .e f), some x => releaseE s w x b o.toNat f h l
      | _, _ => some s

end Sys2Proof.Machine
end

