-- ==== Sys2Proof/Machine/Place.lean ====
section
/-! DEFINITION. What a team needs of a bay and how it is placed there (spec/02_execution_model.md R26 to R31,
spec/01_the_machine.md R19, spec/07_truss_fabric.md R197, spec/08_memory_model_and_check_codes.md R229 to R231,
spec/09_scheduling_and_leases.md R266, R268, spec/15_host_queues_launch.md R359, R361). -/

namespace Sys2Proof.Machine

/-! ## Needs -/

/-- What one team of a packet needs of a bay (R30, R361). -/
structure Need2 where
  slots : Nat
  regs : Nat
  bsp : Nat
  lps : Nat
  spl : Nat
  mxe : Bool
  mbox : BitVec 16
  shapes : List (Nat × Nat × BitVec 2)
  lease : Nat
  deriving DecidableEq, Repr

/-- `TEAMDIM` of a packet, from 1 to 2,048: its eleven bits read 0 for 2,048 (DEDUCED from R26 and Table 15.7,
notes/assumptions/14.md). -/
def packetDim (p : List W40) : Nat :=
  let n := packetField p 96 11
  if n = 0 then 2048 else n

/-- The `.bsp` declaration of a packet's kernel, which MEM.BSP rounds up to 256 bytes (R231): the one that came with the
kernel's program, or MEM.BSP × 256 where none came that MEM.BSP is the rounded size of (notes/assumptions/14.md). -/
def packetDecl (s : State) (ctx : Nat) (p : List W40) : Nat :=
  let n := packetField p 192 12
  match s.decls.find? fun d => d.ctx = ctx && d.entry = packetField p 0 64 && (d.bytes + 255) / 256 = n with
  | some d => d.bytes
  | none => n * 256

/-- `MODE.W32` of a packet's grid. -/
def packetW32 (p : List W40) : Bool := modeW32 (modeLaunch (wordAt p 4) ((wordAt p 7).getLsbD 21))

/-- The needs of a packet's team (Table 15.7). -/
def packetNeed (p : List W40) : Need2 where
  slots := (packetDim p + 63) / 64
  regs := packetField p 114 6 * 8
  bsp := packetField p 192 12 * 256
  lps := packetField p 160 7 * 16
  spl := packetField p 120 5 * 256
  mxe := packetField p 113 1 = 1
  mbox := BitVec.ofNat 16 (packetField p 208 16)
  shapes := (List.range (packetField p 233 5)).map fun k =>
    let b := packetField p (256 + 8 * k) 8
    (b / 32 + 1, b / 4 % 8 + 1, BitVec.ofNat 2 b)
  lease := if packetField p 176 1 = 1 then packetField p 168 8 else 0

/-- The bytes of a team's scratchpad allocation (R231). -/
def Need2.alloc (n : Need2) : Nat := n.bsp + n.slots * 64 * n.lps + n.slots * n.spl

/-! ## What a bay has free -/

/-- The teams that hold slots, registers and the engine: not those that a cluster only retains (R233). -/
def Bay.live (b : Bay) : List Team := b.teams.filter fun t => !t.retired

/-- The free warp slots of a bay. -/
def Bay.freeSlots (b : Bay) : List Nat := (List.range 32).filter fun i => !(b.live.any fun t => t.slots.contains i)

/-- The lane-register words in use on a bay (R19). -/
def Bay.usedRegs (b : Bay) : Nat := (b.live.map fun t => t.slots.length * 64 * t.regs).sum

/-- The scratchpad bytes in use on a bay. -/
def Bay.usedPad (b : Bay) : Nat := (b.teams.map (·.alloc)).sum

/-- Where rectangles of the shapes fit beside the cells in use: the first packing in row-major order (R197). -/
def packRegions : List (Nat × Nat × BitVec 2) → List (Nat × Nat) → Option (List (Nat × Nat))
  | [], _ => some []
  | (h, w, pat) :: r, used =>
    let lo := if pat.getLsbD 0 then 0 else 1
    let fits (col : Nat) : Bool :=
      (if pat.getLsbD 0 then col = 0 else lo ≤ col) && (if pat.getLsbD 1 then col + w = 8 else col + w ≤ 7)
    let places := (List.range (9 - min 8 h)).flatMap fun row =>
      ((List.range 8).filter fits).map fun col => (row, col)
    places.findSome? fun (row, col) =>
      let cells := (List.range h).flatMap fun i => (List.range w).map fun j => (row + i, col + j)
      if h ≤ 8 && w ≤ 8 && !(cells.any used.contains) then (packRegions r (cells ++ used)).map fun l => (row, col) :: l
      else none

/-- The checks of R266 in order: each true when the bay lacks that resource. A bay keeps the mailboxes of a saved team
(R378). -/
def Bay.lacks (b : Bay) (n : Need2) : List Bool :=
  [(n.mxe && b.live.any (·.mxe)) || b.mbox.any (fun p => n.mbox.getLsbD p.1 && p.2.owner.isSome),
   b.freeSlots.length < n.slots,
   Config.regWords < b.usedRegs + n.slots * 64 * n.regs,
   Config.padBytes < b.usedPad + n.alloc,
   (packRegions n.shapes (b.regions.flatMap Region.cells)).isNone,
   b.cap < n.lease]

/-- A team can be placed on a bay (R266). -/
def Bay.takes (b : Bay) (n : Need2) : Bool := !b.closed && (b.lacks n).all (! ·)

/-! ## Slots -/

/-- The window with the most free slots, the lowest on a tie (R268). -/
def bestWindow (free : List Nat) : Nat :=
  let n (k : Nat) : Nat := (free.filter fun i => i % 4 = k).length
  [1, 2, 3].foldl (fun best k => if n best < n k then k else best) 0

/-- Slots for n warps, window by window from window k: each takes the lowest free slot of the next window that has
one (R268). -/
def assignSlots (free : List Nat) (k : Nat) : Nat → List Nat
  | 0 => []
  | n + 1 =>
    match [0, 1, 2, 3].findSome? fun d => (free.find? fun i => i % 4 = (k + d) % 4).map fun i => (i, (k + d) % 4) with
    | none => []
    | some (i, w) => i :: assignSlots (free.filter (· != i)) ((w + 1) % 4) n

/-- The base of a new allocation: the lowest place beside those in use. Offsets only name bytes of the model's
scratchpad; that the sum fits is what R231 asks (notes/assumptions/14.md). -/
def padBase (b : Bay) (size : Nat) : Nat :=
  let clash (a : Nat) : Bool := b.teams.any fun t => a < t.bspBase + t.alloc && t.bspBase < a + size
  let ends := b.teams.map fun t => t.bspBase + t.alloc
  ((0 :: ends).filter fun a => !clash a).foldl (fun m a => match m with | some x => some (min x a) | none => some a) none
    |>.getD 0

/-! ## Placing -/

/-- A warp as it starts (R31, R65, R269, R359). -/
def newWarp (s : State) (key : TeamKey) (p : List W40) (wid half lanes : Nat) (mask : Mask) (args : List W40)
    (base : Word) : Warp where
  key := key
  wid := wid
  half := half
  lanes := lanes
  pc := doubleAt p 0
  mask := mask
  mode := modeLaunch (wordAt p 4) ((wordAt p 7).getLsbD 21)
  regs := []
  uregs := (args.zipIdx).foldl (fun m (v, i) => aput m i .zero v) []
  evpend := 0
  evmask := 0
  binds := []
  leaseDecl := packetField p 168 8
  leaseMeas := 0
  measured := packetField p 176 1 = 0
  hist := []
  touched := []
  selfLoss := 0
  commits := 0
  regBase := base
  stack := []
  spilled := 0
  acts := []
  region := none
  rdset := []
  check := none
  since := 0
  park := .running
  woken := false
  active := false
  stamp := s.now
  unbroken := false
  demote := false
  blk := none
  errs := []
  stop := false
  stepping := false
  stepRec := none
  prefetched := []
  outs := []
  started := true
  retired := mask = 0
  preempt := none

/-- The lanes of warp i of a team that exist (R26), with n lanes a warp. -/
def warpMask (dim n i : Nat) : Mask := maskOf ((List.range n).filter fun l => i * n + l < dim)

/-- The warps of a team on its slots: one a slot, or two half-warps under W32 (R29). -/
def teamWarps (s : State) (key : TeamKey) (p : List W40) (args : List W40) (slots : List Nat) : Assoc Warp :=
  let dim := packetDim p
  (slots.zipIdx).flatMap fun (slot, i) =>
    let base := Config.regBase (s.free + i)
    if packetW32 p then
      [0, 1].map fun h => (slot * 2 + h, newWarp s key p (2 * i + h) h 32 (warpMask dim 32 (2 * i + h)) args base)
    else [(slot * 2, newWarp s key p i 0 64 (warpMask dim 64 i) args base)]

/-- The regions of a new team. -/
def newRegions (key : TeamKey) (shapes : List (Nat × Nat × BitVec 2)) (at' : List (Nat × Nat)) : List Region :=
  ((shapes.zip at').zipIdx).map fun (((h, w, pat), (row, col)), k) =>
    ⟨key, k, row, col, h, w, pat, none, false, false, false, false, 0, 0, none, [], []⟩

/-- An element or port that a region takes over is cleared (R14). -/
def clearCells (b : Bay) (cells : List (Nat × Nat)) : Bay :=
  { b with
    elems := b.elems.filter fun (k, _) => !cells.contains (k / 8, k % 8)
    ports := b.ports.filter fun (r, _) => !cells.contains (r, 0) }

/-- A team of a grid placed on a bay that takes it: resources, zeroed scratchpad, data images, mailboxes, the matrix
engine, regions, warps, and the device-scope acquire of its first block (R229, R265, R248, R359, R361). -/
def placeTeam (s : State) (bay : Nat) (g : Grid) (tid rank clsize : Nat) : State :=
  let b := s.bay bay
  let p := g.packet
  let n := packetNeed p
  let key : TeamKey := ⟨g.gid, tid⟩
  let slots := assignSlots b.freeSlots (bestWindow b.freeSlots) n.slots
  let base := padBase b n.alloc
  let t : Team := ⟨key, g.ctx, slots, packetDim p, packetW32 p, n.regs, n.bsp, packetDecl s g.ctx p, base, n.lps,
    base + n.bsp, n.spl, base + n.bsp + n.slots * 64 * n.lps, n.alloc, [], n.mxe, n.mbox, packetField p 112 1 = 1, rank, clsize,
    false, false, false⟩
  let pad := g.images.foldl (fun m (sp, ofs, ws) => if sp = 2 then m.setWords (base + ofs) ws else m)
    (b.pad.clear base (base + n.alloc))
  let regions := newRegions key n.shapes ((packRegions n.shapes (b.regions.flatMap Region.cells)).getD [])
  let boxes := (List.range 16).filter fun m => n.mbox.getLsbD m
  let b1 := clearCells b (regions.flatMap Region.cells)
  let b2 : Bay := { b1 with
    pad := pad
    teams := b1.teams ++ [t]
    regions := b1.regions ++ regions
    warps := (teamWarps s key p g.args slots).foldl (fun m (k, x) => aset m k x) b1.warps
    mbox := boxes.foldl (fun m k => aset m k ⟨some key, [], 0, 0, false⟩) b1.mbox
    mx := if n.mxe then { Matrix.reset with owner := some key } else b1.mx }
  let s1 := ({ s with free := s.free + n.slots }.setBay bay b2).modGrid g.gid fun h => { h with placed := h.placed + 1 }
  let s2 := (teamWarps s key p g.args slots).foldl (fun (t : State) (q : Nat × Warp) => t.fetchNext (warpIdOf bay q.1))
    (s1.acquire bay 4)
  s2.admission bay

end Sys2Proof.Machine
end

