-- ==== Sys2Proof/Machine/Packet.lean ====
section
/-! DEFINITION. Launch packets: the reads they ask for, the checks of R358, and the grid they make
(spec/15_host_queues_launch.md R355 to R360, spec/09_scheduling_and_leases.md R268). -/

namespace Sys2Proof.Machine

/-! ## Reads (R355, R359) -/

/-- Why a read of the kingpost fails: the address and the walk that faulted, if one did (R375). -/
abbrev ReadFail := Option (Double × WalkFail)

/-- One word read at its home through a context's page tables, with its code. -/
def readVirt (s : State) (ctx : Nat) (va : Double) : Except ReadFail W40 :=
  if !canonical va || va.toNat % 4 != 0 then .error none
  else
    match s.translate ctx va (accNeed .read) with
    | .ok l => .ok (s.homeWord l)
    | .error f => .error (some (va, f))

/-- Consecutive words read through a context's page tables; the first failure when one cannot be read. -/
def readVirts (s : State) (ctx : Nat) (va : Double) : Nat → Except ReadFail (List W40)
  | 0 => .ok []
  | n + 1 =>
    match readVirt s ctx va with
    | .error f => .error f
    | .ok w => (readVirts s ctx (va + 4) n).map fun r => w :: r

/-- The reads of a run of words; none where the address is misaligned, since it is then refused without a walk. -/
def wordsReach (ctx : Nat) (va : Double) (n : Nat) : List Reach :=
  if va.toNat % 4 = 0 then spanReach ctx .read va (4 * n) else []

/-- A walk that fails in the kingpost's reads, with its record for a bad entry (R375); the team is that of a device launch,
which the record names. -/
def State.kingFail (s : State) (ctx bay : Nat) (key : TeamKey) (f : ReadFail) : State :=
  match f with
  | some (va, g) => s.walkFailed ctx .kingpost bay 0 key va .read g
  | none => s

/-- Words read and checked. -/
def readGood (s : State) (ctx : Nat) (va : Double) (n : Nat) : Except ReadFail (List W40) :=
  match readVirts s ctx va n with
  | .error f => .error f
  | .ok ws => if ws.all good then .ok ws else .error none

/-- A data image of a packet (R359): space, destination offset, words with their codes. -/
abbrev Image := Nat × Nat × List W40

/-- The data-image list from an address: each entry's words are checked, the words it names are read with their codes;
a reason of R411 where that fails. The list ends at the first entry of length 0; the fuel is more entries than the
address space holds. -/
def readImages (s : State) (ctx bsp : Nat) (va : Double) : Nat → Except (Nat × ReadFail) (List Image)
  | 0 => .error (0x05, none)
  | n + 1 =>
    match readGood s ctx va 4 with
    | .error f => .error (0x05, f)
    | .ok e =>
      let len := bitsOf (wordAt e 3) 23 0
      let sp := bitsOf (wordAt e 3) 26 24
      let ofs := (wordAt e 2).toNat
      let lim := if sp = 2 then bsp else (s.ctx ctx).lftn * 65536
      if len = 0 then .ok []
      else if !(sp = 2 || sp = 4) || len % 4 != 0 || ofs % 4 != 0 || (doubleAt e 0).toNat % 4 != 0 || lim < ofs + len then
        .error (0x06, none)
      else
        match readVirts s ctx (doubleAt e 0) (len / 4) with
        | .error f => .error (0x05, f)
        | .ok ws => (readImages s ctx bsp (va + 16) n).map fun r => (sp, ofs, ws) :: r

/-- The words of a data-image list that must be walked to before it can be read further (R373). -/
def imagesMiss (s : State) (ctx : Nat) (va : Double) : Nat → Option Reach
  | 0 => none
  | n + 1 =>
    match s.firstMiss (wordsReach ctx va 4) with
    | some r => some r
    | none =>
      match readGood s ctx va 4 with
      | .error _ => none
      | .ok e =>
        let len := bitsOf (wordAt e 3) 23 0
        if len = 0 then none
        else
          match s.firstMiss (wordsReach ctx (doubleAt e 0) (len / 4)) with
          | some r => some r
          | none => imagesMiss s ctx (va + 16) n

/-! ## Checks (R358) -/

/-- A loft offset that a packet uses lies in the allocation: bits [63:26] are reserved (R357). -/
def signalOk (s : State) (ctx : Nat) (p : List W40) (bit : Nat) : Bool :=
  let o := packetField p bit 26
  o % 8 = 0 && o + 8 ≤ (s.ctx ctx).lftn * 65536

/-- Every field of a packet lies in its stated range (Tables 15.6, 15.7). -/
def packetRanges (p : List W40) (deps : Bool) : Bool :=
  let f := packetField p
  f 64 32 < 2 ^ 31 && 4 ≤ f 114 6 && f 114 6 ≤ 32 && f 120 5 ≤ 16 && f 168 8 ≤ 128 &&
    f 160 7 ≤ 64 && f 192 12 ≤ 2048 && f 238 7 ≤ 64 && f 233 5 ≤ 16 && f 576 32 ≤ 2 ^ 20 && f 512 12 = 0 &&
    f 384 2 = 0 && f 448 4 = 0 && (!deps || f 224 2 ≤ 2)

/-- How many ranks a cluster of a packet's grid has. -/
def packetCluster (p : List W40) : Nat := if packetField p 112 1 = 1 then packetField p 108 4 + 1 else 1

/-- The ranks of a cluster assigned to the bays of a bent (R267): each to the lowest bay that still takes it. Bays are
given with their numbers; the answer names a bay for every rank. -/
def assignRanks (n : Need2) : Nat → List (Nat × Bay) → Option (List Nat)
  | 0, _ => some []
  | k + 1, bays =>
    match bays.find? fun q => q.2.takes n with
    | none => none
    | some (num, b) =>
      let slots := assignSlots b.freeSlots (bestWindow b.freeSlots) n.slots
      let t : Team := { noTeam ⟨0, 0⟩ with
        slots := slots, regs := n.regs, alloc := n.alloc, bspBase := padBase b n.alloc, mxe := n.mxe, mbox := n.mbox }
      let b1 : Bay := { b with
        teams := b.teams ++ [t]
        mbox := ((List.range 16).filter fun m => n.mbox.getLsbD m).foldl (fun m k => aset m k ⟨some ⟨0, 0⟩, [], 0, 0, false⟩)
          b.mbox
        regions := b.regions ++ newRegions ⟨0, 0⟩ n.shapes
          ((packRegions n.shapes (b.regions.flatMap Region.cells)).getD []) }
      (assignRanks n k (bays.map fun q => if q.1 = num then (num, b1) else q)).map fun r => num :: r

/-- A packet's team fits an empty bay, or its cluster an empty bent (R268). -/
def fitsEmpty (p : List W40) : Bool :=
  let n := { packetNeed p with lease := 0 }
  (assignRanks n (packetCluster p) ((List.range (if packetField p 112 1 = 1 then 4 else 1)).map fun i =>
    (i, Bay.reset i))).isSome

/-- The reason (R411) of the first check of R358 that a packet fails by its own words. `host` says that dependences count
(R279). -/
def packetFault (s : State) (ctx : Nat) (p : List W40) (host : Bool) : Option Nat :=
  let f := packetField p
  let ndep := if host then f 224 2 else 0
  if p.any fun w => !good w then some 0x08
  else if !(f 0 3 = 0 && canonical (doubleAt p 0)) then some 0x01
  else if !packetRanges p host then some 0x02
  else if f 108 4 != 0 && f 112 1 = 0 then some 0x03
  else if (f 226 1 = 1 && !signalOk s ctx p 640) || (1 ≤ ndep && !signalOk s ctx p 768) ||
      (2 ≤ ndep && !signalOk s ctx p 896) then some 0x04
  else none

/-- The read of a packet's arguments and images that must be walked before the packet can be checked (R373). -/
def packetMiss (s : State) (ctx : Nat) (p : List W40) (host : Bool) : Option Reach :=
  if (packetFault s ctx p host).isSome then none
  else
    let args := packetField p 238 7
    match s.firstMiss (wordsReach ctx (doubleAt p 12) args) with
    | some r => some r
    | none =>
      match readGood s ctx (doubleAt p 12) args with
      | .error _ => none
      | .ok _ => if doubleAt p 14 = 0 then none else imagesMiss s ctx (doubleAt p 14) (2 ^ 53)

/-- The first check of R358 that a packet fails, by its reason code (R411), with the walk that failed where a read did,
and otherwise its arguments and images. -/
def checkPacket (s : State) (ctx : Nat) (p : List W40) (host : Bool) : Except (Nat × ReadFail) (List W40 × List Image) :=
  let f := packetField p
  match packetFault s ctx p host with
  | some reason => .error (reason, none)
  | none =>
    match readGood s ctx (doubleAt p 12) (f 238 7) with
    | .error f => .error (0x05, f)
    | .ok args =>
      match (if doubleAt p 14 = 0 then .ok [] else readImages s ctx (packetDecl s ctx p) (doubleAt p 14) (2 ^ 53)) with
      | .error e => .error e
      | .ok images => if fitsEmpty p then .ok (args, images) else .error (0x07, none)

/-! ## Grids -/

/-- A new grid of a packet, not yet placed (R25, R54). -/
def newGrid (s : State) (ctx : Nat) (p : List W40) (queue : Option Nat) (depth : Nat)
    (parent : Option TeamKey) (pool : Option Nat) (args : List W40) (images : List Image) : Grid where
  gid := s.nextGid
  ctx := ctx
  packet := p
  queue := queue
  depth := depth
  parent := parent
  pool := pool
  nteam := packetField p 64 32 + 1
  placed := 0
  retired := 0
  children := 0
  args := args
  images := images
  lftDone := false
  faultInfo := 0
  passed := none
  named := false

/-- A grid enters the module. -/
def State.addGrid (s : State) (g : Grid) : State := { s with grids := s.grids ++ [g], nextGid := s.nextGid + 1 }

/-- The completion signal of a packet receives CINC at its loft home, with a system-scope release (R360). A signal whose
old words fail their check or are poisoned stays as it is: its home does not add to it, as R259 has it of a reduction.
R360 says nothing of such a word (DESIGN CHOICE, notes/assumptions/26.md). -/
def signalDone (s : State) (ctx : Nat) (p : List W40) : State :=
  if packetField p 226 1 = 0 then s
  else
    let a := Config.loftBase + (s.ctx ctx).lftb * 65536 + packetField p 640 26
    let old := s.mem.words a 2
    if old.all good then s.setHomeWords (.phys a) (doubleToks (doubleAt old 0 + doubleAt p 22)) else s

/-- A grid's `.lft` images copied once, before its first team is placed (R359). -/
def copyLoftImages (s : State) (g : Grid) : State :=
  if g.lftDone then s
  else
    let base := Config.loftBase + (s.ctx g.ctx).lftb * 65536
    (g.images.foldl (fun t (sp, ofs, ws) => if sp = 4 then t.setHomeWords (.phys (base + ofs)) ws else t) s).modGrid g.gid
      fun h => { h with lftDone := true }

end Sys2Proof.Machine
end

