-- ==== Sys2Proof/Machine/Perform.lean ====
section
/-! DEFINITION. What a commit operation does when its block commits (spec/02_execution_model.md R39, R40, R54, R55,
spec/05_memory_control_instructions.md R136, R137, R152, R153, R159, spec/15_host_queues_launch.md R358, R361). -/

namespace Sys2Proof.Machine

/-- The answer of a commit operation: it must wait, it faulted or its block is discarded, or it was performed and
gives each lane its result. -/
inductive CopOut where
  | wait
  | stop (s : State)
  | done (s : State) (r : List (Nat × Tok))

/-! ## Occurrences of events wherever the warps are -/

/-- An edge occurrence at the bound slots of warps by context and team, the saved ones included (R144, R148). -/
def State.occurAll (s : State) (who : Nat → TeamKey → Bool) (p : EventBind → Bool) : State :=
  let s1 := s.mapWarps fun w x => if who (s.ctxOf w) x.key then markEvents x p else x
  { s1 with saved := s1.saved.map fun t =>
      if who t.ctx t.team.key then
        { t with image := { t.image with warps := t.image.warps.map fun (k, x) => (k, markEvents x p) } }
      else t }

/-- A child grid of a team has retired (R144). -/
def childOccurrence (s : State) (key : TeamKey) : State := s.occurAll (fun _ k => k = key) fun e => e.kind = 5

/-- The depth of a team's grid. -/
def keyDepth (s : State) (k : TeamKey) : Nat := ((s.grid? k.gid).map (·.depth)).getD 0

/-- A launch-pool entry returned to its part, kept for its launcher when it is marked for it, with the `.pool`
occurrence in the context's warps: every one for the shared part, those of the same depth for a reserve (R55, R280). -/
def returnEntry (s : State) (ctx i : Nat) : State :=
  let e := s.poolEntry i
  ({ s with pool := aset s.pool i { e with used := false, gid := 0, launcher := none } }).occurAll
    (fun c k => c = ctx && (e.part = 0 || keyDepth s k + 1 = e.part)) fun b => b.kind = 7

/-! ## Atomic operations -/

/-- The lanes of an `ATOM` performed in rising order (R137): a bad old word is answered with its lane, its identity and
the state in which the lanes before it have been performed. -/
def atomLanes (s : State) (w : WarpId) (op t space : Nat) :
    List (HeldLane × Loc) → List (Nat × Tok) → Except (State × Nat × WordIdent × W40) (State × List (Nat × Tok))
  | [], r => .ok (s, r)
  | (l, p) :: rest, r =>
    match performAtomic s w op t space p (tokVal l.b) (tokVal l.c) with
    | .error (i, v) => .error (s, l.lane, .mem space (l.va.toNat + 4 * i), v)
    | .ok (s1, old) => atomLanes s1 w op t space rest (r ++ [(l.lane, old)])

/-- ATOM at commit (R136, R137, R39): every lane's address passes before any lane is performed. -/
def performAtom (s : State) (w : WarpId) (x : Warp) (opc : Nat) (f : FmtM) (h : HeldOp) : CopOut :=
  let space := f.space.toNat
  match resolveLanes s w x space (atomBytes f) (accNeed .atomic) (h.lanes.map fun l => (l.lane, l.va)) with
  | .error (lanes, va, e) => .stop (s.addrFault w (some h.node) (maskOf lanes) space va .atomic e)
  | .ok rs =>
    let ls := h.lanes.filterMap fun l => (rs.find? fun r => r.1 = l.lane).map fun r => (l, r.2.2)
    let rel := f.order.getLsbD 1 && !ls.isEmpty
    if s.merges.any (·.warp = w) || (rel && releaseWaits s w f.scope.toNat) ||
        ls.any (fun p => (atomLocs space f.mod.toNat p.2).any s.storeHeld) then
      .wait
    else
      let s1 := if rel then s.release w.bay f.scope.toNat else s
      match atomLanes s1 w (atomOp opc) f.mod.toNat space ls [] with
      | .error (s2, lane, i, v) => .stop (s2.consumed w i v (some h.node) (maskOf [lane]) 2)
      | .ok (s2, r) => .done (if f.order.getLsbD 0 && !ls.isEmpty then s2.acquire w.bay f.scope.toNat else s2) r

/-! ## Mailboxes -/

/-- The hardware messages of a mailbox (R150). -/
def mailboxRoom : Nat := 32

/-- The spill slice of an owner's mailbox (R361): its context, base address and capacity in messages, none when the
packet gives no spill area. -/
def spillSlice (s : State) (key : TeamKey) (m : Nat) : Option (Nat × Double × Nat) :=
  match s.grid? key.gid with
  | none => none
  | some g =>
    let p := g.packet
    let n := packetField p 576 32
    let base := doubleAt p 16
    let owned := (List.range 16).filter fun i => packetField p (208 + i) 1 = 1
    let k := (owned.filter fun i => decide (i < m)).length
    if n = 0 || base = 0 then none
    else some (g.ctx, base + BitVec.ofNat 64 (16 * n * (owned.length * key.tid + k)), n)

/-- A message written into a slot of a spill slice (R361); the walk's failure, if it was one, when the write faults. -/
def spillWrite (s : State) (bay ctx : Nat) (a : Double) (m : Tok) : Except ReadFail State :=
  if !canonical a then .error none
  else
    match s.translate ctx a ⟨2, false⟩ with
    | .ok l => .ok ((s.toHome bay l).setHomeWords l m)
    | .error f => .error (some (a, f))

/-- A mailbox replaced. -/
def State.setMailbox (s : State) (bay m : Nat) (b : Mailbox) : State :=
  s.modBay bay fun y => { y with mbox := aset y.mbox m b }

/-- A refusal with status 2 (R152): the owner's `.mbox` slots receive an occurrence, the refusal bit is set, and the
driver has a notice (R411). -/
def refuseMessage (s : State) (bay m : Nat) (b : Mailbox) (key : TeamKey) : State :=
  let s1 := (s.setMailbox bay m { b with refused := true }).occur bay (·.key = key) fun e => e.kind = 2 && e.sel = m
  s1.notice (((s.grid? key.gid).map (·.ctx)).getD 0) 0x10 bay 0 0 0 0 0 (BitVec.ofNat 64 m) 0
    (BitVec.ofNat 64 ((b.msgs.length + b.spillCount) % 2 ^ 16))

/-- The mailbox that a destination word names: bay, number, contents and owner; none where no team owns it (R152). -/
def boxOf (s : State) (dest : Word) : Option (Nat × Nat × Mailbox × TeamKey) :=
  let bay := bitsOf dest 31 24
  let k := bitsOf dest 3 0
  let b := agetD (s.bay bay).mbox k .reset
  if Config.bays ≤ bay || bitsOf dest 23 4 != 0 then none else b.owner.map fun key => (bay, k, b, key)

/-- The hardware queue of an owned mailbox takes a message. -/
def hardwareTakes (s : State) (bay : Nat) (b : Mailbox) (key : TeamKey) : Bool :=
  b.msgs.length < mailboxRoom && b.spillCount = 0 && (s.team? bay key).isSome && !(s.bay bay).closed

/-- The slot that takes the next spilled message of a mailbox (R361): context and address, none when the slice is full or
there is none. -/
def spillSlot (s : State) (k : Nat) (b : Mailbox) (key : TeamKey) : Option (Nat × Double) :=
  (spillSlice s key k).bind fun (ctx, base, n) =>
    if n ≤ b.spillCount then none else some (ctx, base + BitVec.ofNat 64 (16 * ((b.spillHead + b.spillCount) % n)))

/-- One message offered to a mailbox (R152): hardware takes it while it has room and nothing has spilled, so that a
sender's messages keep their order; otherwise, and while the owner is saved or its bay is being retired (R378, R404),
the spill slice takes it. -/
def offerMessage (s : State) (dest : Word) (m : Tok) : State × Nat :=
  match boxOf s dest with
  | none => (s, 3)
  | some (bay, k, b, key) =>
    if hardwareTakes s bay b key then ((s.setMailbox bay k { b with msgs := b.msgs ++ [m] }).mailboxLevel bay k, 0)
    else
      match spillSlot s k b key with
      | none => (refuseMessage s bay k b key, 2)
      | some (ctx, va) =>
        match spillWrite s bay ctx va m with
        | .error f =>
          (refuseMessage (f.elim s fun g => s.walkFailed ctx .walker bay 0 key g.1 .write g.2) bay k b key, 2)
        | .ok s1 => ((s1.setMailbox bay k { b with spillCount := b.spillCount + 1 }).mailboxLevel bay k, 1)

/-- The message of a lane (R150): the device fills word 0 [31:12]. -/
def messageOf (w : WarpId) (x : Warp) (lane : Nat) (m : Tok) : Tok :=
  let v : Word := BitVec.ofNat 32 (bitsOf (wordAt m 0) 11 0 + lane % 64 * 2 ^ 12 + x.wid % 64 * 2 ^ 18 + w.bay % 256 * 2 ^ 24)
  fresh v :: m.drop 1

/-- The lanes of a `SEND` in rising order: a release, then the offer. -/
def sendLanes (s : State) (w : WarpId) (x : Warp) (scope : Nat) : List HeldLane → List (Nat × Tok) → State × List (Nat × Tok)
  | [], r => (s, r)
  | l :: rest, r =>
    let (s1, st) := offerMessage (s.release w.bay scope) (wordAt l.a 0) (messageOf w x l.lane l.b)
    sendLanes s1 w x scope rest (r ++ [(l.lane, tokOf 1 st)])

/-- The spill slot that a `SEND` must have walked first (R373), its lanes offered in rising order up to it. -/
def sendMiss (s : State) (w : WarpId) (x : Warp) (scope : Nat) : List HeldLane → Option Reach
  | [] => none
  | l :: rest =>
    let dest := wordAt l.a 0
    let slot := (boxOf s dest).bind fun (bay, k, b, key) => if hardwareTakes s bay b key then none else spillSlot s k b key
    match s.firstMiss (slot.toList.map fun (ctx, va) => ⟨ctx, ⟨2, false⟩, .write, va⟩) with
    | some r => some r
    | none => sendMiss (offerMessage (s.release w.bay scope) dest (messageOf w x l.lane l.b)).1 w x scope rest

/-- SEND at commit (R152). -/
def performSend (s : State) (w : WarpId) (x : Warp) (f : FmtE) (h : HeldOp) : CopOut :=
  let scope := bitsOf f.imm 2 0
  if !h.lanes.isEmpty && (s.merges.any (·.warp = w) || releaseWaits s w scope) then .wait
  else
    let (s1, r) := sendLanes s w x scope h.lanes []
    .done s1 r

/-- What a lane receives from an empty mailbox (R153). -/
def noMessage : Tok := [fresh 0xFF000000, fresh 0, fresh 0, fresh 0]

/-- The oldest message of a mailbox removed (R153): hardware messages first, then spilled ones. -/
def takeMessage (s : State) (bay k : Nat) : State × Tok :=
  let b := agetD (s.bay bay).mbox k .reset
  match b.msgs with
  | m :: r => (s.setMailbox bay k { b with msgs := r }, m)
  | [] =>
    match (if b.spillCount = 0 then none else b.owner.bind fun key => spillSlice s key k) with
    | none => (s, noMessage)
    | some (ctx, base, n) =>
      match s.translate ctx (base + BitVec.ofNat 64 (16 * (b.spillHead % n))) (accNeed .read) with
      | .ok l =>
        let s1 := s.toHome bay l
        (s1.setMailbox bay k { b with spillHead := (b.spillHead + 1) % n, spillCount := b.spillCount - 1 },
          s1.homeWords l 4)
      | .error f => (s.listPoison f, noMessage)

/-- Messages removed for lanes in rising order. -/
def takeMessages (s : State) (bay k : Nat) : List Nat → List (Nat × Tok) → State × List (Nat × Tok)
  | [], r => (s, r)
  | l :: rest, r =>
    let (s1, m) := takeMessage s bay k
    takeMessages s1 bay k rest (r ++ [(l, m)])

/-- The slots of the spilled messages that n removals would take. -/
def spillReads (s : State) (bay k n : Nat) : List Reach :=
  let b := agetD (s.bay bay).mbox k .reset
  match b.owner.bind fun key => spillSlice s key k with
  | none => []
  | some (ctx, base, size) =>
    (List.range (min b.spillCount (n - b.msgs.length))).map fun i =>
      reach ctx .read (base + BitVec.ofNat 64 (16 * ((b.spillHead + i) % size)))

/-- The first spilled message that n removals would take and whose slot does not translate. -/
def spillReadFail (s : State) (bay k n : Nat) : Option (Double × AddrFail) :=
  (spillReads s bay k n).findSome? fun r =>
    match s.translate r.ctx r.va r.need with
    | .ok _ => none
    | .error e => some (r.va, .walk e)

/-- TRYRECV at commit (R153): the spilled messages it will take are translated first (R39). -/
def performTryrecv (s : State) (w : WarpId) (f : FmtE) (h : HeldOp) : CopOut :=
  match h.lanes with
  | [] => .done s []
  | _ =>
    let k := resNum f
    match spillReadFail s w.bay k h.lanes.length with
    | some (a, e) => .stop (s.addrFault w (some h.node) (maskOf (h.lanes.map (·.lane))) 0 a .read e)
    | none =>
      let (s1, r) := takeMessages s w.bay k (h.lanes.map (·.lane)) []
      .done ((s1.mailboxLevel w.bay k).acquire w.bay (bitsOf f.imm 2 0)) r

/-! ## Launch -/

/-- The first entry of a range that a launch may draw. -/
def freeEntry (s : State) (lo n : Nat) (held : Option TeamKey) : Option Nat :=
  ((List.range n).map (lo + ·)).find? fun i => !(s.poolEntry i).used && (s.poolEntry i).held = held

/-- The entry that a launch of a team at a depth draws (R55): one held for the team, a shared one, or one of the depth's
reserve. -/
def drawEntry (s : State) (key : TeamKey) (depth : Nat) : Option Nat :=
  match freeEntry s 0 8192 (some key) with
  | some i => some i
  | none =>
    match freeEntry s 0 7168 none with
    | some i => some i
    | none => freeEntry s (7168 + 64 * depth) 64 none

/-- A launch refused for want of an entry (R55): the entries that the team has drawn will be held for it when they
return. -/
def markEntries (s : State) (key : TeamKey) : State :=
  { s with pool := s.pool.map fun (i, e) => (i, if e.used && e.launcher = some key then { e with held := some key } else e) }

/-- An entry drawn, the holds of free entries for the team ended (R55). -/
def takeEntry (s : State) (key : TeamKey) (i gid : Nat) : State :=
  let p := s.pool.map fun (j, e) => (j, if !e.used && e.held = some key then { e with held := none } else e)
  let e := s.poolEntry i
  { s with pool := aset p i { e with used := true, uses := e.uses + 1, gid := gid, launcher := some key, held := none } }

/-- The child handle of an entry (R159). -/
def childHandle (i : Nat) (e : PoolEntry) : Nat := i % 2 ^ 13 * 2 ^ 16 + e.uses % 8 * 2 ^ 29

/-- A launch accepted: the child is queued; a descriptor that fails R358 gives a child that retires at once. -/
def acceptLaunch (s : State) (w : WarpId) (x : Warp) (g : Grid) (i : Nat) (va : Double) (p : List W40) : State × Nat :=
  let s1 := takeEntry s x.key i s.nextGid
  let handle := childHandle i (s1.poolEntry i)
  match checkPacket s1 g.ctx p false with
  | .error (reason, f) =>
    let sig := reason != 0x08 && signalOk s1 g.ctx p 640
    let s2 : State := if sig then signalDone (s1.kingFail g.ctx w.bay x.key f) g.ctx p else s1.kingFail g.ctx w.bay x.key f
    let s3 : State := { s2 with nextGid := s2.nextGid + 1 }
    let s4 := childOccurrence (returnEntry s3 g.ctx i) x.key
    (s4.notice g.ctx 0x22 w.bay 0 0 x.key.tid x.key.gid 0 va 0 (BitVec.ofNat 64 reason), handle)
  | .ok (args, images) =>
    let c := newGrid s1 g.ctx p g.queue (g.depth + 1) (some x.key) (some i) args images
    let s2 := (s1.addGrid c).modGrid g.gid fun y => { y with children := y.children + 1 }
    ({ s2 with devQueue := s2.devQueue ++ [c.gid] }, handle)

/-- LAUNCH at commit (R54, R55, R159): only the team leader launches; the descriptor is 128-aligned (R357) and lies in
one page. The release covers what every warp of the team has released before: their sub-word stores reach their stage
first. -/
def performLaunch (s : State) (w : WarpId) (x : Warp) (h : HeldOp) : CopOut :=
  let wrong := (h.lanes.filter fun l => !(x.wid = 0 && l.lane = 0)).map (·.lane)
  match h.lanes, s.grid? x.key.gid with
  | [], _ => .done s []
  | l :: _, some g =>
    let lanes := maskOf [l.lane]
    if !wrong.isEmpty then .stop (s.progFault w 0x0A (some h.node) (maskOf wrong))
    else
      match s.resolve w (s.teamD w x) x 0 0 l.va 128 (accNeed .read) with
      | .error e => .stop (s.addrFault w (some h.node) lanes 0 l.va .read e)
      | .ok loc =>
        if s.merges.any fun m => (s.warp? m.warp).any (·.key = x.key) then .wait
        else
          let s1 := s.release w.bay 4
          if 16 ≤ g.depth then .done s1 [(l.lane, tokOf 1 2)]
          else
            match drawEntry s1 x.key g.depth with
            | none => .done (markEntries s1 x.key) [(l.lane, tokOf 1 1)]
            | some i =>
              let (s2, v) := acceptLaunch s1 w x g i l.va (s1.homeWords loc 32)
              .done s2 [(l.lane, tokOf 1 v)]
  | _ :: _, none => .done s []

/-- The descriptor of a `LAUNCH`, or what its packet names, that must be walked to first (R373). -/
def launchMiss (s : State) (w : WarpId) (x : Warp) (h : HeldOp) : Option Reach :=
  match h.lanes, s.grid? x.key.gid with
  | l :: _, some g =>
    let c := s.ctxOf w
    if x.wid != 0 || h.lanes.any (fun l => l.lane != 0) || l.va.toNat % 128 != 0 then none
    else
      match s.firstMiss [reach c .read l.va] with
      | some r => some r
      | none =>
        let s1 := s.release w.bay 4
        if 16 ≤ g.depth || (drawEntry s1 x.key g.depth).isNone then none
        else
          match s.resolve w (s.teamD w x) x 0 0 l.va 128 (accNeed .read) with
          | .ok loc => packetMiss s1 g.ctx (s1.homeWords loc 32) false
          | .error _ => none
  | _, _ => none

/-- The first page that a commit operation must have walked before it is performed (R373, R39). -/
def copMiss (s : State) (w : WarpId) (x : Warp) (b : Blk) (h : HeldOp) : Option Reach :=
  match nodeAt b.words h.node with
  | (_, .m f) =>
    if f.space != 0 then none
    else s.firstMiss ((h.lanes.takeWhile fun l => l.va.toNat % atomBytes f = 0).map fun l => reach (s.ctxOf w) .atomic l.va)
  | (o, .e f) =>
    if o = 0x180 then sendMiss s w x (bitsOf f.imm 2 0) h.lanes
    else if o = 0x181 then s.firstMiss (if h.lanes.isEmpty then [] else spillReads s w.bay (resNum f) h.lanes.length)
    else launchMiss s w x h
  | _ => none

/-- The commit operation of a block performed (R39, R40). -/
def performCop (s : State) (w : WarpId) (x : Warp) (b : Blk) (h : HeldOp) : CopOut :=
  match nodeAt b.words h.node with
  | (o, .m f) => performAtom s w x o.toNat f h
  | (o, .e f) =>
    if o = 0x180 then performSend s w x f h
    else if o = 0x181 then performTryrecv s w f h
    else performLaunch s w x h
  | _ => .done s []

end Sys2Proof.Machine
end

