-- ==== Sys2Proof/Machine/Commit.lean ====
section
/-! DEFINITION. The event BLOCK_COMMIT and the events of a warp between its blocks: SUBWORD_MERGE, HOME_CHECK_FAILURE,
ENGINE_ERROR, PREEMPT_BLOCK_TIMEOUT, WAITANY_WAKE, WAITADDR_WAKE (spec/02_execution_model.md R38 to R41, R51, R57,
spec/05_memory_control_instructions.md R147, R149, R157, spec/08_memory_model_and_check_codes.md R256, R259,
spec/09_scheduling_and_leases.md R270, R274, spec/16_faults_translation_preemption.md R380 to R382). -/

namespace Sys2Proof.Machine

/-! ## Completion and the commit operation -/

/-- Every node has fired (R38): with that, every slot is complete and every LSID resolved. -/
def allFired (b : Blk) : Bool := b.capture.isNone && (List.range (hdr b.words).n).all b.done

/-- What the vote or the stack forbids, taken as its precise fault (R38, R45, R130, R131, R147). An exit fault's record
names the lanes with no exit or with several, and those with several at 0x020; a wait fault's names the wait node. -/
def voteFault (s : State) (w : WarpId) (sub : Nat) (lanes many : Mask) : State :=
  let waiting (b : Blk) : Option Nat :=
    (List.range (hdr b.words).n).find? fun k => waitClass (nodeAt b.words k).1.toNat
  let node := if sub = 0x05 then ((s.warp? w).bind (·.blk)).bind waiting else none
  s.takeFault w { kind := 0x05, sub := sub, node := node, lanes := lanes, va := many } none

/-- A region ends (R57). -/
def endRegion (s : State) (w : WarpId) : State := s.modWarp w fun x => { x with region := none, rdset := [] }

/-- The results of the commit operation delivered to its write slots (R39), null for the other lanes. -/
def deliverCop (b : Blk) (h : HeldOp) (r : List (Nat × Tok)) : Except (Nat × Mask) Blk :=
  let (o, f) := nodeAt b.words h.node
  deliverAll { b with cop := none } ((nodeTargets o.toNat f).map fun p => (p.1, byLane r))

/-! ## Register writes (R40, R62, R66) -/

/-- The lowest lane of M with a token in a slot, and that token. -/
def lowestTok (b : Blk) (key : Nat) : Option Tok := (lanesOf b.m).findSome? fun l => slotTok b.slots key l

/-- Write slot j written: lane registers lane by lane, a uniform or special register from the lowest lane (R62). -/
def writeSlotReg (b : Blk) (x : Warp) (j : Nat) : Warp :=
  let e := writeEntry b.words j
  let num := bitsOf e 13 6
  let cls := bitsOf e 15 14
  if cls = 0 then
    (lanesOf b.m).foldl (fun y l =>
      match slotTok b.slots (writeKey j) l with
      | some t => (t.zipIdx).foldl (fun (z : Warp) (v, i) => z.setReg (num + i) l v) y
      | none => y) x
  else
    match lowestTok b (writeKey j) with
    | none => x
    | some t => if cls = 1 then (t.zipIdx).foldl (fun (z : Warp) (v, i) => z.setUreg (num + i) v) x
                else x.setSpecial num (wordAt t 0)

/-- The special registers that `SWR` nodes write (R106). -/
def writeSwr (b : Blk) (x : Warp) (h : HeldOp) : Warp :=
  match h.lanes, nodeAt b.words h.node with
  | l :: _, (_, .a f) => if h.lsid = 64 then x.setSpecial (bitsOf f.ext 7 0) (wordAt l.a 0) else x
  | _, _ => x

/-- Every register write of a committing block, all at once (R40). Of two `SWR` nodes that name one register the later to
fire wins (DESIGN CHOICE, log entry 20). -/
def writeRegisters (b : Blk) (x : Warp) : Warp :=
  b.held.foldl (writeSwr b) ((List.range (hdr b.words).wc).foldl (writeSlotReg b) x)

/-! ## Releases -/

/-- The state in which a held operation stands for the operation table (R382): nothing to note for one that is done, the
number of its request when an engine has taken it, none when its release reported an error. -/
def noteIssued (s s1 : State) (w : WarpId) (h : HeldOp) : State :=
  let count (t : State) : Nat :=
    ((t.warp? w).map (·.errs.length)).getD 0 + (t.reports.filter (·.warp = w)).length
  let entry : List (Nat × Option Nat) :=
    if count s < count s1 then [(h.node, none)]
    else if s.holdSeq < s1.holdSeq then [(h.node, some s.holdSeq)] else []
  s1.modBlk w fun c => { c with issued := c.issued ++ entry }

/-- Held operations released in order until one must wait: the state and what is left. -/
def releaseAll (s : State) (w : WarpId) (b : Blk) : List HeldOp → State × List HeldOp
  | [] => (s, [])
  | h :: r =>
    match releaseOp s w b h with
    | none => (s, h :: r)
    | some s1 => releaseAll (noteIssued s s1 w h) w b r

/-- The wait that a block performs (R147): of two wait nodes that fire with lanes, the one of the lower LSID (DESIGN
CHOICE, notes/assumptions/21.md). -/
def Blk.wait (b : Blk) : Option HeldOp := (sortHeld (b.waits.filter fun h => !h.lanes.isEmpty)).head?

/-- The evaluation of a `WAITADDR` reads a line, so it waits while an engine will write it and behind the warp's own
merges. -/
def waitBlocked (s : State) (w : WarpId) (b : Blk) : Bool :=
  match b.wait with
  | some h => (h.lanes.filterMap (·.loc)).any fun l => s.loadHeld w.bay l || s.merges.any (·.warp = w)
  | none => false

/-! ## Waits (R147, R149) -/

/-- The slots of a mask that can wake a warp: bound and not masked. A write of EVMASK by a write entry or `SWR` governs
the tests from the next block on (R106), so a block's own wait is tested with the mask before it. -/
def wakeSlots (x : Warp) (m : BitVec 16) : BitVec 16 :=
  let masked := ((x.blk.bind (·.evtest)).getD x.evmask)
  (x.binds.foldl (fun (v : BitVec 16) p => v ||| (1 <<< p.1)) 0) &&& m &&& ~~~masked

/-- The lowest set bit of a slot mask. -/
def lowestSlot (m : BitVec 16) : Nat := ((List.range 16).find? fun k => m.getLsbD k).getD 0

/-- A warp takes the handler of the lowest pending slot of a set (R147): the bit is cleared, a level slot's bit then
follows its mailbox again. -/
def takeHandler (s : State) (w : WarpId) (x : Warp) (set : BitVec 16) (mask : Mask) : State :=
  let k := lowestSlot (x.evpend &&& set)
  let addr := ((aget x.binds k).map (·.handler)).getD 0
  let s1 := s.modWarp w fun y => { y with evpend := y.evpend &&& ~~~((1 : BitVec 16) <<< k) }
  runGroup (levelsAgain s1 w x) w ⟨0, addr, mask, .none⟩

/-- WAITANY evaluated (R147). -/
def evalWaitAny (s : State) (w : WarpId) (m : BitVec 16) (g : Group) : State :=
  match s.warp? w with
  | none => s
  | some x =>
    let set := wakeSlots x m
    if set = 0 then runGroup s w g
    else if x.evpend &&& set != 0 then takeHandler s w x set g.mask
    else
      (endRegion (s.modWarp w fun y => { runAt y g.addr g.mask with blk := none }) w).parkWarp w (.waitAny set g.mask)

/-- WAITADDR evaluated (R149): the word is read with an acquire; a bad word counts as different. -/
def evalWaitAddr (s : State) (w : WarpId) (f : FmtE) (l : HeldLane) (g : Group) : State :=
  match l.loc with
  | none => runGroup s w g
  | some p =>
    let sp := bitsOf f.imm 2 0
    let (s1, v) := (s.acquire w.bay (bitsOf f.imm 5 3)).loadWord w sp 0 p
    let want := wordAt l.b 0
    if !good v || v.v != want then runGroup s1 w g
    else
      (endRegion (s1.modWarp w fun y => { runAt y g.addr g.mask with blk := none }) w).parkWarp w
        (.waitAddr p l.va sp want g.addr g.mask)

/-- What follows the releases: the wait, when it fired, in place of the successor step (R125), or the successors. -/
def followUp (s : State) (w : WarpId) (b : Blk) : State :=
  match b.wait, flowGroups b with
  | some h, g :: _ =>
    match h.lanes, nodeAt b.words h.node with
    | [], _ => successors s w b
    | l :: _, (o, .e f) =>
      if o = 0x175 then evalWaitAny s w (f.imm.extractLsb' 0 16) g else evalWaitAddr s w f l g
    | _, _ => successors s w b
  | _, _ => successors s w b

/-! ## Counting (R270, R274, R258, R345) -/

/-- A window's commit counted in its turn; its first commit begins the first turn (R274). -/
def countTurn (b : Bay) (win : Nat) : Bay :=
  let b1 := if (aget b.turn win).isSome then b
    else { b with warps := b.warps.map fun (k, x) => (k, if windowOf k = win then { x with unbroken := x.active } else x) }
  { b1 with turn := aset b1.turn win (agetD b1.turn win 0 + 1), blks := b1.blks + 1 }

/-- A number counted up in a list of counts. -/
def countUp (w : WarpId) : List (WarpId × Nat) → List (WarpId × Nat)
  | [] => [(w, 1)]
  | (v, n) :: r => if v = w then (v, n + 1) :: r else (v, n) :: countUp w r

/-- A commit counted: the measured lease, the check record after 4,096 blocks, the turn, the blocks since a safe-point
request, and the words that the region has read (R57). -/
def countCommit (s : State) (w : WarpId) (x : Warp) (b : Blk) : State :=
  let y := measureCommit x
  let n := x.since + 1
  let z := { y with
    since := n
    check := if n = 4096 then none else y.check
    rdset := if y.region.isSome then distinctLocs (y.rdset ++ b.reads) else [] }
  let s1 := (s.setWarp w z).modBay w.bay fun c => countTurn c (windowOf (wkey w))
  let c := s1.ctxOf w
  let s2 := if (s1.ctx c).safeReq then s1.modCtx c fun t => { t with safeCounts := countUp w t.safeCounts } else s1
  if effLease z = effLease x then s2 else s2.admission w.bay

/-! ## The step record (R381, R382) -/

/-- An engine still holds the request of a number: a chain of copies, a stream binding, an image load or a matrix
command. -/
def requestInFlight (b : Bay) (n : Nat) : Bool :=
  b.kicks.any (·.chain = n) || b.copies.any (·.kick.chain = n) || b.mx.queue.any (·.seq = n) || b.mx.cur.any (·.seq = n) ||
    b.regions.any (fun g => g.loads.any (·.seq = n)) ||
    b.ports.any fun p => (p.2.bind false).any (·.seq = n) || (p.2.bind true).any (·.seq = n)

/-- A store is still on its way: to its merge stage, which the last store of a block alone can wait for, or to a peer that
has not acknowledged it. -/
def storeInFlight (s : State) (w : WarpId) (last : Bool) (h : HeldOp) : Bool :=
  (last && s.merges.any (·.warp = w)) ||
    h.lanes.any fun l => match l.loc with
      | some (.remote peer pa) => s.vl.outs.any fun o => o.2.unacked.any fun q =>
          q.warp = w && q.write.peer = peer && q.write.addr = pa
      | _ => false

/-- An entry of the operation table (R382); `last` says that no operation of the block follows it. -/
def opEntry (s : State) (w : WarpId) (b : Blk) (last : Bool) (h : HeldOp) : Double :=
  let opc := (nodeAt b.words h.node).1.toNat
  let state : Nat :=
    if h.lanes.isEmpty then 3
    else
      match aget b.issued h.node with
      | some none => 2
      | some (some n) => if requestInFlight (s.bay w.bay) n then 1 else 0
      | none => if opc = 0x121 && storeInFlight s w last h then 1 else 0
  BitVec.ofNat 64 (h.lsid % 64 + opc * 2 ^ 6 + state * 2 ^ 16)

/-- The engine commands, held releases and commit operation of a block in LSID order. -/
def tableOps (b : Blk) (cop : Option HeldOp) : List HeldOp :=
  (sortHeld (b.held ++ cop.toList)).filter fun h => h.lsid < 64

/-- After a stepped block has committed the warp delivers a step record and parks; a warp that its own wait or export
has parked waits with the record pending (R381). -/
def stepRecord (s : State) (w : WarpId) (b : Blk) (cop : Option HeldOp) : State :=
  match s.warp? w with
  | none => s
  | some x =>
    if x.retired then s
    else
      let g : Group := match x.park with | .service _ (some h) => h | _ => ⟨0, x.pc, x.mask, .none⟩
      let i : RecInfo := { kind := 0x08, sub := 2, lanes := b.m, f040 := g.addr }
      let m := warpRecord s w { x with blk := some b } i
      let ops := tableOps b cop
      let m1 := ops.zipIdx.foldl (fun t (h, k) =>
        putDouble t (0x11C0 + 8 * k) (opEntry s w b ((ops.drop (k + 1)).all (·.lanes.isEmpty)) h)) m
      let r : Record := ⟨s.recNum, s.ctxOf w, 0x08, .warp w, m1, none⟩
      let s1 := s.modWarp w fun y => { y with stepping := false }
      (match x.park with
       | .running | .service _ _ => s1.parkWarp w (.service s.recNum (some g))
       | _ => s1.modWarp w fun y => { y with stepRec := some s.recNum }).addRecord r

/-! ## BLOCK_COMMIT -/

/-- The end of a commit: counts, the wait or the successors, the step record, what the boundary brings. -/
def finishCommit (s : State) (w : WarpId) (b0 : Blk) : State :=
  match s.warp? w with
  | none => s
  | some x =>
    let b := x.blk.getD b0
    let s1 := (followUp (countCommit s w x b) w b).modWarp w fun y => { y with blk := none }
    (if x.stepping then stepRecord s1 w b b.cop else s1).settle w

/-- Releases go on as far as they can; after the last one the commit ends. None when nothing can move. -/
def goOn (s : State) (w : WarpId) (b : Blk) (fresh : Bool) (hs : List HeldOp) : Option State :=
  let (s1, rest) := releaseAll s w b hs
  if rest.isEmpty && !waitBlocked s1 w b then some (finishCommit s1 w b)
  else if fresh || rest.length < hs.length then some (s1.modBlk w fun c => { c with releasing := some rest })
  else none

/-- A block whose commit operation is done writes its registers and begins its releases (R40). -/
def writeAndRelease (s : State) (w : WarpId) (b : Blk) : Option State :=
  let hs := (sortHeld b.held).filter fun h => h.lsid < 64
  let keep (y : Warp) : Option (BitVec 16) := if (writeRegisters b y).evmask = y.evmask then none else some y.evmask
  let s1 := s.modWarp w fun y =>
    { writeRegisters b y with blk := some { b with releasing := some hs, evtest := keep y } }
  goOn s1 w b true hs

/-- The conflict that the commit operation's results will meet at their targets, whatever they are (R36, R41): nothing of
the operation is done then. -/
def copConflict (b : Blk) (h : HeldOp) : Option (Nat × Mask) :=
  match deliverCop b h (h.lanes.map fun l => (l.lane, [.zero])) with
  | .error e => some e
  | .ok _ => none

/-- The commit of a complete block (R40): boundary faults, the commit operation, registers, releases. -/
def beginCommit (s : State) (w : WarpId) (x : Warp) (b0 : Blk) : Option State :=
  let b := { b0 with exporting := exportsOf s w x b0 }
  let conflict (t : State) (node key : Nat) (m : Mask) : State :=
    t.takeFault w { kind := 0x05, sub := 0x03, node := some node, lanes := m, va := BitVec.ofNat 64 key } none
  match boundaryFault s w b with
  | some (sub, lanes, many) => some (voteFault s w sub lanes many)
  | none =>
    match b.cop with
    | none => writeAndRelease s w b
    | some h =>
      match copConflict b h with
      | some (key, m) => some (conflict s h.node key m)
      | none =>
        match performCop s w x b h with
        | .wait => none
        | .stop s1 => some s1
        | .done s1 r =>
          match deliverCop b h r with
          | .error (key, m) => some (conflict s1 h.node key m)
          | .ok b1 => writeAndRelease (if h.lanes.isEmpty then s1 else endRegion s1 w) w { b1 with cop := some h }

/-- BLOCK_COMMIT (R38, R40): a commit begins in time, or goes on (R51); none ends while its window's lease turn waits to
end (R274). -/
def execBlockCommit (w : WarpId) (s : State) : Outcome :=
  let r : Option State := (s.warp? w).bind fun x => x.blk.bind fun b =>
    if x.park != .running || 4096 ≤ agetD (s.bay w.bay).turn (windowOf (wkey w)) 0 then none
    else
      match b.releasing with
      | some hs => goOn s w b false hs
      | none => if allFired b && mayRun x s.now then beginCommit s w x b else none
  match r with
  | some t => .next t
  | none => .fault .notEnabled

/-! ## After the release -/

/-- SUBWORD_MERGE (R256): the oldest merge reaches its stage. -/
def execSubwordMerge (s : State) : Outcome :=
  match s.merges with
  | [] => .fault .notEnabled
  | m :: r => .next (({ s with merges := r } : State).mergeAt m)

/-- A home's report as it reaches its warp (R259): the next block boundary is the end of the block that is running; of a
warp between two blocks it is the end of the next one, so that the rollback goes to the entry of the region that this
block may begin (Table 12.8, `step` with RED; DEDUCED, notes/assumptions/24.md). -/
def reportError (x : Warp) (h : HomeReport) : BoundaryError :=
  if x.blk.any (·.releasing.isNone) then .cause h.ident h.w else .home h.ident h.w

/-- HOME_CHECK_FAILURE (R259): a home's report reaches the warp that issued the operation. -/
def execHomeCheckFailure (s : State) : Outcome :=
  match s.reports with
  | [] => .fault .notEnabled
  | h :: r => .next (({ s with reports := r } : State).modWarp h.warp fun x => { x with errs := x.errs ++ [reportError x h] })

/-- A running warp at a block boundary. -/
def atBoundary (x : Warp) : Bool :=
  x.started && !x.retired && x.park == .running && x.blk.isNone && x.preempt.isNone

/-- An exported lane whose retry found the split stack full tries once more (R45): with room now it is pushed, without
it the warp takes the split-overflow fault and the lane waits for the next boundary. -/
def retryAgain (s : State) (w : WarpId) (x : Warp) (lane : Nat) : State :=
  let s1 := laneBack s w x lane true
  if (s1.warp? w).any fun y => y.errs.contains (.overflow lane) then s1.progFault w 0x08 none (maskOf [lane])
  else exportResume s1 w

/-- ENGINE_ERROR (R157, R181, R258, R259): the oldest error that is due is served at the warp's block boundary. -/
def execEngineError (w : WarpId) (s : State) : Outcome :=
  match s.warp? w with
  | none => .fault .notEnabled
  | some x =>
    match x.errs.filter (·.due) with
    | [] => .fault .notEnabled
    | e :: _ =>
      let s1 := s.modWarp w fun y => { y with errs := x.errs.erase e }
      match e with
      | .home _ _ => .fault .notEnabled
      | .cause i v => if atBoundary x then .next (s1.consumed w i v none x.mask 2) else .fault .notEnabled
      | .command _ _ => if atBoundary x then .next (s1.progFault w 0x0E none x.mask) else .fault .notEnabled
      | .overflow lane => if atBoundary x || x.park == .exportReturn then .next (retryAgain s1 w x lane) else .fault .notEnabled

/-- The record of a captured block cancelled (R326, R378): the warp stands at the block's boundary. -/
def cancelCapture (s : State) (w : WarpId) : State :=
  match s.recs.find? fun r => r.kind = 0x06 && r.agent = .warp w with
  | some r => (cancelRecord s r).modWarp w fun y => { y with park := .running }
  | none => s

/-- PREEMPT_BLOCK_TIMEOUT (R51): a block that has not completed within 4,096 clocks of a pre-emption request is
discarded, unless its commit has begun; the record of a captured one is cancelled with it (R326). The block is the next
to fetch again (R71), and the warp is at a boundary (R380). -/
def execPreemptBlockTimeout (w : WarpId) (s : State) : Outcome :=
  match s.warp? w with
  | none => .fault .notEnabled
  | some x =>
    match x.preempt, x.blk with
    | some t, some b =>
      if t + 4096 ≤ s.now && b.releasing.isNone then
        .next ((((if b.capture.isSome then cancelCapture s w else s).discard w).fetchNext w).settle w)
      else .fault .notEnabled
    | _, _ => .fault .notEnabled

/-! ## Waking -/

/-- A warp parked in a wait may wake: its context asks for no safe-point stop, and it is not being saved (R346). -/
def mayWake (s : State) (w : WarpId) (x : Warp) : Bool := !(s.ctx (s.ctxOf w)).safeReq && x.preempt.isNone

/-- WAITANY_WAKE (R147). -/
def execWaitanyWake (w : WarpId) (s : State) : Outcome :=
  match s.warp? w with
  | none => .fault .notEnabled
  | some x =>
    match x.park with
    | .waitAny set mask =>
      if x.evpend &&& set != 0 && mayWake s w x then .next ((takeHandler (s.wakeWarp w) w x set mask).settle w)
      else .fault .notEnabled
    | _ => .fault .notEnabled

/-- WAITADDR_WAKE (R149). -/
def execWaitaddrWake (w : WarpId) (s : State) : Outcome :=
  match s.warp? w with
  | none => .fault .notEnabled
  | some x =>
    match x.park with
    | .waitAddr _ _ _ _ target mask =>
      if x.woken && mayWake s w x then .next ((runGroup (s.wakeWarp w) w ⟨0, target, mask, .none⟩).settle w)
      else .fault .notEnabled
    | _ => .fault .notEnabled

end Sys2Proof.Machine
end

