-- ==== Sys2Proof/Machine/Kingpost.lean ====
section
/-! DEFINITION. The kingpost: heads of queues, placement, arbitration, reservations, retirement of teams and grids
(spec/09_scheduling_and_leases.md R260 to R268, R279, R280, spec/02_execution_model.md R25, R30 to R32, R50, R53,
spec/15_host_queues_launch.md R355 to R361, spec/16_faults_translation_preemption.md R367). -/

namespace Sys2Proof.Machine

/-! ## Heads of queues (R355, R358) -/

/-- The packet with a counter value of a queue, as the kingpost reads it. -/
def packetAt (s : State) (q : Queue) (n : Word) : List W40 :=
  s.mem.words (q.base + 128 * (n.toNat % 2 ^ q.size)) 32

/-- A queue has a published packet that the kingpost has not read. -/
def unread (q : Queue) : Bool := q.en && q.packet.isNone && q.head != q.tail

/-- A head rejected (R358): no grid, REJ, a record, and the next packet becomes head. -/
def rejectHead (s : State) (k : Nat) (reason : Nat) : State :=
  let q := s.queue k
  (s.modQueue k fun q => { q with rej := true, head := q.head + 1 }).notice q.ctx 0x20 0 0 0 0 0 0 (BitVec.ofNat 64 k)
    q.head.toNat (BitVec.ofNat 64 reason)

/-- Dependences that a packet does not use are met. -/
def unusedDeps (p : List W40) : BitVec 2 :=
  let n := packetField p 224 2
  BitVec.ofBool (n < 2) ++ BitVec.ofBool (n < 1)

/-- A packet becomes head: it is read once, checked, and its dependences are evaluated (R264, R355). -/
def readHead (s : State) (k : Nat) : State :=
  let q := s.queue k
  let p := packetAt s q q.head
  match checkPacket s q.ctx p true with
  | .error (reason, f) => rejectHead (s.kingFail q.ctx 0 ⟨0, 0⟩ f) k reason
  | .ok (args, images) =>
    let g := newGrid s q.ctx p (some k) 0 none none args images
    let s1 := (s.addGrid g).modQueue k fun q => { q with
      packet := some p
      grid := some g.gid
      passed := none
      met := unusedDeps p ||| (BitVec.ofBool (depMet s q p 1) ++ BitVec.ofBool (depMet s q p 0)) }
    s1

/-- The read that a queue's unread head must have walked first (R373). -/
def headMiss (s : State) (k : Nat) : Option Reach :=
  let q := s.queue k
  if unread q then packetMiss s q.ctx (packetAt s q q.head) true else none

/-- A queue has a head to read now. -/
def headWaits (s : State) (k : Nat) : Bool := unread (s.queue k) && (headMiss s k).isNone

/-- Heads of a queue read until one is accepted, one needs a walk, or nothing is published. -/
def readHeads (s : State) (k : Nat) : Nat → State
  | 0 => s
  | n + 1 => if headWaits s k then readHeads (readHead s k) k n else s

/-- Every enabled queue has its head read. A ring holds at most 2^16 packets. -/
def allHeads (s : State) : State := (s.queues.map (·.1)).foldl (fun t k => readHeads t k 65536) s

/-- A queue's head is ready (R261). -/
def headReady (q : Queue) : Bool := q.en && q.packet.isSome && q.met == 3

/-! ## Where a team may go (R263, R266, R267) -/

/-- The priority level of a grid: that of the queue its root came from, level 0 for a handler (R279, R367). -/
def gridLevel (s : State) (g : Grid) : Nat := match g.queue with | some k => (s.queue k).prio | none => 0

/-- A bay lies in a reservation. -/
def inReservation (r : Reservation) (bay : Nat) : Bool := if r.bent then bay / 4 = r.unit else bay = r.unit

/-- A bay may be used beside the reservations, by the next team of a grid or, with none named, by another team: where two
coincide the higher level's decides. A reservation is for its grid's next team (R263). -/
def bayAllowed (s : State) (bay : Nat) (gid : Option Nat) : Bool :=
  match (List.range 8).findSome? fun l => (aget s.resv l).bind fun r => if inReservation r bay then some r else none with
  | some r => gid = some r.gid
  | none => true

/-- The bay for a team: among those that pass every check, the one with the most free slots, the lowest number on a
tie (R266). -/
def pickBay (s : State) (gid : Nat) (n : Need2) : Option Nat :=
  let free (k : Nat) : Nat := (s.bay k).freeSlots.length
  let ok := (List.range Config.bays).filter fun k => (s.bay k).takes n && bayAllowed s k (some gid)
  ok.foldl (fun best k => match best with | some j => if free j < free k then some k else some j | none => some k) none

/-- The bays for the ranks of a cluster on a bent (R267). -/
def pickBent (s : State) (gid : Nat) (n : Need2) (ranks bent : Nat) : Option (List Nat) :=
  assignRanks n ranks (((List.range 4).map fun i => 4 * bent + i).filter (bayAllowed s · (some gid)) |>.map fun k => (k, s.bay k))

/-- The bents in the order of R267, starting one past the bent used last. -/
def bentOrder (s : State) : List Nat := (List.range 48).map fun i => (s.lastBent + 1 + i) % 48

/-- How many teams of a grid are placed next together: a cluster, or one team. -/
def nextCount (g : Grid) : Nat := min (packetCluster g.packet) (g.nteam - g.placed)

/-- What follows a placement: the reservation of the grid and its waiting times end (R263). -/
def afterPlace (s : State) (gid : Nat) : State :=
  let s1 : State := { s with
    resv := s.resv.filter fun p => p.2.gid != gid
    queues := s.queues.map fun (k, q) => (k, if q.grid = some gid then { q with passed := none } else q) }
  s1.modGrid gid fun g => { g with passed := none, named := false }

/-- The next team of a grid, or its next cluster, placed where it can be (R266, R267), none where it cannot. -/
def placeNext (s : State) (gid : Nat) : Option State :=
  match s.grid? gid with
  | none => none
  | some g =>
    let n := packetNeed g.packet
    if g.nteam ≤ g.placed || (s.ctx g.ctx).preq then none
    else if packetField g.packet 112 1 = 1 then
      (bentOrder s).findSome? fun bent => (pickBent s gid n (nextCount g) bent).map fun bays =>
        let s0 : State := { copyLoftImages s g with lastBent := bent }
        afterPlace ((bays.zipIdx).foldl (fun t (bay, i) =>
          placeTeam t bay ((t.grid? gid).getD g) (g.placed + i) i (packetCluster g.packet)) s0) gid
    else
      (pickBay s gid n).map fun bay =>
        let s0 := copyLoftImages s g
        afterPlace (placeTeam s0 bay ((s0.grid? gid).getD g) g.placed 0 1) gid

/-- A team of a grid can be placed now. -/
def canPlace (s : State) (gid : Nat) : Bool := (placeNext s gid).isSome

/-- The warp slots that the next placement of a grid takes. -/
def nextCost (g : Grid) : Nat := (packetNeed g.packet).slots * nextCount g

/-! ## Rounds (R262) -/

/-- Every team of a grid is placed. -/
def allPlaced (s : State) (gid : Nat) : Bool := (s.grid? gid).all fun g => g.nteam ≤ g.placed

/-- A team that cannot be placed is passed over from now on (R263). -/
def passOver (s : State) (gid : Nat) : State :=
  { s.modGrid gid (fun g => { g with passed := g.passed <|> some s.now }) with
    queues := s.queues.map fun (k, q) => (k, if q.grid = some gid then { q with passed := q.passed <|> some s.now } else q) }

/-- The device-launched grids of a level in the order of service: handlers first, then deepest first, each depth in
order of acceptance (R279, R367). -/
def deviceGrids (s : State) (level : Nat) : List Nat :=
  let gs := s.devQueue.filterMap fun gid => (s.grid? gid).filter fun g => gridLevel s g = level
  ((gs.filter fun g => g.queue.isNone && g.parent.isNone) ++
    ((List.range 18).reverse.flatMap fun d => gs.filter fun g => g.parent.isSome && g.depth = d)).map (·.gid)

/-- The teams of a device-launched grid placed one after another. -/
def placeAll (s : State) (gid : Nat) : Nat → State
  | 0 => s
  | n + 1 =>
    match placeNext s gid with
    | some s1 => placeAll s1 gid n
    | none => s

/-- More placements than the module has warp slots. -/
def roundFuel : Nat := 6145

/-- The device-launched grids of a level served; the flag says that the level is blocked (BFILL 0). -/
def serveDevice (s : State) : List Nat → State × Bool
  | [] => (s, false)
  | gid :: r =>
    let s1 := placeAll s gid roundFuel
    if allPlaced s1 gid then serveDevice { s1 with devQueue := s1.devQueue.filter (· != gid) } r
    else
      let s2 := passOver s1 gid
      if s2.bfill then serveDevice s2 r else (s2, true)

/-- The next packet becomes head when every team of the head's grid is placed (R261, R355). -/
def advanceHead (s : State) (k : Nat) : State :=
  let q := s.queue k
  match q.grid with
  | none => s
  | some gid =>
    if allPlaced s gid then
      readHeads (s.modQueue k fun q => { q with head := q.head + 1, packet := none, grid := none, met := 0 }) k 65536
    else s

/-- One queue's share of a round: it spends its credit while its next team can be placed. The flag says that its head
cannot be placed. -/
def serveQueue (s : State) (k : Nat) : Nat → State × Bool
  | 0 => (s, false)
  | n + 1 =>
    let q := s.queue k
    match q.grid.bind s.grid? with
    | none => (s, false)
    | some g =>
      if !headReady q then (s, false)
      else
        match placeNext s g.gid with
        | none => (passOver s g.gid, true)
        | some s1 =>
          let cost := nextCost g
          if q.credit < cost then (s, false)
          else serveQueue (advanceHead (s1.modQueue k fun q => { q with credit := q.credit - cost }) k) k n

/-- The host queues of a level in increasing number. -/
def serveHost (s : State) : List Nat → State
  | [] => s
  | k :: r =>
    let q := s.queue k
    if !headReady q then serveHost (s.modQueue k fun q => { q with credit := 0 }) r
    else
      let (s1, stuck) := serveQueue (s.modQueue k fun q => { q with credit := q.credit + max 1 q.wt }) k roundFuel
      if stuck && !s1.bfill then s1 else serveHost s1 r

/-- The enabled queues of a level. -/
def levelQueues (s : State) (level : Nat) : List Nat :=
  (s.queues.filter fun p => p.2.en && p.2.prio = level).map (·.1)

/-- A write of KPQ_SCHED takes effect at the round of the level that its queue leaves, with no credit (R260). -/
def takeSched (s : State) (level : Nat) : State :=
  { s with queues := s.queues.map fun (k, q) => (k,
      match q.sched with
      | some (p, w) => if q.prio = level then { q with prio := p, wt := w, credit := 0, sched := none } else q
      | none => q) }

/-- One level's round. -/
def levelRound (s0 : State) (level : Nat) : State :=
  let s := takeSched s0 level
  let (s1, blocked) := serveDevice s (deviceGrids s level)
  if blocked then s1 else serveHost s1 (levelQueues s1 level)

/-- Some team of a level could still be placed, so no lower level is served (R262). -/
def levelBusy (s : State) (level : Nat) : Bool :=
  (deviceGrids s level).any (canPlace s) ||
    (levelQueues s level).any fun k => headReady (s.queue k) && ((s.queue k).grid.any (canPlace s))

/-- The levels from the highest down. -/
def rounds (s : State) : List Nat → State
  | [] => s
  | l :: r =>
    let s1 := levelRound s l
    if levelBusy s1 l then s1 else rounds s1 r

/-- A handler grid launched for a delivered record (R367): one team, no dependences, no pool entry. A packet that
fails its checks launches nothing. -/
def launchHandler (s : State) (h : Nat × Double × Double) : State :=
  let (ctx, va, record) := h
  match readVirts s ctx va 32 with
  | .error f => s.kingFail ctx 0 ⟨0, 0⟩ f
  | .ok p =>
    match checkPacket s ctx p false with
    | .error (_, f) => s.kingFail ctx 0 ⟨0, 0⟩ f
    | .ok (args, images) =>
      let g := { newGrid s ctx p none 0 none none args images with nteam := 1, faultInfo := record }
      { s.addGrid g with devQueue := s.devQueue ++ [g.gid] }

/-- The read that a handler launch must have walked first (R373). -/
def handlerMiss (s : State) (h : Nat × Double × Double) : Option Reach :=
  match s.firstMiss (wordsReach h.1 h.2.1 32) with
  | some r => some r
  | none => match readVirts s h.1 h.2.1 32 with | .ok p => packetMiss s h.1 p false | .error _ => none

/-- The handler launches that records have asked for and that need no walk. -/
def handlersReady (s : State) : List (Nat × Double × Double) := s.handlers.filter fun h => (handlerMiss s h).isNone

/-- A handler launched, and asked for no more. -/
def takeHandlerLaunch (s : State) (h : Nat × Double × Double) : State :=
  launchHandler { s with handlers := s.handlers.filter (· != h) } h

/-- The handler launches that records have asked for, each in turn. -/
def launchHandlers (s : State) : State := (handlersReady s).foldl takeHandlerLaunch s

/-- A grid waits at the kingpost and could be placed, or has not yet been counted as passed over. -/
def waitingMoves (s : State) (gid : Nat) : Bool :=
  canPlace s gid || (s.grid? gid).any fun g => g.passed.isNone && g.placed < g.nteam

/-- A round has more to do than to count credits: something to read, to place, or to pass over for the first time. -/
def roundUrgent (s : State) : Bool :=
  !(handlersReady s).isEmpty || (s.queues.any fun p => headWaits s p.1) || s.devQueue.any (waitingMoves s) ||
    s.queues.any fun p => headReady p.2 && p.2.grid.any (waitingMoves s)

/-- A round would change something: a credit grows or ends, or a written PRIO or WT takes effect (R260, R262). -/
def roundNeeded (s : State) : Bool :=
  roundUrgent s || s.queues.any fun p => p.2.sched.isSome || headReady p.2 || (p.2.en && p.2.credit != 0)

/-- KINGPOST_ROUND (R262). -/
def execKingpostRound (s : State) : Outcome :=
  if roundNeeded s then .next (rounds (allHeads (launchHandlers s)) [0, 1, 2, 3, 4, 5, 6, 7]) else .fault .notEnabled

/-! ## Reservations (R263, R280) -/

/-- A time has been longer than the interval of KP_CTL.RESV. RESV 0 disables reservations, and with them the record for a
device grid that R280 sends after the same interval (DESIGN CHOICE, notes/assumptions/28.md). -/
def overdue (s : State) (t : Option Nat) : Bool :=
  s.resvInt != 0 && t.any fun u => decide (s.resvInt * 256 < s.now - u)

/-- The grids of a level whose next team waits, in the order of service. -/
def levelWaiting (s : State) (level : Nat) : List Nat :=
  deviceGrids s level ++ (levelQueues s level).filterMap fun k => if headReady (s.queue k) then (s.queue k).grid else none

/-- How many resources a bay lacks for a team. -/
def lackCount (s : State) (n : Need2) (bay : Nat) : Nat := (((s.bay bay).lacks n).filter id).length

/-- The first unit with the least lack. -/
def leastLack (f : Nat → Nat) : List Nat → Option Nat
  | [] => none
  | u :: r =>
    match leastLack f r with
    | none => some u
    | some v => if f v < f u then some v else some u

/-- RESERVATION (R263): a bay, or for a cluster a bent, is kept for a team passed over longer than the interval. -/
def execReservation (level : Nat) (s : State) : Outcome :=
  let due := (levelWaiting s level).find? fun gid => (s.grid? gid).any fun g => overdue s g.passed
  match aget s.resv level, due.bind s.grid? with
  | none, some g =>
    let n := packetNeed g.packet
    let open' (k : Nat) : Bool := !(s.bay k).closed
    if packetField g.packet 112 1 = 1 then
      let f (b : Nat) : Nat := (((List.range 4).map fun i => lackCount s n (4 * b + i))).sum
      match leastLack f (List.range 48) with
      | some u => .next { s with resv := aset s.resv level ⟨true, u, g.gid⟩ }
      | none => .fault .notEnabled
    else
      match leastLack (lackCount s n) ((List.range Config.bays).filter open') with
      | some u => .next { s with resv := aset s.resv level ⟨false, u, g.gid⟩ }
      | none => .fault .notEnabled
  | _, _ => .fault .notEnabled

/-- DEVICE_GRID_PASSED_OVER (R280, R411): for every grid that waits at the kingpost and that no host queue holds, a
handler grid of R367 among them (DESIGN CHOICE, notes/assumptions/28.md). -/
def execDeviceGridPassedOver (gid : Nat) (s : State) : Outcome :=
  match s.grid? gid with
  | none => .fault .notEnabled
  | some g =>
    if s.devQueue.contains gid && !g.named && overdue s g.passed then
      .next ((s.modGrid gid fun h => { h with named := true }).notice g.ctx 0x30 0 0 0 0 gid 0 0 0
        (BitVec.ofNat 64 (g.depth % 32)))
    else .fault .notEnabled

/-! ## Retirement (R50, R53) -/

/-- A team has something outstanding: engine operations, stores on their way, or unacknowledged remote writes. A copy
request or a stream that is stalled on a pending translation record has not ended (DESIGN CHOICE, log entry 22). -/
def teamBusy (s : State) (bay : Nat) (key : TeamKey) : Bool :=
  let b := s.bay bay
  let mine (w : WarpId) : Bool := (s.warp? w).any fun x => w.bay = bay && x.key = key
  (b.warps.any fun p => p.2.key = key && !p.2.retired) || b.kicks.any (·.key = key) ||
    (b.copies.any fun c => c.kick.key = key) || (b.mx.queue ++ b.mx.cur.toList).any (·.key = key) ||
    (b.ports.any fun p => p.2.inBind.any (·.key = key) || p.2.outBind.any (·.key = key)) ||
    (b.regions.any fun g => g.key = key && !(g.loads.isEmpty && g.packets.isEmpty)) ||
    s.merges.any (fun m => mine m.warp) || s.reports.any (fun h => mine h.warp) ||
    s.vl.outs.any fun p => p.2.unacked.any fun q => mine q.warp

/-- A team's mailboxes lose their owner; messages still held are discarded with a record (R361). -/
def dropMailboxes (s : State) (bay : Nat) (t : Team) : State :=
  ((List.range 16).filter fun m => t.mbox.getLsbD m).foldl (fun u m =>
    let b := agetD (u.bay bay).mbox m .reset
    let n := b.msgs.length + b.spillCount
    let u1 := u.setMailbox bay m .reset
    if b.owner = some t.key && n != 0 then
      u1.notice t.ctx 0x11 bay 0 0 t.key.tid t.key.gid 0 (BitVec.ofNat 64 m) 0 (BitVec.ofNat 64 (n % 2 ^ 16))
    else u1) s

/-- A team leaves its bay for good: its allocation and its mailboxes. -/
def removeTeam (s : State) (bay : Nat) (t : Team) : State :=
  (dropMailboxes s bay t).modBay bay fun b => { b with teams := b.teams.filter fun u => u.key != t.key }

/-- The members of a team's cluster that are on bays. -/
def clusterMembers (s : State) (t : Team) : List (Nat × Team) :=
  let first := t.key.tid - t.rank
  s.bays.flatMap fun (n, b) => (b.teams.filter fun u =>
    u.key.gid = t.key.gid && u.clustered && first ≤ u.key.tid && u.key.tid < first + t.clsize).map fun u => (n, u)

/-- A member of a team's cluster is saved away from its bay. -/
def clusterSaved (s : State) (t : Team) : Bool :=
  let first := t.key.tid - t.rank
  s.saved.any fun v => v.team.key.gid = t.key.gid && first ≤ v.team.key.tid && v.team.key.tid < first + t.clsize

/-- A team's slots, registers, engine and regions freed (R50); its held pool entries are free in their parts (R55). -/
def freeTeam (s : State) (bay : Nat) (t : Team) : State :=
  let s1 := s.modBay bay fun b => { b with
    warps := b.warps.filter fun p => p.2.key != t.key
    teams := b.teams.map fun u => if u.key = t.key then { u with retired := true } else u
    regions := b.regions.filter fun g => g.key != t.key
    mx := if b.mx.owner = some t.key then .reset else b.mx }
  { s1 with pool := s1.pool.map fun (i, e) => (i, if e.held = some t.key then { e with held := none } else e) }

/-- TEAM_RETIRE (R50): what the team stored reaches its homes; a clustered team's scratchpad and mailboxes stay until
the whole cluster has retired. -/
def execTeamRetire (bay gid tid : Nat) (s : State) : Outcome :=
  match s.team? bay ⟨gid, tid⟩ with
  | none => .fault .notEnabled
  | some t =>
    if t.retired || teamBusy s bay t.key then .fault .notEnabled
    else
      let s1 := freeTeam (s.cleanAll bay) bay t
      let members := clusterMembers s1 t
      let s2 :=
        if !t.clustered then removeTeam s1 bay t
        else if members.all (fun p => p.2.retired) && !clusterSaved s1 t then
          members.foldl (fun u (n, v) => removeTeam u n v) s1
        else s1
      .next ((s2.modGrid gid fun g => { g with retired := g.retired + 1 }).admission bay)

/-- GRID_RETIRE (R53, R360): the completion signal, the vector, the pool entry, the occurrences. -/
def execGridRetire (gid : Nat) (s : State) : Outcome :=
  match s.grid? gid with
  | none => .fault .notEnabled
  | some g =>
    if g.retired < g.nteam || g.children != 0 then .fault .notEnabled
    else
      let p := g.packet
      let s1 := signalDone s g.ctx p
      let s2 := if g.parent.isNone && packetField p 227 1 = 1 then s1.raise (packetField p 228 5) else s1
      let s3 : State := { s2 with grids := s2.grids.filter fun h => h.gid != gid }
      let s4 := match g.pool with | some i => returnEntry s3 g.ctx i | none => s3
      .next (match g.parent with
        | some k => childOccurrence (s4.modGrid k.gid fun h => { h with children := h.children - 1 }) k
        | none => s4)

/-! ## Leases (R272, R274) -/

/-- The kept lines of a window's warps are ordinary ones again (R135). -/
def Bay.endKeep (b : Bay) (win : Nat) : Bay :=
  { b with l1 := b.l1.map fun (k, l) => (k, { l with keep := l.keep.filter fun w => windowOf (wkey w) != win }) }

/-- The demotions and admissions of a turn's end (R274): the warps active through the turn leave together, ordered after
the candidates X; every member of X is admitted, and then whoever fits. A demoted warp with a block runs it on to its next
boundary (`demote`), but the controller counts it out from now on, and may admit it again. -/
def Bay.turnEnd (b : Bay) (win now : Nat) : Bay :=
  let xs := b.waiting.filter fun p => windowOf p.1 = win
  let stamp := (xs.map fun p => p.2.stamp + 1).foldl max now
  let turned (p : Nat × Warp) : Nat × Warp :=
    if windowOf p.1 = win && p.2.active && p.2.unbroken then
      (p.1, if p.2.blk.isSome then { p.2 with demote := true, stamp := stamp }
        else { p.2 with active := false, unbroken := false, stamp := stamp })
    else if xs.any fun q => q.1 = p.1 then (p.1, { p.2 with active := true, demote := false })
    else p
  if xs.isEmpty then b else ({ b with warps := b.warps.map turned } : Bay).fill

/-- The warps of a window that are active as a turn begins (R274). -/
def Bay.turnBegin (b : Bay) (win : Nat) : Bay :=
  { b with warps := b.warps.map fun (k, x) => (k, if windowOf k = win then { x with unbroken := x.active && !x.demote } else x) }

/-- LEASE_TURN_END (R274): the next turn begins with the count at 0. -/
def execLeaseTurnEnd (bay win : Nat) (s : State) : Outcome :=
  let b := s.bay bay
  let n := agetD b.turn win 0
  if n < 4096 then .fault .notEnabled
  else
    let b1 := ((b.endKeep win).turnEnd win s.now).turnBegin win
    .next (s.setBay bay { b1 with turn := aset b1.turn win (n - 4096) })

/-- LEASE_INTERVAL_END (R272, R273): after 1,024 misses the tightening follows the interference counted in them, and the
controller decides anew. -/
def execLeaseIntervalEnd (bay : Nat) (s : State) : Outcome :=
  let b := s.bay bay
  if b.misses < 1024 then .fault .notEnabled
  else
    let t := if 64 ≤ b.intf then min (b.tight + 8) b.tmax else if b.intf < 16 then b.tight - 8 else b.tight
    .next ((s.setBay bay { b with
      tight := t
      misses := b.misses - 1024
      intf := b.intfNext.headD 0
      intfNext := b.intfNext.drop 1 }).admission bay)

end Sys2Proof.Machine
end

