-- ==== Sys2Proof/Machine/Register.lean ====
section
/-! DEFINITION. The control registers behind BAR0: where each lies, how wide it is, what it reads, and what a write
does to a register with no behaviour of its own (spec/15_host_queues_launch.md R352, R353, R356 and the tables it
names; spec/00_scope.md R9). -/

namespace Sys2Proof.Machine

/-! ## The map (Table 15.2) -/

/-- The registers of BAR0. -/
inductive Reg where
  | devStep | kpCtl | bar2Base | vlSelf
  | msix (i : Nat) | pba (i : Nat)
  | lcCtl (b : Nat) | lcStat (b : Nat) | bayPhys (b : Nat)
  | corr (b : Nat) | unc (b : Nat) | roll (b : Nat) | dblf (b : Nat) | cks (b : Nat) | blks (b : Nat)
  | snapClk (b : Nat) | snapBlks (b : Nat) | snapLc (b : Nat) | snapStep (b : Nat)
  | vlPeer (n : Nat)
  | kpqBase (q : Nat) | kpqSize (q : Nat) | kpqSched (q : Nat) | kpqTail (q : Nat) | kpqHead (q : Nat)
  | kpqCtx (q : Nat) | kpqStat (q : Nat)
  | emuCtl (c : Nat) | safeCtl (c : Nat) | ctxLft (c : Nat) | ctxRoot (c : Nat) | ctxCtl (c : Nat)
  | rqBase (c : Nat) | rqVa (c : Nat) | rqTail (c : Nat) | rqHead (c : Nat) | rqSvc (c : Nat) | thPkt (c : Nat)
  | resume (c : Nat) | tlbInv (c : Nat) | tlbBusy (c : Nat) | saveCtl (c : Nat) | saveB (c : Nat) | saveN (c : Nat)
  | dbgCtl (c : Nat) | dbgStep (c : Nat)
  | poisClr | poisCnt | poisEntry (i : Nat)
  | bootStat | attReq | attStat | pwrLimit | pwrStat | pwrDom (d : Nat)
  | relBase | relTail | relHead | relLost | relAuto
  | sill (st : Nat) | sillDrop | bayMap (d : Nat) | bayRetire | fwUpd | fwStat | snapCtl | snapOn
  deriving DecidableEq, Repr

/-- A register with its first byte and its width, found among rows of offset, width and name. -/
def findReg (o : Nat) (rows : List (Nat × Nat × Reg)) (base : Nat) : Option (Reg × Nat × Nat) :=
  (rows.find? fun r => r.1 ≤ o && o < r.1 + r.2.1).map fun r => (r.2.2, base + r.1, r.2.1)

/-- The registers at the start of BAR0 (Table 15.2). -/
def headRegs : List (Nat × Nat × Reg) :=
  [(0x00, 4, .devStep), (0x10, 4, .kpCtl), (0x20, 8, .bar2Base), (0x30, 8, .vlSelf)]

/-- The block of a logical bay (Tables 9.3, 9.4, 18.8, R402). -/
def bayRegs (b : Nat) : List (Nat × Nat × Reg) :=
  [(0x00, 4, .lcCtl b), (0x04, 4, .lcStat b), (0x08, 4, .bayPhys b), (0x10, 4, .corr b), (0x14, 4, .unc b),
   (0x18, 4, .roll b), (0x1C, 4, .dblf b), (0x20, 4, .cks b), (0x28, 8, .blks b), (0x80, 8, .snapClk b),
   (0x88, 8, .snapBlks b), (0x90, 4, .snapLc b), (0x94, 4, .snapStep b)]

/-- The registers of a queue (Table 15.3). -/
def queueRegs (q : Nat) : List (Nat × Nat × Reg) :=
  [(0x00, 8, .kpqBase q), (0x08, 4, .kpqSize q), (0x0C, 4, .kpqSched q), (0x10, 4, .kpqTail q), (0x14, 4, .kpqHead q),
   (0x18, 4, .kpqCtx q), (0x1C, 4, .kpqStat q)]

/-- The registers of a context's control page (Tables 15.5, 16.4). -/
def ctxRegs (c : Nat) : List (Nat × Nat × Reg) :=
  [(0x000, 4, .emuCtl c), (0x004, 4, .safeCtl c), (0x008, 8, .ctxLft c), (0x010, 8, .ctxRoot c), (0x018, 4, .ctxCtl c),
   (0x020, 8, .rqBase c), (0x028, 8, .rqVa c), (0x030, 4, .rqTail c), (0x034, 4, .rqHead c), (0x038, 4, .rqSvc c),
   (0x040, 8, .thPkt c), (0x048, 8, .resume c), (0x050, 8, .tlbInv c), (0x058, 4, .tlbBusy c), (0x060, 4, .saveCtl c),
   (0x068, 8, .saveB c), (0x070, 4, .saveN c), (0x078, 4, .dbgCtl c), (0x080, 8, .dbgStep c)]

/-- The module's registers in the page of context 0 (Tables 16.6, 17.2, 17.5, 17.7, 18.1, 18.4, 18.7, R402, R403,
R406, R407). -/
def moduleRegs : List (Nat × Nat × Reg) :=
  [(0x100, 8, Reg.poisClr), (0x108, 4, Reg.poisCnt)] ++
  ((List.range 32).map fun i => (0x200 + 8 * i, 8, Reg.poisEntry i)) ++
  [(0x300, 8, Reg.bootStat), (0x308, 8, Reg.attReq), (0x310, 4, Reg.attStat), (0x320, 4, Reg.pwrLimit),
   (0x328, 8, Reg.pwrStat)] ++
  ((List.range 6).map fun d => (0x340 + 8 * d, 8, Reg.pwrDom d)) ++
  [(0x400, 8, Reg.relBase), (0x408, 4, Reg.relTail), (0x40C, 4, Reg.relHead), (0x410, 4, Reg.relLost),
   (0x414, 4, Reg.relAuto)] ++
  ((List.range 12).map fun i => (0x480 + 8 * i, 8, Reg.sill i)) ++ [(0x4E0, 4, Reg.sillDrop)] ++
  ((List.range 4).map fun d => (0x500 + 8 * d, 8, Reg.bayMap d)) ++
  [(0x540, 4, Reg.bayRetire), (0x580, 8, Reg.fwUpd), (0x588, 4, Reg.fwStat), (0x600, 4, Reg.snapCtl),
   (0x608, 4, Reg.snapOn)]

/-- The register that holds a byte of BAR0, with its first byte and its width in bytes. -/
def regAt (o : Nat) : Option (Reg × Nat × Nat) :=
  if o < 0x10000 then findReg o headRegs 0
  else if o < 0x10200 then some (.msix ((o - 0x10000) / 4), o / 4 * 4, 4)
  else if 0x11000 ≤ o && o < 0x11008 then some (.pba ((o - 0x11000) / 4), o / 4 * 4, 4)
  else if 0x100000 ≤ o && o < 0x100000 + 256 * 192 then
    let b := (o - 0x100000) / 256
    findReg (o % 256) (bayRegs b) (o / 256 * 256)
  else if 0x400000 ≤ o && o < 0x400000 + 8 * 4096 then some (.vlPeer ((o - 0x400000) / 8), o / 8 * 8, 8)
  else if 0x1000000 ≤ o && o < 0x1000000 + 64 * 65536 then
    findReg (o % 64) (queueRegs ((o - 0x1000000) / 64)) (o / 64 * 64)
  else if 0x2000000 ≤ o && o < 0x2000000 + 4096 * 4096 then
    let c := (o - 0x2000000) / 4096
    match findReg (o % 4096) (ctxRegs c) (o / 4096 * 4096) with
    | some r => some r
    | none => if c = 0 then findReg (o % 4096) moduleRegs (o / 4096 * 4096) else none
  else none

/-! ## Values that are derived when read -/

/-- A warp of a context is stopped while REQ is 1 (R346). -/
def warpStopped (x : Warp) : Bool :=
  match x.park with
  | .safePoint | .waitAny _ _ | .waitAddr _ _ _ _ _ _ => true
  | _ => false

/-- SAFE_CTL.DONE: REQ is 1 and every warp of the context is stopped, with no lane of it in a truss region (R345,
R348). -/
def safeDone (s : State) (c : Nat) : Bool :=
  (s.ctx c).safeReq && s.allWarps.all fun (w, x) => s.ctxOf w != c || x.retired || (warpStopped x && x.outs.isEmpty)

/-- BLK of a queue: its head exists and is not ready (Table 15.3, R261). -/
def queueBlk (q : Queue) : Bool := q.packet.isSome && q.met != 3

/-- PRIO and WT of a queue as they were last written (R260). -/
def queueSched (q : Queue) : Nat × Nat := q.sched.getD (q.prio, q.wt)

/-- A number placed at a bit. -/
def fld (v lo : Nat) : Nat := v * 2 ^ lo

/-- A flag as a number. -/
def flag (b : Bool) : Nat := if b then 1 else 0

/-- CAP of a power domain (R393). -/
def powerCap (p : Power) (d : Nat) : Nat := agetD p.cap d (if d ≤ 3 then 2400 else if d = 4 then 600 else 500)
/-- FLOOR of a power domain. -/
def powerFloor (p : Power) (d : Nat) : Nat := agetD p.floor d (if d ≤ 3 then 100 else 0)
/-- WT of a power domain. -/
def powerWt (p : Power) (d : Nat) : Nat := agetD p.wt d 1

/-- The spares left on a core die (R402). -/
def sparesLeft (s : State) (d : Nat) : Nat := 4 - agetD s.spares d 0

/-- The spares of a core die that no retirement in progress has taken (R403). -/
def sparesFree (s : State) (d : Nat) : Nat :=
  sparesLeft s d - ((List.range 48).filter fun i => (s.bay (48 * d + i)).closed).length

/-- The physical bays in use on a core die (R402). -/
def baysInUse (s : State) (d : Nat) : Nat :=
  (((List.range 48).map fun i => 2 ^ (s.bay (48 * d + i)).phys)).foldl (· ||| ·) 0

/-- BOOT_STAT (Table 17.2). -/
def bootStatus (f : Firmware) : Nat := fld f.svn 32 + fld f.fail 8 + fld f.failComp 4 + f.phase

/-- A register that answers after a failed boot (R386). -/
def bootReg : Reg → Bool
  | .devStep | .bootStat | .attReq | .attStat => true
  | _ => false

/-! ## Reading -/

/-- The value of a register (R9): WO fields and reserved bits read zero. -/
def regValue (s : State) (r : Reg) : Nat :=
  match r with
  | .devStep => 0x00010101
  | .kpCtl => fld s.resvInt 16 + flag s.bfill
  | .bar2Base => s.bar2
  | .vlSelf => fld s.vl.ident 48 + s.vl.address
  | .msix i => (s.msixWord i).toNat
  | .pba i => if i = 0 then s.pend.toNat else 0
  | .lcCtl b => fld (s.bay b).tmax 16 + (s.bay b).cap
  | .lcStat b => (s.bay b).lcStat.toNat
  | .bayPhys b => (s.bay b).phys
  | .corr b => (s.bay b).corr.toNat
  | .unc b => (s.bay b).unc.toNat
  | .roll b => (s.bay b).roll.toNat
  | .dblf b => (s.bay b).dblf.toNat
  | .cks b => (s.bay b).cks.toNat
  | .blks b => (s.bay b).blks
  | .snapClk b => (s.bay b).snapClk.toNat
  | .snapBlks b => (s.bay b).snapBlks.toNat
  | .snapLc b => (s.bay b).snapLc.toNat
  | .snapStep b => (s.bay b).snapStep
  | .vlPeer n => (agetD s.vl.peers n 0).toNat
  | .kpqBase q => (s.queue q).base
  | .kpqSize q => (s.queue q).size
  | .kpqSched q => fld (flag (s.queue q).en) 31 + fld (queueSched (s.queue q)).1 16 + fld (queueSched (s.queue q)).2 8
  | .kpqTail q => (s.queue q).tail.toNat
  | .kpqHead q => (s.queue q).head.toNat
  | .kpqCtx q => (s.queue q).ctx
  | .kpqStat q => fld (flag (s.queue q).rej) 2 + fld (flag (queueBlk (s.queue q))) 1 + flag (s.queue q).err
  | .emuCtl c => flag (s.ctx c).emuCap
  | .safeCtl c =>
    fld (s.ctx c).safeLim 16 + fld (flag (s.ctx c).safeLate) 2 + fld (flag (safeDone s c)) 1 + flag (s.ctx c).safeReq
  | .ctxLft c => fld (s.ctx c).lftn 48 + fld (s.ctx c).lftb 16
  | .ctxRoot c => (s.ctx c).root.toNat
  | .ctxCtl c => fld (flag (s.ctx c).snapen) 1 + flag (s.ctx c).priv
  | .rqBase c => (s.ctx c).rqBase + (s.ctx c).rqSize
  | .rqVa c => (s.ctx c).rqVa.toNat
  | .rqTail c => (s.ctx c).rqTail.toNat
  | .rqHead c => (s.ctx c).rqHead.toNat
  | .rqSvc c => fld (s.ctx c).rqLost 16 + (s.ctx c).svc
  | .thPkt c => (s.ctx c).thPkt.toNat
  | .tlbBusy c => flag (!(s.ctx c).tlbQueue.isEmpty)
  | .saveCtl c =>
    fld (flag (s.ctx c).full) 9 + fld (flag (s.ctx c).done) 8 + fld (flag (s.ctx c).parkedOnly) 1 + flag (s.ctx c).preq
  | .saveB c => (s.ctx c).saveB
  | .saveN c => (s.ctx c).saveN
  | .dbgCtl c => flag (s.ctx c).dbg
  | .poisCnt => s.poisoned.length
  | .poisEntry i => (match s.poisoned[i]? with | some p => fld 1 63 + p.pa | none => 0)
  | .bootStat => bootStatus s.fw
  | .attStat => fld (flag s.fw.attErr) 2 + fld (flag s.fw.attDone) 1 + flag s.fw.attBusy
  | .pwrLimit => s.power.lim
  | .pwrStat => fld s.power.draw 32 + fld (flag s.power.err) 8 + s.power.thr.toNat
  | .pwrDom d =>
    (if d ≤ 3 then fld (powerWt s.power d) 32 else 0) + fld (powerCap s.power d) 16 +
      (if d ≤ 3 then powerFloor s.power d else 0)
  | .relBase => s.rel.base + s.rel.size
  | .relTail => s.rel.tail.toNat
  | .relHead => s.rel.head.toNat
  | .relLost => fld s.rel.lost 16 + s.rel.thr
  | .relAuto => fld (flag s.rel.autoB) 1 + flag s.rel.autoD
  | .sill i =>
    let d := agetD s.sills i .reset
    fld (flag d.deg) 63 + fld (flag d.act) 62 + fld d.reg 56 + fld d.ptr 32 + fld d.ndrop 28 + fld d.last 20 +
      d.total % 2 ^ 20
  | .bayMap d => fld (sparesLeft s d) 52 + baysInUse s d
  | .fwStat =>
    fld s.fw.fwFail 24 + fld s.fw.fwComp 20 + fld (flag s.fw.fwErr) 2 + fld (flag s.fw.fwDone) 1 + flag s.fw.fwBusy
  | .snapCtl => fld s.snap.tag 16 + fld s.snap.missed 8 + fld (flag s.snap.valid) 2 + fld (flag s.snap.hold) 1
  | .snapOn => s.snap.on.toNat
  | .resume _ | .tlbInv _ | .dbgStep _ | .poisClr | .attReq | .sillDrop | .bayRetire | .fwUpd => 0

/-- The value that a read sees: after a failed boot every register but those of R386 reads zero. -/
def State.readReg (s : State) (r : Reg) : Nat := if s.fw.dead && !bootReg r then 0 else regValue s r

/-- The RC fields of a register cleared by a read of bits that `hit` covers (R9). -/
def readClears (s : State) (r : Reg) (hit : Double) : State :=
  match r with
  | .rqSvc c => if hit.getLsbD 16 then s.modCtx c fun x => { x with rqLost := 0 } else s
  | .relLost => if hit.getLsbD 16 then { s with rel := { s.rel with lost := 0 } } else s
  | .snapCtl => if hit.getLsbD 8 then { s with snap := { s.snap with missed := 0 } } else s
  | _ => s

/-! ## Accesses -/

/-- An access is naturally aligned and 4 or 8 bytes wide (R352). -/
def accessOk (ofs size : Nat) : Bool := (size = 4 || size = 8) && ofs % size = 0

/-- The 4 bytes at an offset, read. -/
def readWord (s : State) (o : Nat) : Nat × State :=
  match regAt o with
  | none => (0, s)
  | some (r, base, _) =>
    let sh := 8 * (o - base)
    (s.readReg r / 2 ^ sh % 2 ^ 32, readClears s r ((0xFFFFFFFF : Double) <<< sh))

/-- An answer to the host. -/
def State.reply (s : State) (r : Reply) : State := { s with replies := s.replies ++ [r] }

/-- RC_REGISTER_READ (R9, R352): a register read; RC fields clear. -/
def execRcRegisterRead (ofs size : Nat) (s : State) : Outcome :=
  if !accessOk ofs size then .next (s.reply .unsupported)
  else
    let (lo, s1) := readWord s ofs
    if size = 4 then .next (s1.reply (.reg (BitVec.ofNat 64 lo)))
    else
      let (hi, s2) := readWord s1 (ofs + 4)
      .next (s2.reply (.reg (BitVec.ofNat 64 (lo + hi * 2 ^ 32))))

/-- What a write puts into one register: the merged value, and the bits that it covers. -/
structure RegHit where
  reg : Reg
  val : Double
  hit : Double
  deriving DecidableEq, Repr

/-- A register whose 4-byte writes are refused (R352). -/
def wholeOnly : Reg → Bool
  | .resume _ | .tlbInv _ | .dbgStep _ | .poisClr | .attReq | .fwUpd => true
  | _ => false

/-- A write of 4 bytes, or of 8 bytes to an 8-byte register, as it meets its register; none where no register lies
there. -/
def hitAt (s : State) (ofs size : Nat) (val : Double) : Option RegHit :=
  match regAt ofs with
  | none => none
  | some (r, base, width) =>
    if width = size then some ⟨r, val, if size = 8 then -1 else 0xFFFFFFFF⟩
    else
      let sh := 8 * (ofs - base)
      let hit := (0xFFFFFFFF : Double) <<< sh
      some ⟨r, (BitVec.ofNat 64 (s.readReg r) &&& ~~~hit) ||| ((val <<< sh) &&& hit), hit⟩

/-- What a BAR0 write asks for (R352). -/
inductive WriteAsk where
  /-- the access completes with Unsupported Request -/
  | bad
  /-- nothing lies there, or the boot failed (R386) -/
  | ignored
  /-- two 4-byte registers: two writes, the lower first -/
  | split
  | one (h : RegHit)
  deriving DecidableEq, Repr

/-- A BAR0 write resolved (R352). -/
def writeAsk (s : State) (r : RegWrite) : WriteAsk :=
  if !accessOk r.ofs r.size then .bad
  else if r.size = 8 && ((regAt r.ofs).any fun p => p.2.2 = 4) then .split
  else if r.size = 8 && (regAt r.ofs).isNone && (regAt (r.ofs + 4)).isSome then .split
  else
    match hitAt s r.ofs r.size r.val with
    | none => .ignored
    | some h =>
      if r.size = 4 && wholeOnly h.reg then .bad
      else if s.fw.dead && !bootReg h.reg then .ignored
      else .one h

/-! ## Writing (R9) -/

/-- Bits of a merged value. -/
def vbits (h : RegHit) (hi lo : Nat) : Nat := bitsOf h.val hi lo

/-- A flag of a merged value. -/
def vbit (h : RegHit) (i : Nat) : Bool := h.val.getLsbD i

/-- A W1C flag: cleared when the write covers it with a 1. -/
def w1c (h : RegHit) (i : Nat) (old : Bool) : Bool := old && !(h.hit.getLsbD i && h.val.getLsbD i)

/-- The low 32 bits of a merged value. -/
def vword (h : RegHit) : Word := h.val.extractLsb' 0 32

/-- A context's loft allocation becomes the units `[lftb, lftb + lftn)`: what it did not hold before is zero with code 0
(R229). -/
def assignLoft (s : State) (c n b : Nat) : State :=
  let x := s.ctx c
  let at' (k : Nat) : Nat := Config.loftBase + k * 65536
  let fresh' := (s.mem.clear (at' b) (max (at' b) (min (at' (b + n)) (at' x.lftb)))).clear
    (max (at' b) (at' (x.lftb + x.lftn))) (max (at' b) (at' (b + n)))
  ({ s with mem := if x.lftn = 0 then s.mem.clear (at' b) (at' (b + n)) else fresh' } : State).modCtx c fun y =>
    { y with lftn := n, lftb := b }

/-- A write to a register with no behaviour of its own: fields are set under their access codes (R9). -/
def putReg (s : State) (h : RegHit) : State :=
  match h.reg with
  | .kpCtl => { s with resvInt := vbits h 31 16, bfill := vbit h 0 }
  | .bar2Base => { s with bar2 := vbits h 51 30 * 2 ^ 30 }
  | .vlSelf => { s with vl := { s.vl with ident := vbits h 59 48 } }
  | .msix i => s.setMsix i (vword h)
  | .lcCtl b => (s.modBay b fun x => { x with
      tmax := min 127 (vbits h 23 16)
      cap := min 128 (max 1 (vbits h 7 0)) }).admission b
  | .vlPeer n => { s with vl := { s.vl with peers := aput s.vl.peers n 0 h.val } }
  | .kpqStat q => s.modQueue q fun x => { x with rej := w1c h 2 x.rej, err := w1c h 0 x.err }
  | .emuCtl c => s.modCtx c fun x => { x with emuCap := vbit h 0 }
  | .safeCtl c => s.modCtx c fun x => { x with safeLim := vbits h 31 16 }
  | .ctxLft c => assignLoft s c (vbits h 57 48) (vbits h 25 16)
  | .ctxRoot c => s.modCtx c fun x => { x with root := h.val }
  | .ctxCtl c => s.modCtx c fun x => { x with snapen := vbit h 1, priv := vbit h 0 }
  | .rqBase c => s.modCtx c fun x => { x with
      rqBase := vbits h 51 14 * 2 ^ 14
      rqSize := min 12 (vbits h 3 0) }
  | .rqVa c => s.modCtx c fun x => { x with rqVa := h.val }
  | .rqHead c => s.modCtx c fun x => { x with rqHead := vword h }
  | .rqSvc c => s.modCtx c fun x => { x with svc := vbits h 11 0 }
  | .thPkt c => s.modCtx c fun x => { x with thPkt := h.val }
  | .saveCtl c => s.modCtx c fun x => { x with preq := vbit h 0, parkedOnly := vbit h 1 }
  | .saveB c => s.modCtx c fun x => { x with saveB := vbits h 51 12 * 2 ^ 12 }
  | .saveN c => s.modCtx c fun x => { x with saveN := vbits h 31 0 }
  | .dbgCtl c => s.modCtx c fun x => { x with dbg := vbit h 0 }
  | .attStat => { s with fw := { s.fw with attErr := w1c h 2 s.fw.attErr, attDone := w1c h 1 s.fw.attDone } }
  | .pwrStat => { s with power := { s.power with err := w1c h 8 s.power.err } }
  | .relBase =>
    let n := vbits h 4 0
    { s with rel := { s.rel with
      base := vbits h 51 12 * 2 ^ 12
      size := if n = 0 then 0 else if 7 ≤ n && n ≤ 20 then n else 7 } }
  | .relHead => { s with rel := { s.rel with head := vword h } }
  | .relLost => { s with rel := { s.rel with thr := vbits h 15 0 } }
  | .relAuto => { s with rel := { s.rel with autoB := vbit h 1, autoD := vbit h 0 } }
  | .fwStat => { s with fw := { s.fw with fwErr := w1c h 2 s.fw.fwErr, fwDone := w1c h 1 s.fw.fwDone } }
  | .snapCtl => { s with snap := { s.snap with hold := vbit h 1 } }
  | .snapOn => { s with snap := { s.snap with on := vword h } }
  | _ => s

/-! ## Which row of the opcode table a write is -/

/-- The row that performs a write which meets a register: the register's own, or REGISTER_WRITE (R352). -/
def rowOf (s : State) (r : RegWrite) (h : RegHit) : Instr :=
  match h.reg with
  | .resume _ => .resumeWrite r
  | .tlbInv _ => .tlbInvWrite r
  | .poisClr => if vbit h 0 then .poisClrAll r else .poisClrEntry r
  | .saveCtl _ =>
    if vbit h 2 then .ctxRestore r else if vbit h 0 then .ctxSave r else .registerWrite r
  | .dbgCtl _ => if vbit h 1 then .brkallWrite r else .registerWrite r
  | .dbgStep _ => .dbgStepWrite r
  | .safeCtl c =>
    if vbit h 0 && !(s.ctx c).safeReq then .safeStopRequest r
    else if !vbit h 0 && (s.ctx c).safeReq then .safeRelease r
    else .registerWrite r
  | .kpqTail _ => .queueDoorbell r
  | .kpqSched _ => .queueSchedWrite r
  | .kpqBase _ | .kpqSize _ | .kpqCtx _ => .queueConfigWrite r
  | .attReq => .attRequest r
  | .pwrLimit | .pwrDom _ => .powerRegisterWrite r
  | .sillDrop => .sillDropWrite r
  | .bayRetire => .bayRetireWrite r
  | .fwUpd => .fwUpdWrite r
  | .snapCtl => if vbit h 0 then .snapArmWrite r else .registerWrite r
  | _ => .registerWrite r

/-- The row that performs a BAR0 write. -/
def classify (s : State) (r : RegWrite) : Instr :=
  match writeAsk s r with
  | .one h => rowOf s r h
  | _ => .registerWrite r

/-- REGISTER_WRITE (R352): a register with no behaviour of its own, an offset that ignores writes, a write of two
4-byte registers, which the host sees performed low half first, or an access that is not supported. -/
def execRegisterWrite (r : RegWrite) (s : State) : Outcome :=
  match writeAsk s r with
  | .bad => .next (s.reply .unsupported)
  | .ignored => .next s
  | .split =>
    let lo : RegWrite := ⟨r.ofs, 4, r.val &&& 0xFFFFFFFF⟩
    let hi : RegWrite := ⟨r.ofs + 4, 4, r.val >>> 32⟩
    .next { s with inbox := .registerWrite lo :: .registerWrite hi :: s.inbox }
  | .one h => if rowOf s r h = .registerWrite r then .next (putReg s h) else .fault .notEnabled

/-- A write that its register gives a behaviour of its own: the row's meaning on the register that was hit. -/
def onReg (s : State) (r : RegWrite) (row : Instr) (f : RegHit → Option State) : Outcome :=
  match writeAsk s r with
  | .one h =>
    if rowOf s r h = row then
      match f h with
      | some t => .next t
      | none => .fault .notEnabled
    else .fault .notEnabled
  | _ => .fault .notEnabled

end Sys2Proof.Machine
end

