-- ==== Sys2Proof/Machine/Walks.lean ====
section
/-! DEFINITION. Page walks: which walk each agent's next step needs, PAGE_WALK, and what a walk gives those that wait on it
(spec/16_faults_translation_preemption.md R371 to R373, R375, spec/05_memory_control_instructions.md R127). -/

namespace Sys2Proof.Machine

/-! ## Page walks (R371 to R373) -/

/-- The opcode of node k of a warp's block, and its format M fields: `PREF`, whose failed walks fault nobody (R135). -/
def prefNode (s : State) (w : WarpId) (k : Nat) : Option FmtM :=
  ((s.warp? w).bind (·.blk)).bind fun b =>
    match nodeAt b.words k with
    | (o, .m f) => if o = 0x122 then some f else none
    | _ => none

/-- What a node translates as it fires: the width in bytes, the need and the kind of its access, and each lane's
address. -/
structure NodeAccess where
  n : Nat
  need : Need
  acc : Access
  lanes : List (Nat × Double)

/-- The global addresses that a format M node translates as it fires (R127). An `ATOM` has its own translated at commit
(R39), and `PREF` leaves out those that it would skip anyway (R135). -/
def memAccess (o : Nat) (f : FmtM) (p : List (Nat × LaneOps)) : Option NodeAccess :=
  let lanes := p.map fun q => (q.1, effAddr q.2.a f.ofs)
  if f.space != 0 then none
  else if o = 0x120 then some ⟨2 ^ bitsOf f.mod 3 0, accNeed .read, .read, lanes⟩
  else if o = 0x121 then some ⟨2 ^ bitsOf f.mod 3 0, accNeed .write, .write, lanes⟩
  else if o = 0x122 then some ⟨1, ⟨0, false⟩, .read, lanes.filter fun q => canonical q.2⟩
  else if o = 0x124 || o = 0x125 then some ⟨1, ⟨0, false⟩, .read, lanes⟩
  else if 0x138 ≤ o && o ≤ 0x141 then some ⟨atomBytes f, redNeed, .atomic, lanes⟩
  else none

/-- The global address that a format E node translates as it fires (R127): of a barrier record, a waited word, an image,
or each lane's word of an `INJ`. -/
def engAccess (s : State) (w : WarpId) (x : Warp) (o : Nat) (f : FmtE) (p : List (Nat × LaneOps)) : Option NodeAccess :=
  let at' (va : Double) : List (Nat × Double) := p.map fun q => (q.1, va)
  let a : Double := BitVec.ofNat 64 (((p.head?).map fun q => tokVal q.2.a).getD 0)
  let h := handleOf (s.teamD w x) (resNum f)
  let named := bitsOf f.imm 2 0 = 0
  let held := h.getLsbD 63 && handleSpace h = 0
  if o = 0x160 && named then some ⟨16, ⟨2, false⟩, .write, at' a⟩
  else if o = 0x162 && named then some ⟨16, accNeed .read, .read, at' a⟩
  else if (o = 0x163 || o = 0x164) && held then some ⟨16, accNeed .atomic, .atomic, at' (handleAddr h)⟩
  else if (o = 0x165 || o = 0x166 || o = 0x167) && held then some ⟨16, accNeed .read, .read, at' (handleAddr h)⟩
  else if o = 0x176 && named then some ⟨4, accNeed .read, .read, at' a⟩
  else if o = 0x1A8 && ((s.bay w.bay).teamRegion x.key (bitsOf f.imm 3 0)).isSome then
    some ⟨32, accNeed .read, .read, at' a⟩
  else if o = 0x1E2 && named then some ⟨4, ⟨2, false⟩, .write, p.map fun q => (q.1, effAddr q.2.a 0)⟩
  else none

/-- The walk that a node needs before it fires (R373): that of the first page of global memory that it would translate and
that is not cached. -/
def nodeWalk (s : State) (w : WarpId) (x : Warp) (b : Blk) (k : Nat) : Option WalkReq :=
  if !(x.park == .running && mayFireNode b k) then none
  else
    let p := performing b k
    if p.any fun q => !(allWords q.2).all good then none
    else
      let needs := match nodeAt b.words k with
        | (o, .m f) => memAccess o.toNat f p
        | (o, .e f) => engAccess s w x o.toNat f p
        | _ => none
      let c := s.ctxOf w
      needs.bind fun a =>
        (s.firstMiss ((a.lanes.takeWhile fun q => q.2.toNat % a.n = 0).map fun q => ⟨c, a.need, a.acc, q.2⟩)).map fun r =>
          ⟨.warp w, c, r.va, a.acc, k, maskOf ((a.lanes.filter fun q => q.2.toNat / 4096 = r.va.toNat / 4096).map (·.1))⟩

/-- The walk that the dispatch of a warp needs before it fetches. -/
def fetchWalk (s : State) (w : WarpId) (x : Warp) : Option WalkReq :=
  if canDispatch s w x && (matchedJoin (allEntries s w) x.pc).isNone && x.pc.toNat % 8 = 0 && canonical x.pc &&
      (s.cached (s.ctxOf w) x.pc).isNone then
    some ⟨.warp w, s.ctxOf w, x.pc, .fetch, 0, x.mask⟩
  else none

/-! ## The other agents -/

/-- The request of an agent for the walk of an access; for a warp's commit the node is 64. -/
def reachReq (a : Actor) (node : Nat) (r : Reach) : WalkReq := ⟨a, r.ctx, r.va, r.acc, node, 0⟩

/-- What the held operations of a block translate as they are released: the record of a `.bar` binding (R144), and the lines
that a stream binding takes holds on (R247). -/
def heldReach (s : State) (w : WarpId) (x : Warp) (b : Blk) (h : HeldOp) : List Reach :=
  match nodeAt b.words h.node, h.lanes, s.team? w.bay x.key with
  | (o, .e f), l :: _, some t =>
    if o = 0x170 && f.mod = 0 then
      let d := handleOf t (bitsOf f.imm 3 0)
      if d.getLsbD 63 && handleSpace d = 0 then [⟨s.ctxOf w, ⟨0, false⟩, .read, handleAddr d⟩] else []
    else if o = 0x1A2 then
      match requestWords s w.bay t (tokVal l.a) with
      | some q =>
        let dir := f.mod.getLsbD 0
        if requestOk s t q (!dir) dir && q.all good then holdReach (s.ctxOf w) q (!dir) dir 0 else []
      | none => []
    else []
  | _, _, _ => []

/-- The walk that a warp's commit needs: of its commit operation (R39), then of what its block holds. -/
def commitWalk (s : State) (w : WarpId) : Option WalkReq :=
  (s.warp? w).bind fun x => x.blk.bind fun b =>
    let held (hs : List HeldOp) : Option Reach := s.firstMiss (hs.flatMap (heldReach s w x b))
    let miss : Option Reach :=
      if x.park != .running then none
      else
        match b.releasing with
        | some hs => held hs
        | none =>
          if !(allFired b && mayRun x s.now) || (boundaryFault s w b).isSome then none
          else
            match b.cop with
            | none => held b.held
            | some h => if (copConflict b h).isSome then none else (copMiss s w x b h).or (held b.held)
    miss.map (reachReq (.warp w) 64)

/-- The walk that the start of a bay's next copy request needs, of the lines that it takes holds on. -/
def copyStartWalk (s : State) (i : CopyId) : Option WalkReq :=
  (nextKick (s.bay i.bay)).bind fun k => (s.team? i.bay k.key).bind fun t => (requestWords s i.bay t k.ofs).bind fun q =>
    if requestOk s t q true true && q.all good then
      (s.firstMiss (holdReach (s.ctxOf k.warp) q true true 0)).map (reachReq (.copy i) 0)
    else none

/-- The walk that a copy's next chunk needs: of its lines, of lines that it has still to hold, of its countdown. -/
def chunkWalk (s : State) (i : CopyId) : Option WalkReq :=
  (runningCopy (s.bay i.bay) i.n).bind fun c => (s.warp? c.kick.warp).bind fun x =>
    let w := c.kick.warp
    let ctx := s.ctxOf w
    if reqTotal c.req ≤ c.moved || chunkWaits (s.bay i.bay) c then none
    else
      let held := match sideLoc s w x c.req false c.moved, sideLoc s w x c.req true c.moved with
        | .ok l, .ok d => if lacksHold s i.bay 1 c.seq (heldOf c.req l d) then holdReach ctx c.req true true c.moved else []
        | _, _ => []
      (s.firstMiss (sideReach ctx c.req false (patternAddr c.req false c.moved) ++
        sideReach ctx c.req true (patternAddr c.req true c.moved) ++ held ++ countReach s w c.req)).map (reachReq (.copy i) 1)

/-- The walk that a copy's completion write needs. -/
def completionWalk (s : State) (i : CopyId) : Option WalkReq :=
  (runningCopy (s.bay i.bay) i.n).bind fun c =>
    if c.moved < reqTotal c.req || chainWaits (s.bay i.bay) c then none
    else (s.firstMiss (cwReach (s.ctxOf c.kick.warp) c.req)).map (reachReq (.copy i) 2)

/-- What a binding translates for its next word: the word, the lines that it has still to hold, the countdown. -/
def wordReach (s : State) (p : PortId) (dir : Bool) (c : StreamBind) (x : Warp) : List Reach :=
  let ctx := s.ctxOf c.warp
  let held := match bindLoc s c x dir with
    | .ok l => if bindLacks s p dir c l then holdReach ctx c.req (!dir) dir c.moved else []
    | .error _ => []
  sideReach ctx c.req dir (patternAddr c.req dir c.moved) ++ held ++ countReach s c.warp c.req

/-- The walk that a port's DIR 0 binding needs for its next step. -/
def streamInWalk (s : State) (p : PortId) : Option WalkReq :=
  (liveBind s p false).bind fun (c, x) =>
    let rs :=
      if c.ending then cwReach (s.ctxOf c.warp) c.req
      else if !portCredit s p 0 then []
      else if reqTotal c.req ≤ c.moved then cwReach (s.ctxOf c.warp) c.req
      else wordReach s p false c x
    (s.firstMiss rs).map (reachReq (.streamIn p) 0)

/-- The walk that a port's DIR 1 binding needs for its next step. -/
def streamOutWalk (s : State) (p : PortId) : Option WalkReq :=
  (liveBind s p true).bind fun (c, x) =>
    let cw := cwReach (s.ctxOf c.warp) c.req
    let rs :=
      if ((s.bay p.bay).port p.row).endOut then []
      else if c.ending || reqTotal c.req ≤ c.moved then cw
      else
        match portHead s p 0 with
        | none => []
        | some t =>
          if t.tag = 1 || t.tag = 3 then []
          else if t.tag = 2 then countReach s c.warp c.req ++ cw
          else wordReach s p true c x ++ (if reqTotal c.req ≤ c.moved + 4 then cw else [])
    (s.firstMiss rs).map (reachReq (.streamOut p) 0)

/-- The walk that a port's oldest load needs. -/
def portWalk (s : State) (p : PortId) : Option WalkReq :=
  let q := (s.bay p.bay).port p.row
  match portRegion s p, q.reqs with
  | some g, r :: _ =>
    let cfg := portCfg q
    if r.pass.isSome || !portCredit s p 2 || q.stalled.isSome || r.ofs.toNat % 4 != 0 ||
        (wordAt cfg 2).toNat < r.ofs.toNat + 4 || bitsOf (wordAt cfg 3) 2 0 != 0 then none
    else
      (s.firstMiss [reach (teamCtx s p.bay g.key) .read (doubleAt cfg 0 + r.ofs.setWidth 64)]).map (reachReq (.portRep p) 0)
  | _, _ => none

/-- The walk that the barrier update of a matrix command's next group needs. -/
def matrixWalk (s : State) (bay : Nat) : Option WalkReq :=
  (s.bay bay).mx.cur.bind fun c =>
    if cmdBar c && mxReady s bay && !mxStopped s bay then
      (s.firstMiss (updateReach s c.warp c.f.res.toNat)).bind fun r =>
        let i := (s.bay bay).mx.rows
        if (applyRows s bay c i (min 8 (cmdRows c - i))).2.isNone then some (reachReq (.matrix bay) 0 r) else none
    else none

/-- What the loader reads of the first n bytes of an image: the first line has been translated (R127). -/
def imageReach (ctx : Nat) (l : ImageLoad) (n : Nat) : List Reach :=
  let from' : Nat := if l.loc.isSome then (l.va.toNat / 128 + 1) * 128 else l.va.toNat
  spanReach ctx .read (BitVec.ofNat 64 from') (l.va.toNat + n - from')

/-- The walk that the loader of a region needs: of the header, then of the whole image (R220). -/
def imageWalk (s : State) (bay region : Nat) : Option WalkReq :=
  ((s.bay bay).regions[region]?).bind fun g => g.loads.head?.bind fun l =>
    let c := teamCtx s bay g.key
    let miss : Option Reach :=
      if !g.packets.isEmpty then none
      else
        match s.firstMiss (imageReach c l 32) with
        | some r => some r
        | none =>
          match readImageHead (imageWord s bay c l.va l.loc) g with
          | .ok hd => s.firstMiss (imageReach c l (32 + (hd.bytes + 31) / 32 * 32))
          | .error _ => none
    miss.map (reachReq (.loader bay region) 0)

/-- The kingpost's reads: of handler launches and of the heads of queues. -/
def kingEvents (s : State) : List (Option WalkReq × (State → Outcome)) :=
  (s.handlers.map fun h => ((handlerMiss s h).map (reachReq .king 0), fun t => .next (takeHandlerLaunch t h))) ++
    s.queues.map fun (k, _) => ((headMiss s k).map (reachReq .king (k + 1)), fun t => .next (readHead t k))

/-- The steps of an agent that use translations, each with the walk that it needs first (R373); a warp's fetch and nodes
are apart. -/
def agentEvents (s : State) : Actor → List (Option WalkReq × (State → Outcome))
  | .warp w => [(commitWalk s w, execBlockCommit w)]
  | .copy i => [(copyStartWalk s i, execCopyRequestStart i.bay), (chunkWalk s i, execCopyChunkLand i),
      (completionWalk s i, execCopyCompletion i)]
  | .streamIn p => [(streamInWalk s p, execStreamInWord p)]
  | .streamOut p => [(streamOutWalk s p, execStreamOutWord p)]
  | .portRep p => [(portWalk s p, execPortLoadReply p)]
  | .matrix b => [(matrixWalk s b, execMatrixRowGroupComplete b)]
  | .loader b r => [(imageWalk s b r, execTrussImageLoad b r)]
  | .king => kingEvents s
  | _ => []

/-! ## PAGE_WALK -/

/-- An agent whose step meets the page that could not be walked takes that step now, and with it the walk's result: the
fault, error or rejection that its own rule gives (R373). -/
def runMissed (s : State) (q : WalkReq) : State :=
  match (agentEvents s q.agent).find? (·.1 = some q) with
  | some (_, f) => (match f s with | .next t => t | _ => s)
  | none => s

/-- A miss takes its failed walk (R366, R373): a fetch names no node, and concerns every lane of the warp; a `PREF` fires
without the line (R135); any other node faults, and any other step of an agent meets the failure. -/
def walkFault (s : State) (q : WalkReq) (f : WalkFail) : State :=
  match q.agent with
  | .warp w =>
    if q.acc = .fetch then s.addrFault w none (((s.warp? w).map (·.mask)).getD 0) 0 q.va .fetch (.walk f)
    else if q.node = 64 then runMissed s q
    else
      match prefNode s w q.node with
      | some m => (match execPref m { s with cur := .node w q.node } with | .next t => t | _ => s)
      | none => s.addrFault w (some q.node) q.lanes 0 q.va q.acc (.walk f)
  | _ => runMissed s q

/-- A miss still waits: one whose block has been discarded, or whose agent has stopped or needs another page first, does
not. -/
def stillWaits (s : State) (q : WalkReq) : Bool :=
  match q.agent with
  | .warp w =>
    if q.node = 64 then commitWalk s w = some q
    else (s.warp? w).any fun x =>
      if q.acc = .fetch then x.blk.isNone && x.park == .running && !x.retired && x.pc = q.va
      else x.blk.any fun b => nodeWalk s w x b q.node = some q
  | a => (agentEvents s a).any (·.1 = some q)

/-- A walk ends (R371, R373): its translation is cached, which the misses that wait on it then use, or each of them that
is still there takes the fault, with a record of its own. -/
def endWalk (s : State) (k : PageWalk) : State :=
  let s0 : State := { s with walks := s.walks.filter (· != k) }
  let qs := k.waiting.filter (stillWaits s0)
  match k.waiting with
  | [] => s0
  | q :: _ =>
    match walk s0 k.ctx q.va with
    | .error f => qs.foldl (fun t p => walkFault t p f) (s0.listPoison f)
    | .ok l => s0.cacheLeaf k.ctx q.va l

/-- PAGE_WALK (R371, R373). A miss of any agent starts a walk of its page, or joins the one that is on its way; a walk that
one of the 64 walkers performs ends when a miss that waits on it comes again, or nobody is left who waits. The first 64
walks in order of arrival are in flight (notes/assumptions/9.md). -/
def execPageWalk (q : WalkReq) (s : State) : Outcome :=
  if (s.cached q.ctx q.va).isSome || !canonical q.va then .fault .notEnabled
  else
    let here (k : PageWalk) : Bool := k.ctx = q.ctx && k.page = q.va.toNat / 4096
    match s.walks.find? here with
    | none => .next { s with walks := s.walks ++ [⟨q.ctx, q.va.toNat / 4096, [q]⟩] }
    | some k =>
      if !k.waiting.contains q then
        .next { s with walks := s.walks.map fun j => if here j then { j with waiting := j.waiting ++ [q] } else j }
      else if (s.walks.take 64).any here then .next (endWalk s k)
      else .fault .notEnabled

end Sys2Proof.Machine
end

