-- ==== Sys2Proof/Machine/Driver.lean ====
section
/-! DEFINITION. What the driver does: held records, service of records, invalidations, the
poisoned list, breaks and stepping, safe points, and the queues' registers
(spec/16_faults_translation_preemption.md R367 to R376, R380 to R382, spec/14_farfoec_translation.md R345, R346,
spec/15_host_queues_launch.md R353, R354, spec/09_scheduling_and_leases.md R260). -/

namespace Sys2Proof.Machine

/-! ## Records (R367, R369) -/

/-- RECORD_DEFERRED_WRITE (R367): the oldest held record of a context is written once the ring takes it. -/
def execRecordDeferredWrite (ctx : Nat) (s : State) : Outcome :=
  match heldRecord s ctx with
  | some r => if canWrite s ctx then .next (writeRecord s r) else .fault .notEnabled
  | none => .fault .notEnabled

/-- RESUME_WRITE (R369): the page's own context is the issuer. -/
def execResumeWrite (r : RegWrite) (s : State) : Outcome :=
  onReg s r (.resumeWrite r) fun h =>
    match h.reg with
    | .resume c => some (s.serve c h.val)
    | _ => none

/-! ## Invalidation (R374) -/

/-- The pages that a TLB_INV value covers: every page of the context, or a range. -/
def invCovers (v : Double) (page : Nat) : Bool :=
  let size := bitsOf v 11 10
  let n := if size = 0 then 1 else if size = 1 then 16 else if size = 2 then 512 else 262144
  v.getLsbD 1 || page / n = bitsOf v 56 12 / n

/-- A TLB_INV value's range meets the pages of a leaf that maps `span` of them (R374). -/
def invMeets (v : Double) (page span : Nat) : Bool :=
  let size := bitsOf v 11 10
  let n := max span (if size = 0 then 1 else if size = 1 then 16 else if size = 2 then 512 else 262144)
  v.getLsbD 1 || page / n = bitsOf v 56 12 / n

/-- A page whose translation an invalidation removes: one of its range, or of a leaf that it has removed (R374). -/
def invGone (c : Ctx) (v : Double) (page : Nat) : Bool :=
  invCovers v page || c.tlbGone.any fun g => g.1 ≤ page && page < g.1 + g.2

/-- The unacknowledged writes that engines of a context have sent through a translation which the invalidation under way
removes, marked (R374). -/
def markSent (s : State) (c : Nat) (v : Double) : State :=
  let mark (u : SentWrite) : SentWrite :=
    { u with old := u.old || (s.ctxOf u.warp = c && u.page.any (invGone (s.ctx c) v)) }
  { s with vl := { s.vl with outs := s.vl.outs.map fun (k, o) => (k, { o with unacked := o.unacked.map mark }) } }

/-- An invalidation begins: the context's translations that cover its range go, whole leaves of them. -/
def startInv (s : State) (c : Nat) : State :=
  match (s.ctx c).tlbQueue with
  | [] => s
  | v :: _ =>
    let gone (e : TlbEntry) : Bool := e.ctx = c && invMeets v (pageOf (e.page * 4096)) e.span
    let s1 : State := { s with tlb := s.tlb.filter fun e => !gone e }
    markSent (s1.modCtx c fun x => { x with
      tlbSince := s.now
      tlbGone := (s.tlb.filter gone).map fun e => (pageOf (e.page * 4096) / e.span * e.span, e.span) }) c v

/-- TLB_INV_WRITE (R374): a write while another is not complete is queued behind it. -/
def execTlbInvWrite (r : RegWrite) (s : State) : Outcome :=
  onReg s r (.tlbInvWrite r) fun h =>
    match h.reg with
    | .tlbInv c =>
      let s1 := s.modCtx c fun x => { x with tlbQueue := x.tlbQueue ++ [h.val] }
      some (if (s.ctx c).tlbQueue.isEmpty then startInv s1 c else s1)
    | _ => none

/-- A block dispatched before the invalidation still holds a translation that it removes (R127, R374). -/
def holdsOld (b : Blk) (c : Ctx) (v : Double) : Bool :=
  b.since ≤ c.tlbSince && (b.held ++ b.releasing.getD [] ++ b.waits).any fun h => h.lanes.any fun l =>
    (match l.loc with
     | some (.phys pa) => pa < Config.loftBase
     | some (.remote _ _) => true
     | _ => false) && invGone c v (pageOf (handleAddr l.va).toNat)

/-- An image load that the loader has not performed holds its first line's translation (R127). -/
def loadHoldsOld (s : State) (ctx : Nat) (v : Double) : Bool :=
  s.bays.any fun p => p.2.regions.any fun g => g.loads.any fun l =>
    s.ctxOf l.warp = ctx && l.loc.isSome && invGone (s.ctx ctx) v (pageOf l.va.toNat)

/-- A copy chunk, a stream word or a completion write that was sent to a peer through a removed translation is not yet
acknowledged, so not known to be performed (R251, R374). -/
def sentHoldsOld (s : State) (ctx : Nat) : Bool :=
  s.vl.outs.any fun p => p.2.unacked.any fun u => u.old && s.ctxOf u.warp = ctx

/-- TLB_INVALIDATION_DONE (R374): no agent can still use a removed translation; the next queued one begins. -/
def execTlbInvalidationDone (ctx : Nat) (s : State) : Outcome :=
  let c := s.ctx ctx
  match c.tlbQueue with
  | [] => .fault .notEnabled
  | v :: rest =>
    if (s.allWarps.any fun (w, x) => s.ctxOf w = ctx && x.blk.any fun b => holdsOld b c v) ||
        loadHoldsOld s ctx v || sentHoldsOld s ctx || s.merges.any (fun m => s.ctxOf m.warp = ctx) then .fault .notEnabled
    else .next (startInv (s.modCtx ctx fun x => { x with tlbQueue := rest }) ctx)

/-! ## The poisoned list (R376) -/

/-- POIS_CLR_ENTRY (R376). -/
def execPoisClrEntry (r : RegWrite) (s : State) : Outcome :=
  onReg s r (.poisClrEntry r) fun h =>
    some { s with poisoned := s.poisoned.filter fun p => p.pa != vbits h 51 3 * 8 }

/-- POIS_CLR_ALL (R376). -/
def execPoisClrAll (r : RegWrite) (s : State) : Outcome :=
  onReg s r (.poisClrAll r) fun _ => some { s with poisoned := [] }

/-! ## Breaks and stepping (R380, R381) -/

/-- The warps of a context. -/
def ctxWarps (s : State) (c : Nat) : List (WarpId × Warp) := s.allWarps.filter fun p => s.ctxOf p.1 = c && !p.2.retired

/-- The saved teams of a state with their warps changed. -/
def mapSaved (f : SavedTeam → Warp → Warp) (s : State) : State :=
  { s with saved := s.saved.map fun v => { v with image := { v.image with
      warps := v.image.warps.map fun (k, x) => (k, f v x) } } }

/-- BRKALL_WRITE (R380): every warp of the context is asked for a stop break, which a warp at a boundary delivers at
once, a parked one when it wakes and one of a saved team when it is back. -/
def execBrkallWrite (r : RegWrite) (s : State) : Outcome :=
  onReg s r (.brkallWrite r) fun h =>
    match h.reg with
    | .dbgCtl c =>
      let s1 := mapSaved (fun v x => { x with stop := x.stop || (v.ctx == c && !x.retired) }) (putReg s h)
      some ((ctxWarps s1 c).foldl (fun t (w, x) =>
        let u := t.modWarp w fun y => { y with stop := true }
        if x.started then u.settle w else u) s1)
    | _ => none

/-- A warp waits for a break record, or has delivered it out of a wait of its own. -/
def waitsFor (x : Warp) (n : Nat) : Bool :=
  x.stepRec == some n || (match x.park with | .service m _ => m = n | _ => false)

/-- A warp that DBG_STEP lets go dispatches one block, at once or when its wait is over; one that a record of the group's
own action has parked has taken its step. -/
def stepWarp (x : Warp) : Warp :=
  match x.park with
  | .service _ _ => x
  | _ => { x with stepping := true }

/-- DBG_STEP_WRITE (R381): the break record is served, and its warp dispatches one block, unless the group's own action
was the step. A saved warp takes its step when its team is back. -/
def execDbgStepWrite (r : RegWrite) (s : State) : Outcome :=
  onReg s r (.dbgStepWrite r) fun h =>
    match h.reg with
    | .dbgStep c =>
      match namedRecord s c h.val with
      | none => some s
      | some q =>
        if q.kind != 0x08 then some s
        else
          let s1 := s.tret c h.val
          let s2 := mapSaved (fun _ x => { x with stepping := x.stepping || waitsFor x q.num }) s1
          match q.agent with
          | .warp w => some (if (s.warp? w).any fun x => waitsFor x q.num then s2.modWarp w stepWarp else s2)
          | _ => some s2
    | _ => none

/-! ## Safe points (R345, R346) -/

/-- SAFE_STOP_REQUEST (R346): REQ becomes 1; each warp's count of blocks since REQ starts at 0. -/
def execSafeStopRequest (r : RegWrite) (s : State) : Outcome :=
  onReg s r (.safeStopRequest r) fun h =>
    match h.reg with
    | .safeCtl c => some ((putReg s h).modCtx c fun x => { x with safeReq := true, safeLate := false, safeCounts := [] })
    | _ => none

/-- SAFE_RELEASE (R346): REQ becomes 0; each warp stopped before a SAFE block goes on. -/
def execSafeRelease (r : RegWrite) (s : State) : Outcome :=
  onReg s r (.safeRelease r) fun h =>
    match h.reg with
    | .safeCtl c =>
      let s1 := (putReg s h).modCtx c fun x => { x with safeReq := false }
      some ((ctxWarps s1 c).foldl (fun t (w, x) =>
        if x.park == .safePoint then (t.wakeWarp w).settle w else t) s1)
    | _ => none

/-- SAFE_LATE (R345): a warp has committed more than LIM blocks, in units of 256, since REQ. -/
def execSafeLate (ctx : Nat) (s : State) : Outcome :=
  let c := s.ctx ctx
  if c.safeReq && !c.safeLate && c.safeLim != 0 && c.safeCounts.any (fun p => c.safeLim * 256 < p.2) then
    .next (s.modCtx ctx fun x => { x with safeLate := true })
  else .fault .notEnabled

/-! ## Queue registers (R260, R353, R354) -/

/-- QUEUE_DOORBELL (R354): accepted, or refused with ERR, EN cleared and a notice (R411). -/
def execQueueDoorbell (r : RegWrite) (s : State) : Outcome :=
  onReg s r (.queueDoorbell r) fun h =>
    match h.reg with
    | .kpqTail k =>
      let q := s.queue k
      let t := vword h
      if (t - q.head).toNat ≤ 2 ^ q.size && (t - q.tail).toNat ≤ 2 ^ q.size then
        some (s.modQueue k fun x => { x with tail := t })
      else
        some ((s.modQueue k fun x => { x with err := true, en := false }).notice q.ctx 0x0021 0 0 0 0 0 0
          (BitVec.ofNat 64 k) 0 (t.setWidth 64))
    | _ => none

/-- QUEUE_SCHED_WRITE (R260): a change of PRIO or WT waits for the next round of the queue's level. -/
def execQueueSchedWrite (r : RegWrite) (s : State) : Outcome :=
  onReg s r (.queueSchedWrite r) fun h =>
    match h.reg with
    | .kpqSched k => some (s.modQueue k fun x =>
        let p := vbits h 18 16
        let w := vbits h 15 8
        { x with en := vbit h 31, sched := if (p, w) = x.sched.getD (x.prio, x.wt) then x.sched else some (p, w) })
    | _ => none

/-- QUEUE_CONFIG_WRITE (R353): KPQ_BASE, SIZE and CTX change only while the queue is disabled and empty; otherwise ERR
is set. -/
def execQueueConfigWrite (r : RegWrite) (s : State) : Outcome :=
  onReg s r (.queueConfigWrite r) fun h =>
    let go (k : Nat) (f : Queue → Queue) : Option State :=
      let q := s.queue k
      some (if q.en || q.head != q.tail then s.modQueue k fun x => { x with err := true } else s.modQueue k f)
    match h.reg with
    | .kpqBase k => go k fun x => { x with base := vbits h 51 12 * 2 ^ 12 }
    | .kpqSize k =>
      let n := vbits h 4 0
      go k fun x => { x with size := if 4 ≤ n && n ≤ 16 then n else 4, head := 0, tail := 0 }
    | .kpqCtx k => go k fun x => { x with ctx := vbits h 11 0 }
    | _ => none

end Sys2Proof.Machine
end

