-- ==== Sys2Proof/Machine/Save.lean ====
section
/-! DEFINITION. Pre-emption of contexts: what a team's save record holds, the save, and the restore
(spec/16_faults_translation_preemption.md R377 to R379, spec/02_execution_model.md R51, R52,
spec/05_memory_control_instructions.md R148, spec/06_numbers_and_matrix_engine.md R184,
spec/07_truss_fabric.md R219, R226). -/

namespace Sys2Proof.Machine

/-! ## The save record (Tables 16.8, 16.9) -/

/-- Pieces of a record: byte offset and words. -/
abbrev Pieces := List (Nat × List W40)

/-- A number as one fresh word. -/
def numWord (n : Nat) : W40 := fresh (BitVec.ofNat 32 n)

/-- The code of a park (Table 16.9). A warp stopped at a safe point stands at a block boundary. -/
def parkCode (s : State) : Park → Nat
  | .running | .safePoint => 0
  | .waitAny _ _ => 1
  | .waitAddr _ _ _ _ _ _ => 2
  | .exportReturn => 3
  | .service n _ => if s.recs.any (fun r => r.num = n && (r.kind = 7 || r.kind = 8)) then 5 else 4

/-- The wait slots of a park. -/
def parkSlots : Park → Nat
  | .waitAny m _ => m.toNat
  | _ => 0

/-- The doubles at 0x068 and 0x070: a `WAITADDR`'s address and value, or the pending record's address. -/
def parkDoubles (s : State) (ctx : Nat) : Park → Double × Double
  | .waitAddr _ va _ v _ _ => (va, v.setWidth 64)
  | .service n _ =>
    (((s.recs.find? (·.num == n)).bind (·.seq)).map (recordAddr (s.ctx ctx)) |>.getD 0, 0)
  | _ => (0, 0)

/-- The words of a check record: the identity of the word, and the count (R258). -/
def checkWords : Option WordIdent → List W40
  | none => [numWord 0, numWord 0, numWord 0, numWord 0, numWord 0]
  | some (.mem sp a) => [numWord a, numWord (a / 2 ^ 32), numWord sp, numWord 0, numWord 1]
  | some (.lane r l) => [numWord r, numWord l, numWord 0, numWord 1, numWord 1]
  | some (.uniform r l) => [numWord r, numWord l, numWord 0, numWord 2, numWord 1]
  | some .engine => [numWord 0, numWord 0, numWord 0, numWord 3, numWord 1]

/-- GEN of the record that a `.bar` binding names, at its home. -/
def bindGen (s : State) (w : WarpId) (x : Warp) (e : EventBind) : W40 :=
  ((barBindLoc s w x e).map s.homeWord).getD .zero

/-- A warp's state at an offset of its team's record (Table 16.9). -/
def warpPieces (s : State) (ctx : Nat) (w : WarpId) (x : Warp) (o : Nat) : Pieces :=
  let (p1, p2) := parkDoubles s ctx x.park
  let bindWords (k : Nat) : List W40 :=
    match aget x.binds k with
    | some e => doubleToks e.handler ++ [numWord (e.kind + e.sel % 2 ^ 24 * 2 ^ 8), bindGen s w x e]
    | none => doubleToks 0 ++ [numWord 0xFF, numWord 0]
  [(o, doubleToks x.pc ++ doubleToks x.mask ++ [fresh x.mode]),
   (o + 0x18, [numWord (x.evmask.toNat * 2 ^ 16 + x.evpend.toNat),
      numWord ((if x.measured then 2 ^ 16 else 0) + x.leaseMeas % 256 * 2 ^ 8 + x.leaseDecl % 256)]),
   (o + 0x20, doubleToks ((x.region.map (·.addr)).getD 0) ++ doubleToks ((x.region.map (·.mask)).getD 0)),
   (o + 0x30, [numWord ((x.region.map (·.depth)).getD 0 + x.stack.length * 2 ^ 8 + x.spilled * 2 ^ 16)]),
   (o + 0x38, checkWords x.check),
   (o + 0x50, doubleToks (maskOf (x.outs.map (·.1)))),
   (o + 0x58, [numWord ((x.outs.head?.map (·.2.1)).getD 0)]),
   (o + 0x60, [numWord (parkCode s x.park + parkSlots x.park * 2 ^ 16)]),
   (o + 0x68, doubleToks p1 ++ doubleToks p2),
   (o + 0x100, (List.range 16).flatMap bindWords),
   (o + 0x200, x.stack.reverse.flatMap entryWords),
   (o + 0x400, (List.range 64).map x.ureg)]

/-- The bytes of a warp slot's part. -/
def slotBytes (t : Team) : Nat := 4096 + 256 * t.regs

/-- The parts of a team's warp slots: the warp or half-warps, and the lane registers. -/
def slotPieces (s : State) (b : Nat) (t : Team) : Pieces :=
  (t.slots.zipIdx).flatMap fun (slot, i) =>
    let o := 0x3000 + i * slotBytes t
    [0, 1].flatMap fun h =>
      match aget (s.bay b).warps (slot * 2 + h) with
      | none => []
      | some x =>
        warpPieces s t.ctx ⟨b, slot, h⟩ x (o + 0x800 * h) ++ (List.range t.regs).map fun k =>
          (o + 0x1000 + 256 * k + 128 * h, (List.range x.lanes).map fun l => x.reg k l)

/-! The spec lays out the parts of elements and ports that a program can see. What else resumption needs stands in words
that it leaves free (DESIGN CHOICE, notes/assumptions/36.md): the number of tokens in each list, the routes, flags, and
the status of the region in its first cell. -/

/-- A queued token as the record holds it: its data with its code, and its tag. -/
def tokenWords (t : TTok) : List W40 := [t.w, numWord t.tag.toNat]

/-- The bytes of an element's part: a port, a memory element, or a compute element. -/
def cellBytes (col : Nat) : Nat := if col = 0 then 0x4000 else if col = 7 then 0x1400 else 0x400

/-- The bits of flags, the first lowest. -/
def flagBits (l : List Bool) : Nat := (l.zipIdx.map fun (b, i) => if b then 2 ^ i else 0).sum

/-- Four counts of three bits. -/
def countBits (n : Nat → Nat) : Nat := ((List.range 4).map fun i => n i % 8 * 2 ^ (3 * i)).sum

/-- The routes of an element, one word an output, relative to its region's origin. -/
def routeWords (g : Region) (e : Elem) : List W40 :=
  (List.range 4).map fun i =>
    match aget e.routes i with
    | none => numWord 0
    | some r => numWord (2 ^ 31 + (r.row - g.row) + 8 * (r.col - g.col) + 64 * r.inp)

/-- The status of a region, for its first cell. -/
def regionWords (g : Region) : List W40 :=
  [numWord (flagBits [g.loaded, g.running, g.quiet, g.faulted, g.image.isSome]), numWord (g.image.getD 0), numWord g.errs,
    numWord g.fires]

/-- A compute or memory element's part. -/
def elemPieces (g : Region) (e : Elem) (col o : Nat) : Pieces :=
  [(o, (List.range 96).map fun i => agetD e.planes i .zero)] ++
  ((List.range 4).map fun i => (o + 0x180 + 32 * i, (e.queue i).flatMap tokenWords)) ++
  [(o + 0x200, (List.range 4).map fun i => agetD e.locals i .zero),
   (o + 0x220, [numWord (e.preds.toNat + (if e.act then 2 ^ 8 else 0) + (if e.pref = 2 then 2 ^ 9 else 0) +
      countBits (fun i => (e.queue i).length) * 2 ^ 10),
     numWord (countBits (fun i => (e.flying i).length) + (if e.started then 2 ^ 12 else 0) + e.pref % 4 * 2 ^ 13 +
      (if e.glitch then 2 ^ 15 else 0))])] ++
  ((List.range 4).map fun i => (o + 0x228 + 32 * i, (e.flying i).flatMap tokenWords)) ++
  [(o + 0x2A8, routeWords g e)] ++
  (if col = 7 then [(o + 0x400, (List.range 1024).map fun i => agetD e.sram i .zero)] else [])

/-- A port's part. -/
def portPieces (s : State) (b : Nat) (x : Bay) (g : Region) (row o : Nat) : Pieces :=
  let p := x.port row
  let e := x.elem row 0
  let sink := ((x.sinkBase row).map fun l => s.homeWord (.pad b l)).getD .zero
  let moved (c : Option StreamBind) : W40 := numWord ((c.map (·.moved)).getD 0)
  let req (r : PortReq) : List W40 :=
    match r.pass with
    | some t => [t.w, numWord (t.tag.toNat + 4)]
    | none => [fresh r.ofs, numWord 0]
  let flags := flagBits [p.sinkWait, p.sinkKick, p.sinkStop, p.endOut, p.retMark.isSome, e.started]
  [(o, portCfg p), (o + 0x20, [sink, moved p.inBind, moved p.outBind]),
   (o + 0x2C, [numWord (p.reqs.length % 32 + p.exports.length % 2048 * 2 ^ 5 + p.retToks.length % 1024 * 2 ^ 16 +
     flags * 2 ^ 26)]),
   (o + 0x40, p.reqs.flatMap req)] ++
  ((List.range 4).map fun i => (o + 0xC0 + 32 * i, (e.flying i).flatMap tokenWords)) ++
  ((List.range 4).map fun i => (o + 0x140 + 32 * i, (e.queue i).flatMap tokenWords)) ++
  [(o + 0x1C0, [numWord (countBits (fun i => (e.queue i).length) + countBits (fun i => (e.flying i).length) * 2 ^ 12)] ++
     ((p.retMark.map tokenWords).getD [])),
   (o + 0x1D0, routeWords g e),
   (o + 0x200, p.exports.flatMap tokenWords), (o + 0x2400, p.retToks.flatMap tokenWords)]

/-- The cells of regions with their region, in the record's order. -/
def cellsOf (gs : List Region) : List (Region × Nat × Nat) := gs.flatMap fun g => g.cells.map fun c => (g, c)

/-- The truss part of a team from an offset: each region in declaration order, each element row-major; with its end. -/
def trussPieces (s : State) (b : Nat) (t : Team) (o : Nat) : Pieces × Nat :=
  let x := s.bay b
  (cellsOf (x.regions.filter (·.key == t.key))).foldl (fun (a : Pieces × Nat) (q : Region × Nat × Nat) =>
    let (g, row, col) := q
    let ps := if col = 0 then portPieces s b x g row a.2 else elemPieces g (x.elem row col) col a.2
    let status := if row = g.row && col = g.col then [(a.2 + (if col = 0 then 0x30 else 0x2F0), regionWords g)] else []
    (a.1 ++ ps ++ status, a.2 + cellBytes col)) ([], o)

/-- Bytes as words, the first byte lowest. -/
def byteWords : List Byte → List W40
  | a :: b :: c :: d :: r => fresh (d ++ c ++ b ++ a) :: byteWords r
  | [] => []
  | l => [numWord ((l.zipIdx.map fun (y, i) => y.toNat * 2 ^ (8 * i)).sum)]

/-- An entry of a checksum column as ten words: in units of 2^-160, below which no plane's sum reaches, two's complement;
the most negative pattern stands for a sum that is not finite. -/
def csumWords (d : Option Dyadic2) : List W40 :=
  tokOf 10 (match d with
    | none => 2 ^ 319
    | some v => ((v.m * 2 ^ (v.e + 160).toNat / 2 ^ (-(v.e + 160)).toNat) % 2 ^ 320).toNat)

/-- An entry of a checksum column from its words. -/
def csumOf (ws : List W40) : Option Dyadic2 :=
  let n := tokVal ws
  if n = 2 ^ 319 then none else some ⟨if n < 2 ^ 319 then n else (n : Int) - 2 ^ 320, -160⟩

/-- A plane's part: element words, then format, kind, loaded bit, band scales, scales, and the checksum column. -/
def planePieces (p : MxPlane) (o : Nat) : Pieces :=
  [(o, (List.range 2048).map fun i => agetD p.words i .zero),
   (o + 0x2000, [numWord (p.fmt + p.kind * 2 ^ 8 + (if p.loaded then 2 ^ 16 else 0))]),
   (o + 0x2040, p.bands.map fun h => numWord h.toNat)] ++
  (p.scales.map fun (k, set) => (o + 0x2400 + 16 * k, byteWords set)) ++
  (p.csum.zipIdx.map fun (d, k) => (o + 0x2C00 + 40 * k, csumWords d))

/-- A matrix command's part, 64 bytes: its fields and operands, its record, its warp by the place of its slot in the
team, and how many lines it holds. -/
def cmdWords (x : Bay) (t : Team) (c : MxCmd) : List W40 :=
  let slot := (t.slots.findIdx? (· = c.warp.slot)).getD 0
  [numWord (c.opc + c.f.mod.toNat * 2 ^ 16 + c.f.res.toNat * 2 ^ 24), fresh c.a, fresh c.b, fresh c.c, fresh c.mode,
    numWord c.f.imm.toNat] ++ ((List.range 8).map fun i => c.record[i]?.getD .zero) ++
    [numWord (2 * slot + c.warp.half + (if c.outside then 2 ^ 16 else 0)),
     numWord (x.holds.filter fun h => h.engine = 0 && h.seq = c.seq).length]

/-- The matrix part: tiles, planes, the active plane, the interrupted command with its rows, the queue. -/
def matrixPieces (x : Bay) (t : Team) (o : Nat) : Pieces :=
  let m := x.mx
  (m.acc.map fun (k, v) => (o + 16 * k, (List.range 4).map fun i => fresh (v.extractLsb' (32 * i) 32))) ++
  planePieces m.pa (o + 0x40000) ++ planePieces m.pb (o + 0x44000) ++
  [(o + 0x48000, [numWord (if m.act then 1 else 0), numWord m.rows,
     numWord ((if m.cur.isSome then 1 else 0) + m.queue.length * 2 ^ 8),
     numWord ((if m.err then 1 else 0) + m.cause * 2 ^ 8)]),
   (o + 0x48040, (m.cur.map (cmdWords x t)).getD [])] ++
  (m.queue.zipIdx).map fun (c, i) => (o + 0x48080 + 64 * i, cmdWords x t c)

/-- The kick queue's part (Table 16.8 at 0x0180): the requests in progress, then those that wait. -/
def kickPieces (x : Bay) (key : TeamKey) : Pieces :=
  let first := (x.copies.filter fun c => c.kick.key == key).map fun c =>
    [numWord c.kick.ofs, numWord c.moved, numWord (1 + (if c.stalled.isSome then 2 else 0)), numWord 0]
  let rest := (x.kicks.filter (·.key == key)).map fun k => [numWord k.ofs, numWord 0, numWord 0, numWord 0]
  [(0x98, [numWord (first.length % 256 + rest.length * 2 ^ 8)]), (0x180, ((first ++ rest).take 64).flatten)]

/-- The mailboxes' parts: spill places, and the hardware messages, oldest first. -/
def mailboxPieces (x : Bay) (t : Team) : Pieces :=
  ((List.range 16).filter fun m => t.mbox.getLsbD m).flatMap fun m =>
    let b := agetD x.mbox m .reset
    [(0xC0 + 4 * m, [numWord b.msgs.length]), (0x580 + 8 * m, [numWord b.spillHead, numWord b.spillCount]),
      (0x600 + 512 * m, b.msgs.flatten)]

/-- The offsets of a record's scratchpad image, truss part and matrix part, 0 when absent, and its length. -/
def recordPlan (s : State) (b : Nat) (t : Team) : Nat × Nat × Nat × Nat :=
  let pad := 0x3000 + t.slots.length * slotBytes t
  let truss := pad + t.alloc
  let n := (((s.bay b).regions.filter (·.key == t.key)).flatMap Region.cells)
  let matrix := truss + (n.map fun c => cellBytes c.2).sum
  let len := matrix + (if t.mxe then 0x48880 else 0)
  (if t.alloc = 0 then 0 else pad, if n.isEmpty then 0 else truss, if t.mxe then matrix else 0, len)

/-- A team's save record (Table 16.8). -/
def teamPieces (s : State) (b : Nat) (t : Team) : Pieces :=
  let x := s.bay b
  let (pad, truss, matrix, len) := recordPlan s b t
  let packet := ((s.grid? t.key.gid).map (·.packet)).getD []
  let names := t.slots.length - 1 + (if t.mxe then 2 ^ 5 else 0) +
    (x.regions.filter (·.key == t.key)).length * 2 ^ 6 + t.mbox.toNat * 2 ^ 11 + b * 2 ^ 27
  [(0, [numWord len, numWord t.key.gid, numWord t.key.tid, fresh (clrank b t)] ++ packet),
   (0x90, [numWord names, numWord (names / 2 ^ 32)]),
   (0xA0, [numWord pad, numWord 0, numWord truss, numWord 0, numWord matrix, numWord 0]),
   (0x100, (List.range 16).flatMap fun k => doubleToks (handleOf t k))] ++
  kickPieces x t.key ++ mailboxPieces x t ++ slotPieces s b t ++
  (if pad = 0 then [] else [(pad, x.pad.words t.bspBase (t.alloc / 4))]) ++
  (if truss = 0 then [] else (trussPieces s b t truss).1) ++ (if matrix = 0 then [] else matrixPieces x t matrix)

/-- Pieces written at a physical address. -/
def writePieces (s : State) (p : Nat) (ps : Pieces) : State :=
  ps.foldl (fun (t : State) (q : Nat × List W40) => t.setHomeWords (.phys (p + q.1)) q.2) s

/-! ## Records of a saved team's agents (R378) -/

/-- The team of the agent that a record names; a record of the walker names it in its header only. -/
def recTeam (s : State) (r : Record) : Option TeamKey :=
  match r.agent with
  | .warp w | .copy _ w | .stream _ _ w => (s.warp? w).map (·.key)
  | .port p _ => ((s.bay p.bay).regionAt p.row 0).map (·.key)
  | .kingpost => none
  | .walker => some ⟨(agetD r.words 24 .zero).v.toNat, (agetD r.words 20 .zero).v.toNat⟩

/-- Every record of a team's agents that a save cancels. -/
def cancelTeam (s : State) (key : TeamKey) : State :=
  (s.recs.filter fun r => cancelKind r.kind && recTeam s r = some key).foldl cancelRecord s

/-! ## The model's copy of a saved team -/

/-- A bay that keeps of another only what belongs to a team. The matrix engine's holds are taken again when the team is
back (R184), and quiescence will need two fresh scans (R222). -/
def teamImage (b : Nat) (x : Bay) (key : TeamKey) : Bay :=
  let cells := (x.regions.filter (·.key == key)).flatMap Region.cells
  let free (c : StreamBind) : StreamBind := { c with stalled := none }
  let port (p : Port) : Port := { p with
    stalled := none
    inBind := p.inBind.map free
    outBind := p.outBind.map free }
  let copies := (x.copies.filter fun c => c.kick.key == key).map fun c => { c with stalled := none }
  let mine (h : LineHold) : Bool :=
    (h.engine = 1 && copies.any fun c => c.seq = h.seq) || (2 ≤ h.engine && cells.contains ((h.engine - 2) / 2, 0))
  { Bay.reset b with
    warps := x.warps.filter fun p => p.2.key == key
    teams := x.teams.filter (·.key == key)
    mx := if x.mx.owner = some key then x.mx else .reset
    kicks := x.kicks.filter (·.key == key)
    copies := copies
    elems := x.elems.filter fun p => cells.contains (p.1 / 8, p.1 % 8)
    ports := (x.ports.filter fun p => cells.contains (p.1, 0)).map fun (r, p) => (r, port p)
    regions := (x.regions.filter (·.key == key)).map fun g => { g with scan := none }
    holds := x.holds.filter mine }

/-- What of a bay does not belong to a team, its mailboxes kept. -/
def withoutTeam (x : Bay) (img : Bay) (key : TeamKey) : Bay :=
  { x with
    warps := x.warps.filter fun p => p.2.key != key
    teams := x.teams.filter (·.key != key)
    mx := if x.mx.owner = some key then .reset else x.mx
    kicks := x.kicks.filter (·.key != key)
    copies := x.copies.filter fun c => c.kick.key != key
    elems := x.elems.filter fun p => (aget img.elems p.1).isNone
    ports := x.ports.filter fun p => (aget img.ports p.1).isNone
    regions := x.regions.filter (·.key != key)
    holds := x.holds.filter fun h => !(img.holds.contains h || (h.engine = 0 && x.mx.owner = some key))
    tags := x.tags.filter fun v => v.warp.key != key }

/-- A team taken off its bay. Events that occur from now on are gathered in its copy (R148). -/
def takeOff (s : State) (b : Nat) (t : Team) : State :=
  let x := s.bay b
  let img := teamImage b x t.key
  let quietWarp (p : Nat × Warp) : Nat × Warp :=
    (p.1, { p.2 with evpend := 0, preempt := none, active := false, unbroken := false, demote := false, blk := none })
  let kept : SavedTeam := ⟨t.ctx, b, { img with warps := img.warps.map quietWarp }, { t with leaving := false }⟩
  ({ s with saved := s.saved ++ [kept] }.setBay b (withoutTeam x img t.key)).admission b

/-! ## Saving (R377, R379) -/

/-- A team's warps that have not retired are all parked. -/
def allParked (s : State) (b : Nat) (key : TeamKey) : Bool :=
  (s.warpsOf b key).all fun p => p.2.retired || p.2.park != .running

/-- A team that a save takes: with PARKED, one whose warps are all parked. -/
def savable (s : State) (c : Nat) (b : Nat) (t : Team) : Bool :=
  t.ctx = c && !t.retired && (!(s.ctx c).parkedOnly || allParked s b t.key)

/-- The resident teams of a context that a save takes. -/
def savableTeams (s : State) (c : Nat) : List (Nat × Team) :=
  s.bays.flatMap fun (b, x) => (x.teams.filter (savable s c b)).map fun t => (b, t)

/-- The warps of teams asked to stop at their next boundary (R51). -/
def stopTeams (s : State) (ts : List (Nat × Team)) : State :=
  s.mapWarps fun w x =>
    if ts.any fun p => p.1 = w.bay && p.2.key = x.key then { x with preempt := some (x.preempt.getD s.now) } else x

/-- A save leaves with teams, or gives them up (R377). -/
def markLeaving (s : State) (ts : List (Nat × Team)) (v : Bool) : State :=
  ts.foldl (fun (t : State) (p : Nat × Team) => t.modTeam p.1 p.2.key fun u => { u with leaving := v }) s

/-- CTX_SAVE (R377): placement of the context's teams and dispatch of their warps stop. -/
def execCtxSave (r : RegWrite) (s : State) : Outcome :=
  onReg s r (.ctxSave r) fun h =>
    match h.reg with
    | .saveCtl c =>
      let s1 := (putReg s h).modCtx c fun x => { x with done := false, full := false, saving := true }
      some (markLeaving (stopTeams s1 (savableTeams s1 c)) (savableTeams s1 c) true)
    | _ => none

/-- The teams of a context that a save has stopped. -/
def stoppedTeams (s : State) (c : Nat) : List (Nat × Team) :=
  s.bays.flatMap fun (b, x) => (x.teams.filter fun t => t.ctx = c && !t.retired && t.leaving).map fun t => (b, t)

/-- A stopped team is quiet: no block, no `LDSTAT` in progress (R184), and its stores and releases have been performed. -/
def teamQuiet (s : State) (b : Nat) (t : Team) : Bool :=
  let mine (w : WarpId) : Bool := w.bay = b && (s.warp? w).any fun x => x.key = t.key
  (s.warpsOf b t.key).all (fun p => p.2.blk.isNone) && !(s.merges.any fun m => mine m.warp) &&
    !((s.bay b).mx.owner = some t.key && (s.bay b).mx.cur.any (·.opc = 0x1B0)) &&
    !(s.reports.any fun h => mine h.warp) && !(s.vl.outs.any fun p => p.2.unacked.any fun q => mine q.warp)

/-- A range of device memory at an offset of the save area can be written. -/
def saveRoom (c : Ctx) (ofs len : Nat) : Bool :=
  ofs + len ≤ c.saveN && populated (c.saveB + ofs) && populated (c.saveB + ofs + len - 1)

/-- The next multiple of 4 KiB. -/
def pageUp (n : Nat) : Nat := (n + 4095) / 4096 * 4096

/-- The progress of a save: the state, the teams written, the end of the last record. -/
structure SaveRun where
  s : State
  count : Nat
  last : Nat

/-- A stopped team goes on where it stands: its warps may dispatch again. -/
def resumeTeam (s : State) (b : Nat) (key : TeamKey) : State :=
  let back (w : WarpId) (x : Warp) : Warp :=
    if w.bay = b && x.key = key then { x with preempt := none } else x
  mxNext ((s.mapWarps back).admission b) b

/-- One team written and taken off its bay, or left resident with FULL set. -/
def saveOne (c : Nat) (a : SaveRun) (p : Nat × Team) : SaveRun :=
  let (b, t) := p
  let cx := a.s.ctx c
  let ofs := pageUp a.last
  let len := (recordPlan a.s b t).2.2.2
  if saveRoom cx ofs len && 0x40 + 16 * (a.count + 1) ≤ 0x19000 then
    let s0 : State := { a.s with mem := a.s.mem.clear (cx.saveB + ofs) (cx.saveB + ofs + len) }
    let s1 := writePieces s0 (cx.saveB + ofs) (teamPieces a.s b t)
    let s2 := writePieces s1 (cx.saveB + 0x40 + 16 * a.count)
      [(0, [numWord ofs, numWord 0, numWord t.key.gid, numWord t.key.tid])]
    ⟨takeOff ((cancelTeam s2 t.key).cleanAll b) b t, a.count + 1, ofs + len⟩
  else
    let s1 := (markLeaving a.s [p] false).modCtx c fun x => { x with full := true }
    ⟨if (a.s.bay b).closed then s1 else resumeTeam s1 b t.key, a.count, a.last⟩

/-- CTX_SAVE_DONE (R377, R379): every stopped team is quiet, so each is written in turn, the directory last, and DONE
becomes 1. -/
def execCtxSaveDone (ctx : Nat) (s : State) : Outcome :=
  let ts := stoppedTeams s ctx
  if !(s.ctx ctx).saving || ts.any fun p => !teamQuiet s p.1 p.2 then .fault .notEnabled
  else
    let a := ts.foldl (saveOne ctx) ⟨s, 0, 0x19000⟩
    let c := a.s.ctx ctx
    let s1 := if saveRoom c 0 8 then writePieces a.s c.saveB [(0, [numWord a.count, numWord a.last])] else a.s
    .next (s1.modCtx ctx fun x =>
      { x with done := true, saving := false, known := (s1.saved.filter (·.ctx = ctx)).map (·.team.key) })

end Sys2Proof.Machine
end

