-- ==== Sys2Proof/Machine/Move.lean ====
section
/-! DEFINITION. Moving a stopped context to another stepping: the conversion of a saved warp and of a binding table
(spec/14_farfoec_translation.md R347). The runtime does it on the save area between the save and the restore; the model
does it where CTX_RESTORE takes in what another module saved (notes/assumptions/36.md). -/

namespace Sys2Proof.Machine

/-- The home of a double that the runtime reads or writes in a context. -/
def farLoc (s : State) (ctx : Nat) (va : Double) : Option Loc :=
  if !canonical va || va.toNat % 8 != 0 then none
  else match s.translate ctx va ⟨0, false⟩ with | .ok l => some l | .error _ => none

/-- `fix` of R347: the target's address of a safe point of the source, none when a map is missing. -/
def fixAddr (src dst : List MapRecord) (a : Double) : Option Double :=
  (src.find? (·.addr == a)).bind fun m =>
    (dst.find? fun d => if m.vb = 0xFFFF then d.vb = 0xFFFF && d.rblk = m.rblk else d.vb = m.vb && d.hnd = m.hnd).map (·.addr)

/-- Where a saved warp's words lie: its state and lane registers, its lane-private words, its spilled stack entries, its
half and lanes. -/
structure SavedPlace where
  state : Nat
  regs : Nat
  lps : Nat
  spill : Nat
  half : Nat
  lanes : Nat
  deriving DecidableEq, Repr

/-- The address of a map entry's word for a lane (Tables 14.9, 16.8, R230). -/
def SavedPlace.word (p : SavedPlace) (e : MapEntry) (lane : Nat) : Nat :=
  (if e.kind = 0 then p.regs + 256 * e.loc else p.lps + 256 * e.loc) + 128 * p.half + 4 * lane

/-- The word of a virtual register in a lane of a saved warp, none where the map names no place for it. -/
def virtualWord (m : Memory) (p : SavedPlace) (r : MapRecord) (x lane : Nat) : Option W40 :=
  (r.entries.find? fun e => e.xreg = x).map fun e => m.word (p.word e lane)

/-- Every live virtual register moved to its place under the target's map, its code unchanged; one that the target does
not name is dropped. All places are read before any is written. -/
def moveVirtual (m : Memory) (p : SavedPlace) (src dst : MapRecord) : Memory :=
  let moves := dst.entries.flatMap fun e => (List.range p.lanes).filterMap fun l =>
    (virtualWord m p src e.xreg l).map fun w => (p.word e l, w)
  moves.foldl (fun (n : Memory) (q : Nat × W40) => n.setWord q.1 q.2) m

/-- A double at an address rewritten by `fix`, its low three bits kept; none when it has no map. -/
def fixAt (src dst : List MapRecord) (m : Memory) (a : Nat) : Option Memory :=
  let d := doubleAt (m.words a 2) 0
  (fixAddr src dst (d &&& ~~~(7 : Double))).map fun v => m.setWords a (doubleToks (v ||| (d &&& 7)))

/-- `convert` of R347 on a saved warp: live registers, the next address, every address of the split stack, the region
entry and the bindings, the binding table's base in `w8:9`, and no check record. None when an address is that of no safe
point, which a stopped warp's never is (R343). -/
def convertWarp (src dst : List MapRecord) (table : Double) (p : SavedPlace) (m : Memory) : Option Memory :=
  let ws := m.words p.state 128
  let depth := wordAt ws 12
  let next := doubleAt ws 0
  (src.find? (·.addr == next)).bind fun a => (fixAddr src dst next).bind fun n => (dst.find? (·.addr == n)).bind fun b =>
    let m1 := (moveVirtual m p a b).setWords p.state (doubleToks n)
    let stack := (List.range (bitsOf depth 15 8)).map fun i => p.state + 0x200 + 32 * i
    let spilled := (List.range (bitsOf depth 31 16)).map fun i => p.spill + 32 * i
    let region := if doubleAt ws 8 = 0 then [] else [p.state + 0x20]
    let binds := ((List.range 16).filter fun k => bitsOf (wordAt (m.words (p.state + 0x100 + 16 * k) 4) 2) 7 0 != 0xFF).map
      fun k => p.state + 0x100 + 16 * k
    let m2 := (stack ++ spilled ++ region ++ binds).foldl (fun (o : Option Memory) q => o.bind fun n => fixAt src dst n q)
      (some m1)
    m2.map fun n => (n.setWords (p.state + 0x420) (doubleToks table)).setWords (p.state + 0x38) (checkWords none)

/-- The translation of another stepping whose binding table a saved warp names in `w8:9`. -/
def sourceTable (s : State) (ctx : Nat) (m : Memory) (p : SavedPlace) : Option FarTable :=
  s.bindings.find? fun b => b.ctx = ctx && b.step != devTag && b.table = doubleAt (m.words (p.state + 0x420) 2) 0

/-- The translations that this stepping has for a context. -/
def ownTables (s : State) (ctx : Nat) : List FarTable := s.bindings.filter fun b => b.ctx = ctx && b.step = devTag

/-- A saved warp of a source translation converted for the first own translation that has its blocks; any other warp as it
is. None while no own translation has them. -/
def convertSaved (s : State) (ctx : Nat) (m : Memory) (p : SavedPlace) : Option Memory :=
  match sourceTable s ctx m p with
  | none => some m
  | some b => (ownTables s ctx).findSome? fun d => convertWarp b.maps d.maps d.table p m

/-- The state of a binding word (Table 14.6), none where it cannot be read. -/
def bindingState (s : State) (ctx : Nat) (table : Double) (typ : Nat) : Option Nat :=
  (farLoc s ctx (table + BitVec.ofNat 64 (8 * typ))).map fun l => bitsOf (s.homeWord l).v 2 0

/-- The binding words that are translating in a source table written as unbound in the own tables (R347); a word that is
bound there already stays (notes/assumptions/35.md). -/
def convertTables (s : State) (ctx : Nat) : State :=
  let moved := (List.range 4096).filter fun t => (s.bindings.filter fun b => b.ctx = ctx && b.step != devTag).any fun b =>
    bindingState s ctx b.table t = some 1
  (ownTables s ctx).foldl (fun (a : State) d => moved.foldl (fun (u : State) t =>
    match farLoc u ctx (d.table + BitVec.ofNat 64 (8 * t)) with
    | some l => if bindingState u ctx d.table t = some 2 then u else u.setHomeWords l (doubleToks 0)
    | none => u) a) s

end Sys2Proof.Machine
end

