-- ==== Sys2Proof/Machine/Restore.lean ====
section
/-! DEFINITION. Restoring a saved context: where its teams go, what their records hold, and the adoption of teams that
another module saved (spec/16_faults_translation_preemption.md R377 to R379, spec/02_execution_model.md R52,
spec/14_farfoec_translation.md R347). -/

namespace Sys2Proof.Machine

/-! ## Where a saved team goes (R52, R219) -/

/-- Where a team was and where it is placed again: bays, slots, scratchpad allocation, origins of its regions. -/
structure TeamMove where
  key : TeamKey
  src : Nat
  dst : Nat
  slots : List (Nat × Nat)
  lo : Nat
  size : Nat
  base : Nat
  regions : List (Region × Nat × Nat)
  deriving DecidableEq, Repr

/-- A warp's name after a move. -/
def movedWarp (m : TeamMove) (w : WarpId) : WarpId :=
  match m.slots.find? (·.1 == w.slot) with
  | some (_, n) => ⟨m.dst, n, w.half⟩
  | none => w

/-- A location after moves; scratchpad words of the moved allocations lie elsewhere. The unit is 1 for bytes, 128 for
lines. -/
def movedLoc (ms : List TeamMove) (unit : Nat) (l : Loc) : Loc :=
  match l with
  | .pad b o =>
    match ms.find? fun m => m.src = b && m.lo ≤ o * unit && o * unit < m.lo + m.size with
    | some m => .pad m.dst (o - m.lo / unit + m.base / unit)
    | none => l
  | _ => l

/-- An element's place after a move. -/
def movedCell (m : TeamMove) (row col : Nat) : Nat × Nat :=
  match m.regions.find? fun g => g.1.cells.contains (row, col) with
  | some (g, r, c) => (row - g.row + r, col - g.col + c)
  | none => (row, col)

/-- A map rewritten key by key. -/
def rekey {α : Type} (f : Nat → Nat) (m : Assoc α) : Assoc α :=
  m.foldl (fun (n : Assoc α) (p : Nat × α) => aset n (f p.1) p.2) []

/-- An element after a move: its routes follow the new origin (R219). -/
def movedElem (m : TeamMove) (e : Elem) : Elem :=
  { e with routes := e.routes.map fun (k, r) =>
      let (row, col) := movedCell m r.row r.col
      (k, ⟨row, col, r.inp⟩) }

/-- A hold after moves; a stream's engine number follows its port's row. -/
def movedHold (m : TeamMove) (h : LineHold) : LineHold :=
  { h with
    loc := movedLoc [m] 128 h.loc
    engine := if h.engine < 2 then h.engine else 2 + 2 * (movedCell m ((h.engine - 2) / 2) 0).1 + (h.engine - 2) % 2 }

/-- The engines, elements, ports and regions of a copy, as they stand at the new place. -/
def movedImage (m : TeamMove) (x : Bay) : Bay :=
  let kick (k : CopyKick) : CopyKick := { k with warp := movedWarp m k.warp }
  let cmd (c : MxCmd) : MxCmd := { c with warp := movedWarp m c.warp }
  let bind (c : StreamBind) : StreamBind := { c with warp := movedWarp m c.warp }
  let port (p : Port) : Port := { p with inBind := p.inBind.map bind, outBind := p.outBind.map bind }
  let load (l : ImageLoad) : ImageLoad := { l with warp := movedWarp m l.warp }
  let packet (p : CfgPacket) : CfgPacket :=
    let (r, c) := movedCell m p.row p.col
    { p with row := r, col := c }
  let region (g : Region) : Region :=
    let (r, c) := movedCell m g.row g.col
    { g with row := r, col := c, loads := g.loads.map load, packets := g.packets.map packet }
  { x with
    mx := { x.mx with queue := x.mx.queue.map cmd, cur := x.mx.cur.map cmd }
    kicks := x.kicks.map kick
    copies := x.copies.map fun c => { c with kick := kick c.kick }
    elems := rekey (fun k => (movedCell m (k / 8) (k % 8)).1 * 8 + (movedCell m (k / 8) (k % 8)).2)
      (x.elems.map fun (k, e) => (k, movedElem m e))
    ports := rekey (fun r => (movedCell m r 0).1) (x.ports.map fun (r, p) => (r, port p))
    regions := x.regions.map region
    holds := x.holds.map (movedHold m) }

/-- A bay as a saved team's placement sees it: its own mailboxes are free to it (R378). -/
def ownBoxesFree (x : Bay) (key : TeamKey) : Bay :=
  { x with mbox := x.mbox.map fun (k, b) => (k, if b.owner = some key then { b with owner := none } else b) }

/-- The shapes of a team's regions in declaration order. -/
def regionShapes (v : SavedTeam) : List (Nat × Nat × BitVec 2) := v.image.regions.map fun g => (g.h, g.w, g.pat)

/-- What a saved team needs of a bay. -/
def savedNeed (v : SavedTeam) (packet : List W40) : Need2 :=
  { packetNeed packet with shapes := regionShapes v }

/-- The move of a saved team to a bay, when the bay can hold it (R30, R52); a team with mailboxes goes back to its bay
(R378). -/
def moveTo (s : State) (v : SavedTeam) (dst : Nat) : Option TeamMove :=
  let t := v.team
  let x := s.bay dst
  let n := savedNeed v (((s.grid? t.key.gid).map (·.packet)).getD [])
  if (t.mbox != 0 && dst != v.bay) || !(ownBoxesFree x t.key).takes n then none
  else
    match packRegions n.shapes (x.regions.flatMap Region.cells) with
    | none => none
    | some at' =>
      some ⟨t.key, v.bay, dst, t.slots.zip (assignSlots x.freeSlots (bestWindow x.freeSlots) n.slots), t.bspBase, t.alloc,
        padBase x t.alloc, (v.image.regions.zip at').map fun (g, r, c) => (g, r, c)⟩

/-! ## Restoring (R377, R379, R148) -/

/-- Words of a record in memory. -/
def savedWords (s : State) (p n : Nat) : List W40 := s.mem.words p n

/-- The split-stack entries at an offset of a record, top first. -/
def savedStack (s : State) (p n : Nat) : List StackEntry :=
  ((List.range n).map fun i => entryOf (savedWords s (p + 32 * i) 8)).reverse

/-- The address that a group waiting on the stack has after its entry was rewritten (R347). -/
def newAddr (old new : List StackEntry) (a : Double) : Double :=
  match (old.zip new).find? fun p => p.1.addr = a with
  | some p => p.2.addr
  | none => a

/-- The binding of an event slot as a record holds it. -/
def savedBind (s : State) (p : Nat) (old : Option EventBind) : Option EventBind :=
  let ws := savedWords s p 4
  let kind := bitsOf (wordAt ws 2) 7 0
  if kind = 0xFF then none
  else some ⟨kind, bitsOf (wordAt ws 2) 31 8, doubleAt ws 0, wordAt ws 3, old.bind (·.loc)⟩

/-- The check record of a warp (R258), none when its count is 0. -/
def savedIdent (ws : List W40) : Option WordIdent :=
  let n := (wordAt ws 14).toNat
  let i := (wordAt ws 15).toNat
  if !(wordAt ws 18).getLsbD 0 then none
  else if wordAt ws 17 = 0 then some (.mem (wordAt ws 16).toNat (n + i * 2 ^ 32))
  else if wordAt ws 17 = 1 then some (.lane n i)
  else if wordAt ws 17 = 2 then some (.uniform n i)
  else some .engine

/-- A warp as its record says (Table 16.9); what the record does not lay out is the model's copy. -/
def savedWarp (s : State) (p regs : Nat) (half : Nat) (x : Warp) : Warp :=
  let ws := savedWords s p 128
  let depth := wordAt ws 12
  let old := x.stack
  let new := savedStack s (p + 0x200) (bitsOf depth 15 8)
  let pc := doubleAt ws 0
  let mask := doubleAt ws 2
  let ev := wordAt ws 6
  let ls := wordAt ws 7
  let binds := (List.range 16).foldl (fun (m : Assoc EventBind) k =>
    match savedBind s (p + 0x100 + 16 * k) (aget x.binds k) with
    | some e => aset m k e
    | none => m) []
  let regBase := p - 0x800 * half + 0x1000
  { x with
    pc := pc
    mask := mask
    mode := wordAt ws 4
    evpend := ev.extractLsb' 0 16 ||| x.evpend
    evmask := ev.extractLsb' 16 16
    leaseDecl := bitsOf ls 7 0
    leaseMeas := bitsOf ls 15 8
    measured := ls.getLsbD 16
    region := if doubleAt ws 8 = 0 then none else some ⟨doubleAt ws 8, doubleAt ws 10, bitsOf depth 7 0⟩
    check := savedIdent ws
    binds := binds
    stack := new
    spilled := bitsOf depth 31 16
    acts := x.acts.map fun g => { g with addr := newAddr old new g.addr }
    uregs := (List.range 64).foldl (fun m k => aput m k .zero (s.mem.word (p + 0x400 + 4 * k))) []
    regs := (List.range regs).foldl (fun (m : Assoc W40) k => (List.range x.lanes).foldl (fun (m : Assoc W40) l =>
      aput m (k * 64 + l) .zero (s.mem.word (regBase + 256 * k + 128 * half + 4 * l))) m) []
    park := match x.park with
      | .service n (some g) => .service n (some { g with addr := pc, mask := mask })
      | .waitAny _ m => .waitAny ((wordAt ws 24).extractLsb' 16 16) m
      | .waitAddr l _ sp _ _ m => .waitAddr l (doubleAt ws 26) sp (wordAt ws 28) pc m
      | k => k
    woken := true
    stamp := s.now }

/-- Consecutive words of a part of a record, by number. -/
def savedMap (m : Memory) (p n : Nat) : Assoc W40 :=
  (List.range n).foldl (fun (a : Assoc W40) i => aput a i .zero (m.word (p + 4 * i))) []

/-- Tokens of a part of a record. -/
def savedTokens (m : Memory) (p n : Nat) : List TTok :=
  (List.range n).map fun i => ⟨m.word (p + 8 * i), (m.word (p + 8 * i + 4)).v.setWidth 2⟩

/-- Four token lists as a record holds them, their lengths given. -/
def savedQueues (m : Memory) (p : Nat) (len : Nat → Nat) : Assoc (List TTok) :=
  (List.range 4).foldl (fun (a : Assoc (List TTok)) i => aput a i [] (savedTokens m (p + 32 * i) (len i))) []

/-- The i-th of four counts of three bits that start at a bit. -/
def savedCount (w : Word) (lo i : Nat) : Nat := bitsOf w (lo + 3 * i + 2) (lo + 3 * i)

/-- The routes of an element of a region whose origin is given. -/
def savedRoutes (m : Memory) (p row col : Nat) : Assoc Route :=
  (List.range 4).filterMap fun i =>
    let w := (m.word (p + 4 * i)).v
    if w.getLsbD 31 then some (i, ⟨row + bitsOf w 2 0, col + bitsOf w 5 3, bitsOf w 7 6⟩) else none

/-- A compute or memory element as its part says (Table 16.8), in a region with an origin. -/
def savedElem (m : Memory) (p col : Nat) (origin : Nat × Nat) : Elem :=
  let ctl := (m.word (p + 0x220)).v
  let more := (m.word (p + 0x224)).v
  { started := more.getLsbD 12
    preds := ctl.setWidth 8
    locals := savedMap m (p + 0x200) 4
    queues := savedQueues m (p + 0x180) fun i => min 4 (savedCount ctl 10 i)
    flight := savedQueues m (p + 0x228) fun i => min 4 (savedCount more 0 i)
    routes := savedRoutes m (p + 0x2A8) origin.1 origin.2
    planes := savedMap m p 96
    act := ctl.getLsbD 8
    pref := if ctl.getLsbD 9 then 2 else if bitsOf more 14 13 = 2 then 0 else bitsOf more 14 13
    sram := if col = 7 then savedMap m (p + 0x400) 1024 else []
    glitch := more.getLsbD 15 }

/-- A port's queues as its part says. -/
def savedPortElem (m : Memory) (p : Nat) (origin : Nat × Nat) : Elem :=
  let counts := (m.word (p + 0x1C0)).v
  { Elem.reset with
    started := (m.word (p + 0x2C)).v.getLsbD 31
    queues := savedQueues m (p + 0x140) fun i => min 4 (savedCount counts 0 i)
    flight := savedQueues m (p + 0xC0) fun i => min 4 (savedCount counts 12 i)
    routes := savedRoutes m (p + 0x1D0) origin.1 origin.2 }

/-- A port as its part says; its stream bindings are the model's copy. -/
def savedPort (m : Memory) (p : Nat) (x : Port) : Port :=
  let c := (m.word (p + 0x2C)).v
  let req (i : Nat) : PortReq :=
    let w := m.word (p + 0x40 + 8 * i)
    let tag := (m.word (p + 0x44 + 8 * i)).v
    if tag.getLsbD 2 then ⟨0, some ⟨w, tag.setWidth 2⟩⟩ else ⟨w.v, none⟩
  { x with
    cfg := savedMap m p 8
    reqs := (List.range (min 16 (bitsOf c 4 0))).map req
    stalled := none
    exports := savedTokens m (p + 0x200) (bitsOf c 15 5)
    retMark := if c.getLsbD 30 then (savedTokens m (p + 0x1C4) 1).head? else none
    retToks := savedTokens m (p + 0x2400) (bitsOf c 25 16)
    sinkWait := c.getLsbD 26
    sinkKick := c.getLsbD 27
    sinkStop := c.getLsbD 28
    endOut := c.getLsbD 29 }

/-- A region with the status that its first cell's part holds. -/
def savedRegion (m : Memory) (p : Nat) (g : Region) : Region :=
  let w (i : Nat) : Word := (m.word (p + 4 * i)).v
  { g with
    loaded := (w 0).getLsbD 0
    running := (w 0).getLsbD 1
    quiet := (w 0).getLsbD 2
    faulted := (w 0).getLsbD 3
    image := if (w 0).getLsbD 4 then some (w 1).toNat else none
    errs := (w 2).toNat
    fires := (w 3).toNat }

/-- The truss part of a record put into the elements, ports and regions of a bay that has the regions where they stood. -/
def savedTruss (m : Memory) (p : Nat) (img : Bay) : Bay :=
  ((cellsOf img.regions).foldl (fun (a : Bay × Nat) (q : Region × Nat × Nat) =>
    let (g, row, col) := q
    let origin := (g.row, g.col)
    let part := m.slice a.2 (a.2 + cellBytes col)
    let b := if col = 0 then
        (a.1.modPort row (savedPort part a.2)).modElem row 0 fun _ => savedPortElem part a.2 origin
      else a.1.modElem row col fun _ => savedElem part a.2 col origin
    let status (h : Region) : Region :=
      if h = g && row = g.row && col = g.col then savedRegion part (a.2 + (if col = 0 then 0x30 else 0x2F0)) h else h
    let c : Bay := { b with regions := b.regions.map status }
    (c, a.2 + cellBytes col)) (img, p)).1

/-- The tiles' elements that are not zero as a record holds them: 16 bytes each, the bytes rising. -/
def savedAcc (m : Memory) (p : Nat) : Assoc (BitVec 128) :=
  ((m.slice p (p + 0x40000)).bytes.foldl (fun (a : Assoc (BitVec 128)) (q : Host.Cell) =>
    let k := (q.1 - p) / 16
    let v : BitVec 128 := (q.2 : Byte).setWidth 128 <<< (8 * ((q.1 - p) % 16))
    match a with
    | (j, u) :: r => if j = k then (j, u ||| v) :: r else (k, v) :: a
    | [] => [(k, v)]) []).reverse

/-- A plane as its part says. -/
def savedPlane (m : Memory) (p : Nat) : MxPlane :=
  let ctl := (m.word (p + 0x2000)).v
  let fmt := bitsOf ctl 7 0
  let kind := bitsOf ctl 11 8
  let words := savedMap (m.slice p (p + 0x2000)) p 2048
  if !ctl.getLsbD 16 then { MxPlane.reset with words := words }
  else
    { loaded := true
      fmt := fmt
      kind := kind
      words := words
      scales := (List.range 128).map fun k =>
        (k, bytesOf (scaleSetBytes fmt kind) (tokVal (m.words (p + 0x2400 + 16 * k) 4)))
      bands := [0, 1].map fun i => (m.word (p + 0x2040 + 4 * i)).v.setWidth 16
      csum := (List.range (512 / procWidth fmt)).map fun k => csumOf (m.words (p + 0x2C00 + 40 * k) 10) }

/-- A matrix command as its part says; its number is given when it takes its holds again. -/
def savedCmd (m : Memory) (mv : TeamMove) (p : Nat) : MxCmd :=
  let ws := m.words p 16
  let opc := bitsOf (wordAt ws 0) 8 0
  let who := bitsOf (wordAt ws 14) 15 0
  let slot := ((mv.slots[who / 2]?).map (·.2)).getD 0
  { warp := ⟨mv.dst, slot, who % 2⟩
    key := mv.key
    opc := opc
    f := ⟨0, BitVec.ofNat 5 (bitsOf (wordAt ws 0) 20 16), 0, 0, BitVec.ofNat 8 (bitsOf (wordAt ws 0) 31 24),
      (wordAt ws 5).setWidth 24⟩
    a := wordAt ws 1
    b := wordAt ws 2
    c := wordAt ws 3
    mode := wordAt ws 4
    record := if opc = 0x1B0 || opc = 0x1B2 then (ws.drop 6).take 8 else []
    outside := (wordAt ws 14).getLsbD 16
    seq := 0 }

/-- The matrix part of a record: tiles, planes, the interrupted command and the queue. -/
def savedMatrix (m : Memory) (mv : TeamMove) (p : Nat) : Matrix :=
  let ctl (i : Nat) : Word := (m.word (p + 0x48000 + 4 * i)).v
  { owner := some mv.key
    acc := savedAcc m p
    pa := savedPlane m (p + 0x40000)
    pb := savedPlane m (p + 0x44000)
    act := (ctl 0).getLsbD 0
    queue := (List.range (min 32 (bitsOf (ctl 2) 15 8))).map fun i => savedCmd m mv (p + 0x48080 + 64 * i)
    cur := if (ctl 2).getLsbD 0 then some (savedCmd m mv (p + 0x48040)) else none
    rows := (ctl 1).toNat
    err := (ctl 3).getLsbD 0
    cause := bitsOf (ctl 3) 15 8 }

/-- The kick queue as its part says (Table 16.8 at 0x0180); the table has 64 entries, and what it does not lay out is the
model's copy. -/
def savedKicks (m : Memory) (p : Nat) (x : Bay) : Bay :=
  let at' (i : Nat) (k : CopyKick) : CopyKick := if i < 64 then { k with ofs := (m.word (p + 16 * i)).v.toNat } else k
  let moved (i : Nat) (n : Nat) : Nat := if i < 64 then (m.word (p + 16 * i + 4)).v.toNat else n
  { x with
    copies := x.copies.zipIdx.map fun (c, i) => { c with kick := at' i c.kick, moved := moved i c.moved }
    kicks := x.kicks.zipIdx.map fun (k, i) => at' (x.copies.length + i) k }

/-- The engines of a saved team as its record holds them. -/
def savedEngines (s : State) (mv : TeamMove) (v : SavedTeam) (p : Nat) : Bay :=
  let truss := (s.mem.word (p + 0xA8)).v.toNat
  let matrix := (s.mem.word (p + 0xB0)).v.toNat
  let there := if truss = 0 then v.image else savedTruss s.mem (p + truss) v.image
  let b := savedKicks s.mem (p + 0x180) (movedImage mv there)
  if matrix = 0 then b else { b with mx := savedMatrix s.mem mv (p + matrix) }

/-- The commands of a bay's matrix engine take their holds again, the interrupted one first (R184). -/
def retakeHolds (s : State) (bay : Nat) : State :=
  let m := (s.bay bay).mx
  let cs := m.cur.toList ++ m.queue
  let num (i : Nat) (c : MxCmd) : MxCmd := { c with seq := s.holdSeq + i }
  let cur := m.cur.map (num 0)
  let queue := m.queue.zipIdx.map fun (c, i) => num (cs.length - m.queue.length + i) c
  let s1 : State := { s with holdSeq := s.holdSeq + cs.length }
  let s2 := s1.modBay bay fun y => { y with mx := { y.mx with cur := cur, queue := queue } }
  (cur.toList.map (·, m.rows) ++ queue.map (·, 0)).foldl (fun (t : State) (p : MxCmd × Nat) =>
    t.takeHolds bay 0 p.1.seq ((cmdLines t bay p.1 p.2).map fun l => (p.1.opc == 0x1B4, l))) s2

/-- The hardware messages of mailbox k as a record holds them (Table 16.8). -/
def savedMessages (m : Memory) (p k : Nat) : List Tok :=
  (List.range (min 32 (m.word (p + 0xC0 + 4 * k)).v.toNat)).map fun i => m.words (p + 0x600 + 512 * k + 16 * i) 4

/-- The hardware messages of a team's mailboxes as its record holds them, in boxes that the bay has kept for it (R378). -/
def savedBoxes (m : Memory) (p : Nat) (key : TeamKey) (boxes : Assoc Mailbox) : Assoc Mailbox :=
  boxes.map fun (k, b) =>
    if b.owner = some key then
      (k, { b with msgs := savedMessages m p k })
    else (k, b)

/-- A saved team placed at its move from its record at a physical address. -/
def putBack (s : State) (m : TeamMove) (v : SavedTeam) (p : Nat) : State :=
  let t := v.team
  let x := s.bay m.dst
  let img := savedEngines s m v p
  let slots := m.slots.map (·.2)
  let ofs := (s.mem.word (p + 0xA0)).v.toNat
  let size := slotBytes t
  let handles := (List.range 16).foldl (fun (nb : Assoc Double) k =>
    aput nb k 0 (doubleAt (savedWords s (p + 0x100 + 8 * k) 2) 0)) []
  let team : Team := { t with
    slots := slots
    bspBase := m.base
    lpsBase := m.base + t.bsp
    splBase := m.base + (t.splBase - t.bspBase)
    nb := handles }
  let warps := ((m.slots.zipIdx).flatMap fun ((old, new), i) => [0, 1].flatMap fun h =>
    match aget v.image.warps (old * 2 + h) with
    | none => []
    | some y =>
      let z := savedWarp s (p + 0x3000 + i * size + 0x800 * h) t.regs h y
      [(new * 2 + h, { z with regBase := Config.regBase (s.free + i) })])
  let pad := if ofs = 0 then x.pad
    else (x.pad.clear m.base (m.base + t.alloc)).setWords m.base (savedWords s (p + ofs) (t.alloc / 4))
  let y : Bay := { clearCells x (img.regions.flatMap Region.cells) with
    pad := pad
    teams := x.teams ++ [team]
    warps := warps.foldl (fun (a : Assoc Warp) (q : Nat × Warp) => aset a q.1 q.2) x.warps
    kicks := x.kicks ++ img.kicks
    copies := x.copies ++ img.copies
    mbox := savedBoxes s.mem p t.key x.mbox
    regions := x.regions ++ img.regions
    holds := x.holds ++ img.holds
    mx := if t.mxe then img.mx else x.mx }
  let z : Bay := { y with
    elems := img.elems.foldl (fun (a : Assoc Elem) (q : Nat × Elem) => aset a q.1 q.2) y.elems
    ports := img.ports.foldl (fun (a : Assoc Port) (q : Nat × Port) => aset a q.1 q.2) y.ports }
  let s1 : State := { s with
    free := s.free + slots.length
    saved := s.saved.filter fun u => u.team.key != t.key }
  let s2 := (s1.setBay m.dst z).acquire m.dst 4
  if t.mxe then retakeHolds s2 m.dst else s2

/-- Locations in a warp that name scratchpad words which have moved. -/
def moveWarpLocs (ms : List TeamMove) (x : Warp) : Warp :=
  { x with
    rdset := x.rdset.map (movedLoc ms 1)
    binds := x.binds.map fun (k, e) => (k, { e with loc := e.loc.map (movedLoc ms 1) })
    park := match x.park with
      | .waitAddr l va sp v target m => .waitAddr (movedLoc ms 1 l) va sp v target m
      | k => k }

/-- A resumed warp's event slots (R148): levels follow the mailboxes, and a `.bar` slot is set whenever GEN has
changed. -/
def resumeEvents (s : State) (w : WarpId) : State :=
  let s1 := s.modWarp w fun y => markEvents y fun e =>
    (barBindLoc s w y e).isSome && (bindGen s w y e).v != e.gen
  match s1.warp? w with
  | some x => levelsAgain s1 w x
  | none => s1

/-- A resumed warp takes what was decided while it was saved: a record that is no longer pending counts as served
(R378), a safe point that was released lets it go on, and a running one has its block to fetch (R71) and a stop to
deliver (R380). -/
def resumeWarp (s : State) (w : WarpId) : State :=
  match s.warp? w with
  | none => s
  | some x =>
    let named (n : Nat) : State :=
      { s with recs := s.recs.map fun r => if r.num = n then { r with agent := .warp w } else r }
    match x.park with
    | .service n _ =>
      if s.recs.any (·.num == n) then named n
      else serveAgent s ⟨n, 0, 0x01, .warp w, [], none⟩ 0 0
    | .running =>
      ((match x.stepRec with | some n => named n | none => s).fetchNext w).settle w
    | .safePoint => if (s.ctx (s.ctxOf w)).safeReq then s else (s.wakeWarp w).settle w
    | _ => match x.stepRec with | some n => named n | none => s

/-- The resident members of a cluster whose saved members have all resumed go on, where a retirement had left them stopped
(R404); one that a save or a retirement in progress stops stays stopped (R377, R403). -/
def freeCluster (s : State) (t : Team) : State :=
  if !t.clustered || clusterSaved s t then s
  else
    (clusterMembers s t).foldl (fun (u : State) (p : Nat × Team) =>
      if p.2.retired || p.2.leaving || (u.bay p.1).closed then u else resumeTeam u p.1 p.2.key) s

/-- Teams that resume together put back: a single team, or the saved members of a cluster. Their requests
and bindings resume, and hold every line that they still have to reach and that translates (R247). -/
def resumeGroup (s : State) (ps : List (TeamMove × SavedTeam × Nat)) : State :=
  let ms := ps.map (·.1)
  let s1 := ps.foldl (fun (t : State) (q : TeamMove × SavedTeam × Nat) => putBack t q.1 q.2.1 q.2.2) s
  let first (k : TeamKey) : Bool := ms.any fun m => m.key.gid = k.gid
  let s2 := s1.mapWarps fun _ x => if first x.key then moveWarpLocs ms x else x
  let ws := ps.flatMap fun q => (s2.warpsOf q.1.dst q.1.key).map (·.1)
  let s3 := ws.foldl resumeEvents s2
  let s4 := ws.foldl resumeWarp s3
  let s5 := ms.foldl (fun (t : State) (m : TeamMove) => mxNext ((t.admission m.dst).rehold m.dst fun k _ => k = m.key) m.dst) s4
  ps.foldl (fun (t : State) (q : TeamMove × SavedTeam × Nat) => freeCluster t q.2.1.team) s5

/-- The moves of saved teams to bays of a list, each in turn to the first that can hold it beside those placed before;
the flag of a state only serves to see what is then still free. -/
def planGroup (s : State) (bays : List Nat) : List (SavedTeam × Nat) → Option (List (TeamMove × SavedTeam × Nat))
  | [] => some []
  | (v, p) :: r =>
    bays.findSome? fun b =>
      match moveTo s v b with
      | none => none
      | some m => (planGroup (putBack s m v p) bays r).map fun l => (m, v, p) :: l

/-- The bays of every logical number, the one with the most free slots first. -/
def baysByRoom (s : State) : List Nat :=
  (List.range 33).reverse.flatMap fun n => (List.range Config.bays).filter fun b => (s.bay b).freeSlots.length = n

/-- The bents where a cluster may resume: the one where its other members stay, or any (R52). -/
def clusterBents (s : State) (t : Team) : List Nat :=
  match clusterMembers s t with
  | (b, _) :: _ => [b / 4]
  | [] => bentOrder s

/-- Saved teams that resume together, where they can: a reserved bay is kept for its team, which is its grid's next and
no saved one (R263). -/
def tryGroup (s : State) (g : List (SavedTeam × Nat)) : Option State :=
  match g with
  | [] => none
  | (v, _) :: _ =>
    let mine (b : Nat) : Bool := bayAllowed s b none
    if v.team.clustered then
      (clusterBents s v.team).findSome? fun bent =>
        (planGroup s (((List.range 4).map fun i => 4 * bent + i).filter mine) g).map (resumeGroup s)
    else (planGroup s ((baysByRoom s).filter mine) g).map (resumeGroup s)

/-! ## Teams that another module saved (R347, R377) -/

/-- What a warp that this module does not know waits for, by the park code of its record (Table 16.9). A record of its
own that was pending is not here, and the warp goes on as if served (R378). -/
def adoptedPark (s : State) (ctx : Nat) (ws : List W40) : Park :=
  let wait := wordAt ws 24
  let va := doubleAt ws 26
  if bitsOf wait 2 0 = 1 then .waitAny (wait.extractLsb' 16 16) (doubleAt ws 2)
  else if bitsOf wait 2 0 = 2 then
    match s.translate ctx va ⟨1, false⟩ with
    | .ok l => .waitAddr l va 0 (wordAt ws 28) (doubleAt ws 0) (doubleAt ws 2)
    | .error _ => .running
  else if bitsOf wait 2 0 = 3 then .exportReturn
  else .running

/-- A warp of a team that this module does not know, before its record is read as for any saved warp: as its launch made
it, with its park and its exported lanes. -/
def adoptedWarp (s : State) (ctx p : Nat) (x : Warp) : Warp :=
  let ws := savedWords s p 29
  let out : Mask := doubleAt ws 20
  { x with
    park := adoptedPark s ctx ws
    outs := (lanesOf out).map fun l => (l, bitsOf (wordAt ws 22) 3 0, doubleAt ws 0)
    retired := doubleAt ws 2 = 0 && out = 0 && bitsOf (wordAt ws 12) 31 8 = 0 }

/-- The copy requests of a team that this module does not know: those that had started, with their requests read from
the scratchpad image, then the waiting ones. Each is a chain of its own, kicked by the team's first warp. -/
def adoptedCopies (s : State) (p : Nat) (key : TeamKey) (w : WarpId) : List CopyRun × List CopyKick :=
  let counts := (s.mem.word (p + 0x98)).v
  let pad := p + (s.mem.word (p + 0xA0)).v.toNat
  let started := min 64 (bitsOf counts 7 0)
  let kick (i : Nat) : CopyKick := ⟨key, w, (s.mem.word (p + 0x180 + 16 * i)).v.toNat, i < started, s.holdSeq + i⟩
  ((List.range started).map fun i => ⟨kick i, s.mem.words (pad + (kick i).ofs) 16, 0, none, s.holdSeq + i⟩,
   (List.range (min (64 - started) (bitsOf counts 31 8))).map fun i => kick (started + i))

/-- A team that this module does not know, as a team saved on its bay would look: from the packet in the record and the
record's own fields (Table 16.8). Its slots and its allocation count from 0; streams are not laid out in a record and
come back unbound. -/
def adoptedTeam (s : State) (ctx p : Nat) (key : TeamKey) : SavedTeam :=
  let pk := savedWords s (p + 0x10) 32
  let n := packetNeed pk
  let bay := bitsOf (wordAt (savedWords s (p + 0x90) 2) 0) 31 27 + 32 * bitsOf (wordAt (savedWords s (p + 0x90) 2) 1) 2 0
  let cl := (s.mem.word (p + 0x0C)).v
  let slots := List.range n.slots
  let team : Team := ⟨key, ctx, slots, packetDim pk, packetW32 pk, n.regs, n.bsp, packetDecl s ctx pk, 0, n.lps, n.bsp, n.spl,
    n.bsp + n.slots * 64 * n.lps, n.alloc, [], n.mxe, n.mbox, packetField pk 112 1 = 1, bitsOf cl 15 0,
    bitsOf cl 23 16 + 1, false, false, false⟩
  let warp (q : Nat × Warp) : Nat × Warp :=
    (q.1, adoptedWarp s ctx (p + 0x3000 + q.1 / 2 * slotBytes team + 0x800 * (q.1 % 2)) q.2)
  let (copies, kicks) := adoptedCopies s p key ⟨bay, 0, 0⟩
  let image : Bay := { Bay.reset bay with
    warps := (teamWarps s key pk [] slots).map warp
    teams := [team]
    regions := newRegions key n.shapes ((packRegions n.shapes []).getD [])
    copies := copies
    kicks := kicks
    mx := if n.mxe then { Matrix.reset with owner := some key } else .reset }
  ⟨ctx, bay, image, team⟩

/-- The grid of a team that this module does not know: all of its teams that still live are in the directory (R377). -/
def adoptedGrid (s : State) (ctx p gid living : Nat) : State :=
  if (s.grid? gid).isSome then s
  else
    let pk := savedWords s (p + 0x10) 32
    let g := { newGrid s ctx pk none 0 none none [] [] with gid := gid, lftDone := true }
    { s with
      grids := s.grids ++ [{ g with placed := g.nteam, retired := g.nteam - living }]
      nextGid := max s.nextGid (gid + 1) }

/-- A bay keeps the mailboxes of a team that it is to take (R378), with the messages of its record. -/
def adoptBoxes (s : State) (p : Nat) (v : SavedTeam) : State :=
  s.modBay v.bay fun x => { x with
    mbox := ((List.range 16).filter fun k => v.team.mbox.getLsbD k).foldl (fun (m : Assoc Mailbox) k =>
      aset m k ⟨some v.team.key, savedMessages s.mem p k, (s.mem.word (p + 0x580 + 8 * k)).v.toNat,
        (s.mem.word (p + 0x584 + 8 * k)).v.toNat, false⟩) x.mbox }

/-- The directory of a context's save area: record address, grid, team (R379). -/
def directory (s : State) (c : Nat) : List (Nat × TeamKey) :=
  let base := (s.ctx c).saveB
  (List.range (min 6396 (s.mem.word base).v.toNat)).map fun i =>
    let ws := savedWords s (base + 0x40 + 16 * i) 4
    (base + (doubleAt ws 0).toNat, ⟨(wordAt ws 2).toNat, (wordAt ws 3).toNat⟩)

/-- The entries of a directory that another module saved (R347): this module's last save of the context did not write them
and it has not taken them in (notes/assumptions/36.md). -/
def foreignEntries (s : State) (c : Nat) : List (Nat × TeamKey) :=
  (directory s c).filter fun e =>
    !((s.ctx c).known.contains e.2) && packetRanges (savedWords s (e.1 + 0x10) 32) true

/-- Where the words of the warps of a record lie that have not retired (Table 16.8, R230, R45). -/
def savedPlaces (s : State) (ctx p : Nat) (key : TeamKey) : List SavedPlace :=
  let v := adoptedTeam s ctx p key
  let t := v.team
  let pad := p + (s.mem.word (p + 0xA0)).v.toNat
  (v.image.warps.filter fun q => !q.2.retired).map fun (k, x) =>
    let slot := p + 0x3000 + k / 2 * slotBytes t
    ⟨slot + 0x800 * (k % 2), slot + 0x1000, pad + t.lpsBase + k / 2 * 64 * t.lps, pad + (spillArea x t).1, k % 2, x.lanes⟩

/-- The saved warps of a list of entries converted, none while one of them cannot be. -/
def convertEntries (s : State) (c : Nat) (es : List (Nat × TeamKey)) : Option Memory :=
  (es.flatMap fun e => savedPlaces s c e.1 e.2).foldl (fun (m : Option Memory) q => m.bind fun n => convertSaved s c n q)
    (some s.mem)

/-- Teams that another module saved, taken in as saved teams of this one once every warp among them is converted (R347); a
grid number that a grid of this module holds must first be free. -/
def adoptAll? (s : State) (c : Nat) : Option State :=
  let es := foreignEntries s c
  if es.isEmpty || es.any (fun e => (s.grid? e.2.gid).isSome) then none
  else
    (convertEntries s c es).map fun m =>
      let s1 := convertTables { s with mem := m } c
      let s2 := es.foldl (fun (t : State) (e : Nat × TeamKey) =>
        let (p, key) := e
        let v := adoptedTeam t c p key
        let t1 := adoptBoxes (adoptedGrid t c p key.gid (es.filter fun d => d.2.gid = key.gid).length) p v
        { t1 with saved := t1.saved ++ [v], holdSeq := t1.holdSeq + 64 }) s1
      s2.modCtx c fun x => { x with known := x.known ++ es.map (·.2) }

/-- The entries of a context's directory that name teams which are still saved, with their records' addresses. -/
def savedEntries (s : State) (c : Nat) : List (SavedTeam × Nat) :=
  (directory s c).filterMap fun e => (s.saved.find? fun v => v.ctx = c && v.team.key = e.2).map fun v => (v, e.1)

/-- The group of an entry: the members of its cluster, or the team alone. -/
def groupOf (es : List (SavedTeam × Nat)) (v : SavedTeam) : List (SavedTeam × Nat) :=
  if v.team.clustered then
    es.filter fun e => e.1.team.key.gid = v.team.key.gid && e.1.team.key.tid - e.1.team.rank = v.team.key.tid - v.team.rank
  else es.filter fun e => e.1.team.key = v.team.key

/-- Every saved team that can be placed put back, in the directory's order. -/
def restoreAll (s : State) (c : Nat) : State :=
  let es := savedEntries s c
  es.foldl (fun (t : State) (e : SavedTeam × Nat) =>
    if t.saved.any fun v => v.team.key = e.1.team.key then (tryGroup t (groupOf es e.1)).getD t else t) s

/-- CTX_RESTORE (R377): the saved teams are placed again; DONE becomes 1 when all have resumed. What finds no bay now
is placed by a later step of the same row. A write of RST with PREQ 1, or while a save is in progress, has no
effect. Teams that another module saved are taken in first, as soon as all of them can be (R347). -/
def execCtxRestore (r : RegWrite) (s : State) : Outcome :=
  onReg s r (.ctxRestore r) fun h =>
    match h.reg with
    | .saveCtl c =>
      if vbit h 0 || (s.ctx c).saving then some s
      else
        let s0 := (putReg s h).modCtx c fun x => { x with done := false, restoring := true }
        let s1 := restoreAll ((adoptAll? s0 c).getD s0) c
        some (s1.modCtx c fun x =>
          if (savedEntries s1 c).isEmpty && (foreignEntries s1 c).isEmpty then { x with done := true, restoring := false }
          else x)
    | _ => none

/-- The write by which a restore in progress goes on. -/
def restoreAgain (s : State) (c : Nat) : RegWrite :=
  ⟨0x2000060 + 4096 * c, 4, if (s.ctx c).parkedOnly then 6 else 4⟩

/-- A restore in progress can take in what another module saved, or place some team. -/
def canRestore (s : State) (c : Nat) : Bool :=
  let es := savedEntries s c
  (s.ctx c).restoring && !(s.ctx c).preq &&
    ((adoptAll? s c).isSome || es.any fun e => (tryGroup s (groupOf es e.1)).isSome)

end Sys2Proof.Machine
end

