-- ==== Sys2Proof/Machine/Retire.lean ====
section
/-! DEFINITION. Retiring a bay and taking over its number (spec/18_fleet_reliability_service.md R402 to R404, R396). -/

namespace Sys2Proof.Machine

/-! ## Retiring a bay (spec/18_fleet_reliability_service.md R402 to R404, R396) -/

/-- The first spare of a core die: the lowest physical bay that no logical bay uses and that has not been used. The spares
are 48 to 51 and are taken in rising order (DESIGN CHOICE, notes/assumptions/3.md). -/
def nextSpare (s : State) (d : Nat) : Nat := 48 + agetD s.spares d 0

/-- A bay that is to be retired: placement stops and its teams' warps stop at their next boundary (R403). -/
def startRetire (s : State) (bay : Nat) : State :=
  let ts := ((s.bay bay).teams.filter fun t => !t.retired).map fun t => (bay, t)
  stopTeams (s.modBay bay fun x => { x with closed := true }) ts

/-- A team of one bay has a member of its cluster on another. -/
def bayLinked (s : State) (a b : Nat) : Bool :=
  (s.bay a).teams.any fun t => t.clustered && (clusterMembers s t).any fun p => p.1 = b

/-- The bays under retirement whose teams must resume together with those of a bay: linked by clusters, within its bent
(R52, R404). -/
def retireGroup (s : State) (bay : Nat) : List Nat :=
  let more (l : List Nat) : List Nat := ((List.range 4).map fun i => bay / 4 * 4 + i).filter fun b =>
    l.contains b || ((s.bay b).closed && l.any fun a => bayLinked s a b)
  more (more (more [bay]))

/-- Every team of a bay under retirement, and of the bays that are to resume with it, is quiet. -/
def retireReady (s : State) (bay : Nat) : Bool :=
  (retireGroup s bay).all fun b => (s.bay b).closed && (s.bay b).teams.all fun t => teamQuiet s b t

/-- The bay's teams stand on the spare, which has the logical number: pending records are cancelled as by a save, and
the warps go on (R403, R378), but those of a team that a save has still to take (R377) or of a cluster with a member
that is saved and has not resumed (R404, R52; `freeCluster` lets them go on then). The failed bay's first-level
cache does not move; the spare's own clock counts (R64), and `REGBASE` follows the registers' new place. -/
def moveToSpare (s : State) (bay : Nat) : State :=
  let d := bay / 48
  let keys := (s.bay bay).teams.map (·.key)
  let stays (y : Warp) : Bool := (s.bay bay).teams.any fun t => t.key = y.key && (t.leaving || clusterSaved s t)
  let s1 := (keys.foldl cancelTeam s).cleanAll bay
  let free (c : StreamBind) : StreamBind := { c with stalled := none }
  let s2 := s1.modBay bay fun x => { x with
    l1 := []
    tags := []
    closed := false
    uncTimes := []
    phys := nextSpare s d
    clk := s.now - s.coldAt
    frac := 0
    copies := x.copies.map fun c => { c with stalled := none }
    regions := x.regions.map fun g => { g with scan := none }
    ports := x.ports.map fun (r, p) =>
      (r, { p with stalled := none, inBind := p.inBind.map free, outBind := p.outBind.map free })
    warps := x.warps.map fun (k, y) =>
      (k, { y with preempt := if stays y then y.preempt else none, stamp := s.now, regBase := Config.regBase (s.free + k / 2) }) }
  let s3 : State := { s2.rehold bay fun _ _ => true with spares := aset s2.spares d (agetD s2.spares d 0 + 1), free := s2.free + 32 }
  let ws := (s3.bay bay).warps.map fun p => warpIdOf bay p.1
  (mxNext ((ws.foldl resumeWarp s3).admission bay) bay).logEvent 0x0D 0 bay 0 0 0

/-- The retirement of a bay ends, with those whose teams resume together with its own (R403, R404). -/
def finishRetire (s : State) (bay : Nat) : State := (retireGroup s bay).foldl moveToSpare s

/-- A retirement requested (R403): refused with a log entry of class 0x0E when the die has no spare left for it, otherwise
begun, and finished at once when nothing is in progress. -/
def askRetire (s : State) (bay : Nat) : State :=
  if sparesFree s (bay / 48) = 0 then
    (s.modBay bay fun x => { x with uncTimes := [] }).logEvent 0x0E 0 bay 0 0 0
  else
    let s1 := startRetire s bay
    if retireReady s1 bay then finishRetire s1 bay else s1

/-- BAY_RETIRE_WRITE (R403): with GO a retirement begins; a later step of the same row finishes one that waited for
blocks to end. -/
def execBayRetireWrite (r : RegWrite) (s : State) : Outcome :=
  onReg s r (.bayRetireWrite r) fun h =>
    let b := vbits h 7 0
    if !vbit h 8 || Config.bays ≤ b then some s
    else if (s.bay b).closed then some (if retireReady s b then finishRetire s b else s)
    else some (askRetire s b)

/-- The write by which a retirement in progress is finished. -/
def retireAgain (bay : Nat) : RegWrite := ⟨0x2000540, 4, BitVec.ofNat 64 (256 + bay)⟩

/-- A bay has 16 uncorrectable events within 2^30 of its clocks. -/
def retireDue (x : Bay) : Bool := 16 ≤ (x.uncTimes.filter fun t => decide (x.clk < t + 2 ^ 30)).length

/-- AUTO_BAY_RETIRE (R396). -/
def execAutoBayRetire (bay : Nat) (s : State) : Outcome :=
  let x := s.bay bay
  if s.rel.autoB && !x.closed && bay < Config.bays && retireDue x then .next (askRetire s bay) else .fault .notEnabled

end Sys2Proof.Machine
end

