-- ==== Sys2Proof/Machine/Wire.lean ====
section
/-! DEFINITION. The host's accesses through BAR2 and the Voling links (spec/15_host_queues_launch.md R350, R351, R364,
spec/08_memory_model_and_check_codes.md R251, R253, R255, R256). -/

namespace Sys2Proof.Machine

/-! ## Writes at a home by a producer that is not a lane -/

/-- A sub-word write merged at the home (R256), with a log entry when the old word fails its check. -/
def homeMerge (s : State) (pa : Nat) (m : BitVec 4) (n : Word) (cn : Byte) : State :=
  let h := s.homeWord (.phys pa)
  let s1 := s.setHomeWord (.phys pa) (mergeWord h m n cn)
  if h.c = lcc h.v then s1 else s1.logEvent 0x04 2 0 (BitVec.ofNat 64 pa) (syndromeOf h).toNat 0

/-- The bytes of a write that fall into the word at byte position p of the access window: mask and data in
position. -/
def bytesInWord (ofs : Nat) (data : List Byte) (word : Nat) : BitVec 4 × Word :=
  (List.range 4).foldl (fun (a : BitVec 4 × Word) (i : Nat) =>
    let p := 4 * word + i
    if p < ofs then a
    else
      match data[p - ofs]? with
      | none => a
      | some b => (a.1 ||| ((1 : BitVec 4) <<< i), a.2 ||| (b.setWidth 32 <<< (8 * i)))) (0, 0)

/-! ## BAR2 (R350) -/

/-- Every byte of a range is populated. -/
def rangePopulated (pa n : Nat) : Bool := n = 0 || (populated pa && populated (pa + n - 1))

/-- An access to an unpopulated address: Unsupported Request, logged (R350). -/
def bar2Refused (s : State) (pa : Nat) : State :=
  (s.reply .unsupported).logEvent 0x10 5 0 (BitVec.ofNat 64 pa) 0 0

/-- The words that an access of n bytes at an address touches. -/
def touchedWords (pa n : Nat) : List Nat :=
  if n = 0 then [] else (List.range ((pa + n - 1) / 4 - pa / 4 + 1)).map fun i => pa / 4 + i

/-- BAR2_WRITE (R350, R253, R256): whole words take fresh codes, parts of words merge, at the home and beside every
L1. -/
def execBar2Write (ofs : Nat) (data : List Byte) (s : State) : Outcome :=
  let pa := s.bar2 + ofs
  if !rangePopulated pa data.length then .next (bar2Refused s pa)
  else
    .next ((touchedWords pa data.length).foldl (fun (t : State) (k : Nat) =>
      let (m, d) := bytesInWord pa data k
      if m = 0xF then t.setHomeWord (.phys (4 * k)) (fresh d) else homeMerge t (4 * k) m d (lcc d)) s)

/-- BAR2_READ (R350, R255): the words, with the poisoned bit when one fails its check, which is logged. -/
def execBar2Read (ofs n : Nat) (s : State) : Outcome :=
  let pa := s.bar2 + ofs
  if !rangePopulated pa n then .next (bar2Refused s pa)
  else
    let ws := (touchedWords pa n).map fun k => (4 * k, s.mem.word (4 * k))
    let bad := ws.filter fun p => !good p.2
    let s1 := bad.foldl (fun (t : State) (p : Nat × W40) =>
      t.logEvent 0x10 5 0 (BitVec.ofNat 64 p.1) (syndromeOf p.2).toNat 0) s
    .next (s1.reply (.data (ws.map (·.2.v)) (!bad.isEmpty)))

/-! ## Voling (R251, R364) -/

/-- The key of a stream at the receiver: source module and stream. -/
def streamKey (module' stream : Nat) : Nat := module' * 4096 + stream

/-- The receiver's state of a stream. -/
def volingIn (s : State) (key : Nat) : VolingIn := agetD s.vl.ins key ⟨0, []⟩

/-- The receiver's state of a stream replaced. -/
def setVolingIn (s : State) (key : Nat) (x : VolingIn) : State :=
  { s with vl := { s.vl with ins := aset s.vl.ins key x } }

/-- A write acknowledged. -/
def acknowledge (s : State) (m : VolingWrite) : State :=
  { s with vl := { s.vl with acks := s.vl.acks ++ [(m.src, m.stream, m.seq)] } }

/-- A remote write performed at its ridge home (R236, R364): the words with their codes, a part of a word merged. A write
outside the inbound window is not performed; the driver has a notice (R411). -/
def performRemote (s : State) (m : VolingWrite) : State :=
  let pa := s.vl.winBase + m.addr
  if s.vl.winSize < m.addr + m.len || !rangePopulated pa m.len then
    s.notice 0 0x40 0 0 0 0 0 0 (BitVec.ofNat 64 m.addr) 0 (BitVec.ofNat 64 (m.stream * 4096 + m.src))
  else if m.len % 4 = 0 && pa % 4 = 0 then s.setHomeWords (.phys pa) (m.words.take (m.len / 4))
  else
    let w := m.words.headD .zero
    let mask : BitVec 4 := (if m.len = 1 then 1 else 3) <<< (pa % 4)
    homeMerge s (pa / 4 * 4) mask w.v w.c

/-- A write of a stream in sequence, performed and acknowledged. -/
def acceptRemote (s : State) (key : Nat) (m : VolingWrite) : State :=
  let s1 := performRemote s m
  let x := volingIn s1 key
  acknowledge (setVolingIn s1 key { x with expected := (x.expected + 1) % 2 ^ 48 }) m

/-- The held writes that are now in sequence performed; at most 64 are held. -/
def drainHeld (s : State) (key : Nat) : Nat → State
  | 0 => s
  | n + 1 =>
    let x := volingIn s key
    match x.held.find? (·.seq == x.expected) with
    | none => s
    | some m =>
      drainHeld (acceptRemote (setVolingIn s key { x with held := x.held.filter (·.seq != m.seq) }) key m) key n

/-- VOLING_WRITE_RECEIVE (R251). -/
def execVolingWriteReceive (m : VolingWrite) (s : State) : Outcome :=
  let key := streamKey m.src m.stream
  let x := volingIn s key
  if m.seq = x.expected then .next (drainHeld (acceptRemote s key m) key 64)
  else if m.seq < x.expected then .next (acknowledge s m)
  else if x.held.any (·.seq == m.seq) || 64 ≤ x.held.length then .next s
  else .next (setVolingIn s key { x with held := x.held ++ [m] })

/-- The sending side of a stream to a peer. -/
def volingOut (s : State) (peer stream : Nat) : VolingOut := agetD s.vl.outs (peer * 4096 + stream) ⟨0, []⟩

/-- VOLING_ACK_RECEIVE (R251): the acknowledged write is dropped. When the peer says that the write lay outside its
window, the writing grid's driver has a notice (R364, R411). -/
def execVolingAckReceive (peer stream seq : Nat) (outside : Bool) (s : State) : Outcome :=
  let x := volingOut s peer stream
  let s1 : State := { s with vl := { s.vl with
    outs := aset s.vl.outs (peer * 4096 + stream) { x with unacked := x.unacked.filter fun p => p.write.seq != seq } } }
  match x.unacked.find? fun p => p.write.seq = seq with
  | none => .next s
  | some u =>
    .next (if outside then
      s1.notice (s.ctxOf u.warp) 0x40 0 0 0 0 0 0 (BitVec.ofNat 64 u.write.addr) 0
        (BitVec.ofNat 64 (u.write.stream * 4096 + u.write.src))
      else s1)

/-- VOLING_LINK_FAILURE (R251): every unacknowledged write of the stream is sent again over a port that is up, with its
sequence number. -/
def execVolingLinkFailure (peer stream : Nat) (s : State) : Outcome :=
  .next (s.transmit ((volingOut s peer stream).unacked.map (·.write)))

end Sys2Proof.Machine
end

