-- ==== Sys2Proof/Machine/Boot.lean ====
section
/-! DEFINITION. Resets, boot, attestation and firmware (spec/17_boot_attestation_power.md R384 to R391,
spec/18_fleet_reliability_service.md R401, R406, spec/00_scope.md R10). -/

namespace Sys2Proof.Machine

/-! ## Firmware images (R387 to R389) -/

/-- Words i to i + n - 1 of an image. -/
def imageWords (rd : Nat → Word) (i n : Nat) : List Word := (List.range n).map fun k => rd (i + k)

/-- The header of an image is as Table 17.4 lays it out. -/
def headerOk (rd : Nat → Word) : Bool :=
  rd 0 == 0xB41C0F17 && bitsOf (rd 1) 15 0 = 1 && bitsOf (rd 1) 31 16 ≤ 3 &&
    (imageWords rd 16 16).all (· == 0) && (imageWords rd 0x1058 40).all (· == 0)

/-- A checked image: component, SVN, body length in bytes, digest of the body. -/
structure GoodImage where
  comp : Nat
  svn : Nat
  len : Nat
  digest : List Word
  deriving DecidableEq, Repr

/-- An image verified (R387 to R389), or the cause of Table 17.2 with the component that its header names. -/
def verifyImage (minima : Assoc Nat) (rd : Nat → Word) : Except (Nat × Nat) GoodImage :=
  let comp := bitsOf (rd 1) 31 16
  let signed := octetsOfWords (imageWords rd 0 32)
  let svn := (rd 2).toNat
  let len := (rd 3).toNat
  let digest := imageWords rd 4 12
  let body := (octetsOfWords (imageWords rd 0x1080 ((len + 3) / 4))).take len
  let rsa := octetsOfWords Config.rsaKey
  let slh := octetsOfWords Config.slhKey
  if !headerOk rd then .error (0x01, comp % 16)
  else if sha384 rsa != octetsOfWords Config.fusedRsaDigest ||
      !rsaOk rsa signed (octetsOfWords (imageWords rd 32 96)) then .error (0x02, comp)
  else if sha384 slh != octetsOfWords Config.fusedSlhDigest ||
      !slhOk slh signed (octetsOfWords (imageWords rd 128 4056)) then .error (0x03, comp)
  else if svn < agetD minima comp 0 then .error (0x04, comp)
  else if sha384 body != octetsOfWords digest then .error (0x05, comp)
  else .ok ⟨comp, svn, len, digest⟩

/-! ## Resets (R384 to R386, R401, R10) -/

/-- The firmware state that no reset changes: the fused minima. -/
def firmwareAtReset (f : Firmware) : Firmware := { Firmware.reset with minima := f.minima }

/-- Phase 1 (R384): every component image in flash verified. The SVNs and digests of what runs, or the failure. -/
def bootImages (f : Firmware) : Except (Nat × Nat) (List GoodImage) :=
  ([0, 1, 2, 3] : List Nat).mapM fun c =>
    match verifyImage f.minima fun i => (Config.flashImage c)[i]?.getD 0 with
    | .ok g => if g.comp = c then .ok g else .error (0x01, c)
    | .error (e, _) => .error (e, c)

/-- The sill of a stack after a cold reset: the list of dropped banks survives (R401). -/
def Sill.cold (x : Sill) : Sill := { Sill.reset with ndrop := x.ndrop, last := x.last, dropped := x.dropped, ends := x.ends }

/-- What a cold reset leaves beside the firmware's state: everything at its reset value but the dropped banks, the spare
bays in use, and the outside world's side. -/
def coldState (s : State) : State :=
  { State.reset with
    now := s.now
    coldAt := s.now
    power := { Power.reset with next := s.now + 4096 }
    pend := 0
    inbox := s.inbox
    agenda := s.agenda
    replies := s.replies
    irqs := s.irqs
    sills := s.sills.map fun (k, x) => (k, x.cold)
    spares := s.spares
    bays := s.bays.map fun (k, x) => (k, { Bay.reset k with phys := x.phys })
    links := s.links
    dieLinks := s.dieLinks
    fw := firmwareAtReset s.fw
    free := s.free + 1 }

/-- A boot that failed in a phase (R386). -/
def bootFailed (s : State) (phase cause comp : Nat) : State :=
  { s with fw := { s.fw with phase := phase, fail := cause, failComp := comp, dead := true } }

/-- What phase 1 leaves: the SVNs and digests of the verified images, which are now the firmware that runs. -/
def Firmware.verified (f : Firmware) (gs : List GoodImage) : Firmware :=
  { f with
    svn := ((gs.find? (·.comp == 0)).map (·.svn)).getD 0
    svns := gs.map fun g => (g.comp, g.svn)
    digests := gs.map fun g => (g.comp, g.digest) }

/-- COLD_RESET (R384, R385, R386): the boot steps in order. A boot that fails before memory is zeroed leaves it as it
was. Boot is one step of the model: the time in which configuration requests are retried (phase 4) does not show
(NOTES.md, Scope). -/
def execColdReset (s : State) : Outcome :=
  let s1 := coldState s
  let hw := Config.bootHardware s.free % 4
  match bootImages s1.fw with
  | .error (cause, comp) => .next (bootFailed { s1 with mem := s.mem } 1 cause comp)
  | .ok gs =>
    let s2 : State := { s1 with fw := s1.fw.verified gs }
    if hw = 1 then .next (bootFailed { s2 with mem := s.mem } 2 0x10 0)
    else if hw = 2 then .next (bootFailed { s2 with mem := s.mem } 2 0x11 0)
    else if hw = 3 then .next (bootFailed s2 3 0x11 0)
    else .next (({ s2 with fw := { s2.fw with phase := 5 } } : State).raise 1)

/-- A bay's counters, snapshot words, and T and INTF of LC_STAT at their reset value (Tables 18.8, 9.4). -/
def Bay.countersReset (x : Bay) : Bay :=
  { x with
    corr := 0
    unc := 0
    roll := 0
    dblf := 0
    cks := 0
    blks := 0
    snapClk := 0
    snapBlks := 0
    snapStep := 0
    snapLc := 0
    tight := 0
    intf := 0 }

/-- The registers without "(kept)" that hold no record, queue, grid or context state, at their reset value (R10): the
fields of BOOT_STAT, ATT_STAT and FW_STAT, PWR_STAT with the grants, REL_LOST, the bays' counters, snapshots, T and INTF, the
stacks' CORR, SNAP_CTL and the list of Table 16.6. A reset by live update leaves a report in progress (R390): its BUSY is
no register that the update may clear. -/
def serviceReset (s : State) : State :=
  { s with
    bays := s.bays.map fun (k, x) => (k, x.countersReset)
    fw := { s.fw with
      phase := 0
      fail := 0
      failComp := 0
      svn := 0
      attDone := false
      attErr := false
      fwBusy := false
      fwDone := false
      fwErr := false
      fwFail := 0
      fwComp := 0
      fwTodo := []
      fwUnits := [] }
    power := { s.power with draw := 0, err := false, thr := 0, grant := [] }
    rel := { s.rel with lost := 0 }
    sills := s.sills.map fun (k, x) => (k, { x with total := 0 })
    poisoned := []
    snap := { Snap.reset with on := s.snap.on } }

/-- WARM_RESET (R10, R401): every register but the kept ones takes its reset value, the fields of BOOT_STAT among them,
no grid lives on, and drifts run on. Device memory and the links' streams stay as they are. No boot follows, so a module
whose boot failed stays in the state of R386 though FAIL and COMP now read 0: the model's choice
(notes/assumptions/30.md). -/
def execWarmReset (s0 : State) : Outcome :=
  let s := serviceReset s0
  .next { State.reset with
    now := s.now
    coldAt := s.coldAt
    inbox := s.inbox
    agenda := s.agenda
    replies := s.replies
    irqs := s.irqs
    pend := 0
    mem := s.mem
    bays := s.bays.map fun (k, x) => (k, { Bay.reset k with clk := x.clk, cap := x.cap, tmax := x.tmax, phys := x.phys })
    nextGid := s.nextGid
    decls := s.decls
    resvInt := s.resvInt
    bfill := s.bfill
    bar2 := s.bar2
    vl := s.vl
    fw := { s.fw with attBusy := false }
    power := s.power
    rel := { RelLog.reset with
      base := s.rel.base
      size := s.rel.size
      thr := s.rel.thr
      autoB := s.rel.autoB
      autoD := s.rel.autoD
      rclk := s.rel.rclk }
    sills := s.sills
    spares := s.spares
    links := s.links
    dieLinks := s.dieLinks
    snap := s.snap
    free := s.free }

/-- FUSED_MINIMUM_RAISE (R389): a component's fused minimum only rises. -/
def execFusedMinimumRaise (comp value : Nat) (s : State) : Outcome :=
  .next { s with fw := { s.fw with minima := aset s.fw.minima comp (max value (agetD s.fw.minima comp 0)) } }

/-! ## Attestation (R390, R391) -/

/-- ATT_REQUEST (R390): the nonce is read at the request; a request while BUSY, or an unpopulated B, sets ERR. -/
def execAttRequest (r : RegWrite) (s : State) : Outcome :=
  onReg s r (.attRequest r) fun h =>
    let b := vbits h 51 15 * 2 ^ 15
    if !vbit h 0 then some s
    else if s.fw.attBusy || !rangePopulated b 0x8000 then some { s with fw := { s.fw with attErr := true } }
    else some { s with fw := { s.fw with
      attBusy := true
      attAddr := b
      attNonce := (s.mem.words b 12).map (·.v) } }

/-- A double as two words. -/
def doubleWords (d : Nat) : List Word := [BitVec.ofNat 32 d, BitVec.ofNat 32 (d / 2 ^ 32)]

/-- Words cut or filled with zeros to a length. -/
def fitWords (n : Nat) (ws : List Word) : List Word := (List.range n).map fun i => ws[i]?.getD 0

/-- The signed part of a report (Table 17.6). -/
def reportBody (s : State) : List Word :=
  fitWords 12 s.fw.attNonce ++ [1, 0x00010101] ++ doubleWords Config.serial.toNat ++ doubleWords (bootStatus s.fw) ++
    (([0, 1, 2, 3] : List Nat).map fun c => BitVec.ofNat 32 (agetD s.fw.svns c 0)) ++ [0, 0] ++
    (([0, 1, 2, 3] : List Nat).flatMap fun c => fitWords 12 (agetD s.fw.digests c [])) ++ fitWords 8 []

/-- ATT_REPORT_DONE (R390, R391). -/
def execAttReportDone (s : State) : Outcome :=
  if !s.fw.attBusy then .fault .notEnabled
  else
    let body := reportBody s
    let report := body ++ fitWords 96 (Config.rsaSign body) ++ fitWords 4056 (Config.slhSign body) ++
      fitWords 108 Config.deviceKeys
    let s1 := s.setHomeWords (.phys (s.fw.attAddr + 0x40)) (report.map fresh)
    .next (({ s1 with fw := { s1.fw with attBusy := false, attDone := true } } : State).raise 1)

/-! ## Live update (R406) -/

/-- The images of a set laid end to end from a physical address, each verified. -/
def updateImages (s : State) : Nat → Nat → Except (Nat × Nat) (List GoodImage)
  | 0, _ => .ok []
  | n + 1, p =>
    match verifyImage s.fw.minima fun i => (s.mem.word (p + 4 * i)).v with
    | .error e => .error e
    | .ok g =>
      match updateImages s n (p + 0x4200 + g.len) with
      | .error e => .error e
      | .ok gs => .ok (g :: gs)

/-- The component order of an update: sill, bay microcode, kingpost tables, ridge firmware. -/
def switchOrder : List Nat := [1, 2, 3, 0]

/-- FW_UPD_WRITE (R406): every image is verified before any unit switches, and one failure switches none. -/
def execFwUpdWrite (r : RegWrite) (s : State) : Outcome :=
  onReg s r (.fwUpdWrite r) fun h =>
    let n := vbits h 6 4
    if s.fw.fwBusy then some { s with fw := { s.fw with fwErr := true } }
    else if !vbit h 0 then some s
    else
      let failed (cause comp : Nat) : State :=
        ({ s with fw := { s.fw with fwErr := true, fwFail := cause, fwComp := comp } } : State).logEvent 0x0F 2 0 0 0 0
      if n = 0 || 4 < n then some (failed 0x01 0)
      else
        match updateImages s n (vbits h 51 12 * 4096) with
        | .error (cause, comp) => some (failed cause comp)
        | .ok gs =>
          let todo := switchOrder.filterMap fun c => (gs.find? (·.comp == c)).map fun g => (c, g.svn, g.digest)
          some { s with fw := { s.fw with
            fwBusy := true
            fwFail := 0
            fwComp := 0
            fwTodo := todo
            fwUnits := List.range Config.bays } }

/-- A bay has a block dispatched in some window. -/
def bayBusy (s : State) (b : Nat) : Bool := (s.bay b).warps.any fun p => p.2.blk.isSome

/-- FW_COMPONENT_SWITCH (R406): the next component's units switch at their boundaries; a bay waits until none of its
windows has a block. After the last component the update is done and logged. R10 and R401 call a live update a warm
reset, and R406 says that no record, queue, grid or context state is lost: as the update ends, the service registers
without "(kept)" take their reset values, BOOT_STAT its SVN as R406 has it, and FW_STAT its DONE (`serviceReset`; the
moment is the model's choice, notes/assumptions/30.md). -/
def execFwComponentSwitch (s : State) : Outcome :=
  match s.fw.fwTodo with
  | [] => .fault .notEnabled
  | (c, svn, digest) :: rest =>
    let left := if c = 2 then s.fw.fwUnits.filter (bayBusy s) else []
    if c = 2 && !left.isEmpty then
      if left.length = s.fw.fwUnits.length then .fault .notEnabled
      else .next { s with fw := { s.fw with fwUnits := left } }
    else
      let fw : Firmware := { s.fw with
        fwTodo := rest
        svns := aset s.fw.svns c svn
        digests := aset s.fw.digests c digest
        svn := if c = 0 then svn else s.fw.svn }
      let s1 : State := { s with fw := fw }
      .next (if rest.isEmpty then
        let s2 := serviceReset s1
        ({ s2 with fw := { s2.fw with svn := fw.svn, fwDone := true } } : State).logEvent 0x0F 2 0 0 0 0 else s1)

end Sys2Proof.Machine
end

