-- ==== Sys2Proof/Machine/Power.lean ====
section
/-! DEFINITION. The power arbiter (spec/17_boot_attestation_power.md R392 to R395). -/

namespace Sys2Proof.Machine

/-! ## Dividing a grant (R394) -/

/-- A taker of power: its weight, the most it may be granted, and its grant so far. -/
structure Taker where
  wt : Nat
  top : Nat
  got : Nat
  deriving DecidableEq, Repr

/-- One sharing of the rest among the takers that are not filled, in proportion to weight, rounding down. -/
def shareOnce (rest : Nat) (ts : List Taker) : List Taker :=
  let total := ((ts.filter fun t => decide (t.got < t.top)).map fun t => max 1 t.wt).sum
  ts.map fun t => if t.got < t.top then { t with got := min t.top (t.got + rest * max 1 t.wt / total) } else t

/-- One watt to the first taker that is not filled. -/
def giveOne : List Taker → List Taker
  | [] => []
  | t :: r => if t.got < t.top then { t with got := t.got + 1 } :: r else t :: giveOne r

/-- The sum of grants. -/
def granted (ts : List Taker) : Nat := (ts.map (·.got)).sum

/-- The sharing of R394, repeated while something is left and some taker is not filled: each round grants a watt at
least. -/
def shareAll : Nat → Nat → List Taker → List Taker
  | 0, _, ts => ts
  | n + 1, rest, ts =>
    if rest = 0 || ts.all fun t => decide (t.top ≤ t.got) then ts
    else
      let us := shareOnce rest ts
      if granted us = granted ts then shareAll n (rest - 1) (giveOne ts)
      else shareAll n (rest - (granted us - granted ts)) us

/-- A grant divided from floors. -/
def divide (limit : Nat) (ts : List Taker) : List Taker := shareAll limit (limit - granted ts) ts

/-! ## The interval (R393, R394) -/

/-- The grants of the six domains for their requests. -/
def domainGrants (p : Power) (req : List Nat) : List Nat :=
  let want (d : Nat) : Nat := min (req[d]?.getD 0) (powerCap p d)
  let die (d : Nat) : Taker := ⟨powerWt p d, want d, min (want d) (powerFloor p d)⟩
  (divide (p.lim - want 4 - want 5) ([0, 1, 2, 3].map die)).map (·.got) ++ [want 4, want 5]

/-- The frequency step of a bay that is granted less than it requests: the highest whose draw fits, and 1.0 GHz when none
does. -/
def stepFor (grant : Nat) : Nat := ((List.range 9).find? fun k => decide (Config.stepDraw k ≤ grant)).getD 8

/-- The steps of a die's bays for its grant: equal weights, floors of 0. -/
def dieSteps (d : PowerDemand) (die grant : Nat) : List (Nat × Nat) :=
  let req (b : Nat) : Nat := ((d.bays.find? (·.1 == b)).map (·.2)).getD Config.fullDraw
  let bays := (List.range 48).map fun i => 48 * die + i
  (bays.zip (divide grant (bays.map fun b => ⟨1, req b, 0⟩))).map fun (b, t) =>
    (b, if t.got < t.top then stepFor t.got else 0)

/-- The clocks of a window (R393): 732 intervals of 4,096 and 1,728 clocks of one more. -/
def windowClocks : Nat := 3000000

/-- What was drawn in the window that ends with the newest of a list of intervals, in W times clocks; an interval before
the first counts 0 (notes/assumptions/17.md). -/
def windowDraw (draws : List Nat) : Nat := 4096 * (draws.take 732).sum + 1728 * (draws[732]?.getD 0)

/-- The draw of an interval (R393): what is drawn, at most what is granted, and never so much that the mean over a window
that ends in the interval would exceed the limit. The draw of an interval is even, so the windows that matter are the one
that ends with it and the one that begins with an interval. -/
def intervalDraw (p : Power) (total drawn : Nat) : Nat :=
  min (min drawn total)
    (min ((windowClocks * p.lim - windowDraw (0 :: p.draws)) / 4096)
      ((windowClocks * p.lim - 4096 * (p.draws.take 732).sum) / 1728))

/-- POWER_INTERVAL (R393, R394): every 4,096 nominal clocks the limit is divided among domains and bays; THR shows the
interval, and DRAW the mean over the last window. -/
def execPowerInterval (d : PowerDemand) (s : State) : Outcome :=
  if s.now < s.power.next then .fault .notEnabled
  else
    let g := domainGrants s.power d.req
    let thr := (g.zipIdx).foldl (fun (m : BitVec 6) (v, i) => if v < d.req[i]?.getD 0 then m ||| (1 <<< i) else m) 0
    let draws := (intervalDraw s.power g.sum d.draw :: s.power.draws).take 733
    let s1 : State := { s with power := { s.power with
      grant := (g.zipIdx).map fun (v, i) => (i, v)
      draw := windowDraw draws / windowClocks
      draws := draws
      next := s.power.next + 4096
      thr := thr } }
    let steps := ([0, 1, 2, 3] : List Nat).flatMap fun die => dieSteps d die (g[die]?.getD 0)
    .next (steps.foldl (fun (t : State) (q : Nat × Nat) => t.modBay q.1 fun x => { x with fstep := q.2 }) s1)

/-- What is asked and drawn in the interval that is due: free (R394). -/
def demandNow (s : State) : PowerDemand :=
  let (req, bays, draw) := Config.powerDemand s.power.next
  ⟨(List.range 6).map fun i => req[i]?.getD 0, bays, draw⟩

/-! ## The registers (R395) -/

/-- The sum that must not exceed LIM. -/
def powerSum (p : Power) : Nat :=
  powerCap p 4 + powerCap p 5 + powerFloor p 0 + powerFloor p 1 + powerFloor p 2 + powerFloor p 3

/-- The power registers with a write applied. -/
def powerWrite (p : Power) (h : RegHit) : Option Power :=
  match h.reg with
  | .pwrLimit => some { p with lim := min 2400 (vbits h 11 0) }
  | .pwrDom d =>
    let q : Power := { p with cap := aset p.cap d (vbits h 27 16) }
    some (if d ≤ 3 then { q with wt := aset p.wt d (vbits h 47 32), floor := aset p.floor d (vbits h 11 0) } else q)
  | _ => none

/-- POWER_REGISTER_WRITE (R395): a write that would exceed LIM changes nothing, sets ERR and raises vector 2. -/
def execPowerRegisterWrite (r : RegWrite) (s : State) : Outcome :=
  onReg s r (.powerRegisterWrite r) fun h =>
    (powerWrite s.power h).map fun p =>
      if p.lim < powerSum p then ({ s with power := { s.power with err := true } } : State).raise 2
      else { s with power := p }

end Sys2Proof.Machine
end

