-- ==== Sys2Proof/Machine/Repair.lean ====
section
/-! DEFINITION. In-service repair and telemetry: bank drops and drifts, link lanes, snapshot triggers
(spec/18_fleet_reliability_service.md R399 to R401, R405, R407). -/

namespace Sys2Proof.Machine

/-! ## Banks and drifts (R399, R400) -/

/-- The sill die of a stack. -/
def State.sill (s : State) (k : Nat) : Sill := agetD s.sills k .reset

/-- A sill die rewritten. -/
def State.modSill (s : State) (k : Nat) (f : Sill → Sill) : State := { s with sills := amod s.sills k .reset f }

/-- The lines of a region of a stack: 2^30 bytes, the last region what is left of 48 × 10^9 (R400). -/
def regionLines (g : Nat) : Nat := if g = 44 then (48000000000 - 44 * 2 ^ 30) / 128 else 8388608

/-- A bank drop (R399): it waits for a drift in progress; a ninth is refused; otherwise the bank leaves the hash and the
drift begins. A bank that is no longer in the hash stays as it is. -/
def dropBank (s : State) (stack bank : Nat) : State :=
  let x := s.sill stack
  if x.dropped.contains bank then s
  else if x.act then
    s.modSill stack fun y => { y with waiting := if y.waiting.contains bank then y.waiting else y.waiting ++ [bank] }
  else if 8 ≤ x.ndrop then
    (s.modSill stack fun y => { y with deg := true }).logEvent 0x0C 1 (stack * 256 + bank) 0 0 0
  else
    (s.modSill stack fun y => { y with
      act := true
      reg := 0
      ptr := 0
      ndrop := y.ndrop + 1
      last := bank
      dropped := y.dropped ++ [bank] }).logEvent 0x0A 1 (stack * 256 + bank) 0 0 0

/-- The banks of a stack for which an interval of 2^24 accesses is over and not yet counted (R399). -/
def bankIntervals (s : State) (stack : Nat) : List Nat :=
  (List.range 256).filter fun k =>
    decide (agetD (s.sill stack).ends k 0 < Config.bankAccesses stack k s.now / 2 ^ 24)

/-- BANK_COUNT_INTERVAL (R399), at the end of 2^24 accesses to a bank: a bank whose count exceeds BANK_THR is dropped when
AUTOD is set; counting begins anew. -/
def execBankCountInterval (stack bank : Nat) (s : State) : Outcome :=
  let n := agetD (s.sill stack).corr bank 0
  let s1 := s.modSill stack fun x => { x with
    corr := adel x.corr bank
    ends := aset x.ends bank (agetD x.ends bank 0 + 1) }
  .next (if s.rel.autoD && s.rel.thr < n then dropBank s1 stack bank else s1)

/-- SILL_DROP_WRITE (R399): GO drops the named bank of the named stack. -/
def execSillDropWrite (r : RegWrite) (s : State) : Outcome :=
  onReg s r (.sillDropWrite r) fun h =>
    some (if vbit h 16 && vbits h 11 8 < 12 then dropBank s (vbits h 11 8) (vbits h 7 0) else s)

/-- The drops that waited for a drift, in their order, until one begins a drift of its own. -/
def dropWaiting (s : State) (stack : Nat) : State :=
  let ws := (s.sill stack).waiting
  ws.foldl (fun t b => dropBank t stack b) (s.modSill stack fun x => { x with waiting := [] })

/-- DRIFT_LINE_MOVE (R400): one line is at its new place and the pointer advances; after the last region the drift is
complete. The move itself is invisible: `mem` names lines by their address. -/
def execDriftLineMove (stack : Nat) (s : State) : Outcome :=
  let x := s.sill stack
  if !x.act then .fault .notEnabled
  else if x.ptr + 1 < regionLines x.reg then .next (s.modSill stack fun y => { y with ptr := y.ptr + 1 })
  else if x.reg < 44 then .next (s.modSill stack fun y => { y with reg := y.reg + 1, ptr := 0 })
  else
    .next (dropWaiting ((s.modSill stack fun y => { y with act := false, ptr := regionLines 44 }).logEvent 0x0B 1 stack
      0 0 0) stack)

/-! ## Link lanes (R405) -/

/-- The peers that a port may carry traffic to (R363). -/
def portPeers (s : State) (port : Nat) : List Nat :=
  (s.vl.peers.filter fun p => p.2.getLsbD (48 + port)).map (·.1)

/-- The unacknowledged writes of a port's peers are sent again (R251), each over a port of its peer that is up: the port
itself, or another of PORTS once it is down (R405). -/
def resendPort (s : State) (port : Nat) : State :=
  let peers := portPeers s port
  let ms := (s.vl.outs.filter fun p => peers.contains (p.1 / 4096)).flatMap fun p => p.2.unacked.map (·.write)
  s.transmit ms

/-- LINK_LANE_REPLACE (R405): the spare takes over, or a port without a spare is taken down; a port re-sends its
unacknowledged writes. -/
def execLinkLaneReplace (l : LinkId) (s : State) : Outcome :=
  match l with
  | .voling p =>
    let x := agetD s.links p ⟨true, 1⟩
    let y : Link := if x.spares = 0 then { x with up := false } else { x with spares := x.spares - 1 }
    .next (if !x.up then s
      else (resendPort { s with links := aset s.links p y } p).logEvent 0x09 3 p 0 0 0)
  | .die d =>
    let x := agetD s.dieLinks d ⟨true, 2⟩
    .next (if x.spares = 0 then s
      else ({ s with dieLinks := aset s.dieLinks d { x with spares := x.spares - 1 } } : State).logEvent 0x09 4 d 0 0 0)

/-! ## Snapshots (R407) -/

/-- MGMT_SNAP_TRIGGER (R407). -/
def execMgmtSnapTrigger (s : State) : Outcome := .next (s.trigger 0xFFFF)

/-- SNAP_ARM_WRITE (R407): HOLD is written, and a held latch is released. -/
def execSnapArmWrite (r : RegWrite) (s : State) : Outcome :=
  onReg s r (.snapArmWrite r) fun h =>
    let s1 := putReg s h
    some { s1 with snap := { s1.snap with valid := false } }

end Sys2Proof.Machine
end

