-- ==== Sys2Proof/Machine/Farfoec.lean ====
section
/-! DEFINITION. Farfoec modules: reading one, and the checks at its load (spec/14_farfoec_translation.md R327 to
R333). -/

namespace Sys2Proof.Machine

/-! ## Reading a module -/

/-- A word of a module that can be read and passes its check. -/
def farWord (s : State) (ctx : Nat) (va : Double) : Option Word :=
  (readVirt s ctx va).toOption.bind fun w => if good w then some w.v else none

/-- A double of a module. -/
def farDouble (s : State) (ctx : Nat) (va : Double) : Option Double :=
  (farWord s ctx va).bind fun lo => (farWord s ctx (va + 4)).map fun hi => hi ++ lo

/-- Consecutive doubles of a module. -/
def farDoubles (s : State) (ctx : Nat) (va : Double) : Nat → Option (List Double)
  | 0 => some []
  | n + 1 => (farDouble s ctx va).bind fun d => (farDoubles s ctx (va + 8) n).map fun r => d :: r

/-- An address in a module. -/
def farAt (base : Double) (ofs : Nat) : Double := base + BitVec.ofNat 64 ofs

/-! ## Header and tables (Tables 14.1 to 14.3) -/

/-- The fields of a module header. -/
structure FarHead where
  const : Nat
  vb : Nat
  hnd : Nat
  typ : Nat
  nvb : Nat
  nconst : Nat
  nhnd : Nat
  deriving DecidableEq, Repr

/-- A module header read, none when a value is wrong or out of range (R327, R333). -/
def farHead (s : State) (ctx : Nat) (base : Double) : Option FarHead :=
  match farDoubles s ctx base 4 with
  | some [a, b, c, d] =>
    let h : FarHead := ⟨bitsOf d 63 32, bitsOf d 31 0, bitsOf c 63 32, bitsOf c 31 0, bitsOf b 63 48, bitsOf b 47 32,
      bitsOf b 31 16⟩
    if bitsOf a 31 0 = 0xFA0FEC00 && bitsOf a 47 32 = 0 && bitsOf a 63 48 = 1 && bitsOf b 15 0 = 0 && 1 ≤ h.nvb &&
        h.nconst ≤ 4096 && 1 ≤ h.nhnd && h.nhnd ≤ 4095 && h.const % 8 = 0 && h.vb % 8 = 0 && h.hnd % 8 = 0 &&
        h.typ % 8 = 0 then some h else none
  | _ => none

/-- Type entry t of a module. -/
def typeEntry (s : State) (ctx : Nat) (base : Double) (h : FarHead) (t : Nat) : Option Word :=
  farWord s ctx (farAt base (h.typ + 4 * t))

/-- A type entry breaks no rule (R328). -/
def typeEntryOk (h : FarHead) (t : Nat) (e : Word) : Bool :=
  if t = 0 then e = 0
  else bitsOf e 30 28 = 0 && bitsOf e 11 0 = 0 && bitsOf e 15 14 != 3 && bitsOf e 27 16 < h.nhnd

/-- Handler entry k read, none when a field is out of range. -/
def handlerEntry (s : State) (ctx : Nat) (base : Double) (h : FarHead) (k : Nat) : Option Handler :=
  match farDouble s ctx (farAt base (h.hnd + 8 * k)) with
  | none => none
  | some d =>
    let x : Handler := ⟨bitsOf d 63 48, bitsOf d 47 36 + 1, bitsOf d 31 16, d.getLsbD 15⟩
    if bitsOf d 35 32 = 0 && bitsOf d 14 0 = 0 && 1 ≤ x.nblk && x.first + x.nblk ≤ h.nvb then some x else none

/-! ## Virtual blocks (R330, R331) -/

/-- The length of a virtual block in doubles. -/
def virtLen (v : Hdr) : Nat := 1 + v.rc + (v.wc + 1) / 2 + v.n

/-- Read entry i of a virtual block. -/
def virtRead (ws : List Double) (i : Nat) : Double := blkWord ws (1 + i)

/-- Write entry j of a virtual block. -/
def virtWrite (ws : List Double) (j : Nat) : Word :=
  (blkWord ws (1 + (hdr ws).rc + j / 2)).extractLsb' (32 * (j % 2)) 32

/-- Doubles from 32-bit parts, least significant first. -/
def packParts (n : Nat) (parts : List Nat) : List Double :=
  (List.range ((parts.length + n - 1) / n)).map fun k =>
    BitVec.ofNat 64 (((List.range n).map fun i => (parts[n * k + i]?.getD 0) * 2 ^ (64 / n * i)).sum)

/-- A virtual block as a native block with the same structure, so that the rules of native blocks can be read on it: the
registers keep their place within a quad, and each write entry has a quad of its own. -/
def nativeForm (ws : List Double) : List Double :=
  let v := hdr ws
  let reads := (List.range v.rc).map fun i =>
    let e := virtRead ws i
    bitsOf e 61 50 % 4 * 2 ^ 22 + bitsOf e 49 40 * 2 ^ 12 + bitsOf e 39 30 * 2 ^ 2
  let writes := (List.range v.wc).map fun j => (4 * j + bitsOf (virtWrite ws j) 29 18 % 4) * 2 ^ 6
  [blkWord ws 0 &&& ~~~(0x7FFFFF : Double)] ++ packParts 2 reads ++ packParts 4 writes ++
    (List.range v.n).map fun k => blkWord ws (1 + v.rc + (v.wc + 1) / 2 + k)

/-- LAT of a node (R330 asks for zero). -/
def nodeLat : NodeFmt → Nat
  | .a f => f.lat.toNat
  | .i f => f.lat.toNat
  | .k f => f.lat.toNat
  | .m f => f.lat.toNat
  | _ => 0

/-- An instruction that a handler may hold (R331); a `BR` or `CALL` names a block of its handler. -/
def handlerNode (x : Handler) (w : Double) : Bool :=
  match nodeOf w with
  | none => false
  | some (o, f) =>
    let opc := o.toNat
    fieldOk opc f && nodeLat f = 0 &&
      (match f with
       | .a _ | .i _ | .k _ => opc < 0x1F0
       | .m g => opc = 0x123 || g.space = 0 || g.space = 4
       | .e _ => opc = 0x180
       | .x kind g =>
         if kind = 0 || kind = 2 then x.first ≤ g.ofs.toNat && g.ofs.toNat < x.first + x.nblk else kind = 4 || kind = 5)

/-- The registers and constants that a virtual block names exist, and no two write entries overlap (R330). -/
def virtNumbersOk (h : FarHead) (x : Handler) (ws : List Double) : Bool :=
  let v := hdr ws
  let nat := nativeForm ws
  let readOk (i : Nat) : Bool :=
    let e := virtRead ws i
    let last := bitsOf e 61 50 + entryWidth nat (readEntry nat i) / 32
    bitsOf e 29 0 = 0 && ((bitsOf e 63 62 = 0 && last ≤ x.nx) || (bitsOf e 63 62 = 2 && last ≤ h.nconst))
  let regs (j : Nat) : List (Nat × Nat) :=
    (List.range (writeWidth nat j / 32)).map fun i => (0, bitsOf (virtWrite ws j) 29 18 + i)
  let writeOk (j : Nat) : Bool :=
    let e := virtWrite ws j
    bitsOf e 17 0 = 0 && bitsOf e 31 30 = 0 && (regs j).all fun p => decide (p.2 < x.nx)
  (List.range v.rc).all readOk && (List.range v.wc).all writeOk && noRepeats ((List.range v.wc).flatMap regs)

/-- A virtual block of a handler breaks no rule (R330, R331, R333). -/
def virtOk (h : FarHead) (x : Handler) (ws : List Double) : Bool :=
  let v := hdr ws
  let join := bitsOf (blkWord ws 0) 22 0
  let nodes := (List.range v.n).map fun k => blkWord ws (1 + v.rc + (v.wc + 1) / 2 + k)
  bitsOf (blkWord ws 0) 37 23 = 0 && (join = 0 || (x.first ≤ join - 1 && join - 1 < x.first + x.nblk)) &&
    (v.wc % 2 = 0 || virtWrite ws v.wc == 0) && nodes.all (handlerNode x) && virtNumbersOk h x ws &&
    blockOk (nativeForm ws) 256 && (!x.nosend || !(nodes.any fun w => w.extractLsb' 55 9 == 0x180))

/-- The byte offsets of virtual blocks from an offset on, n of them, with their words. -/
def virtBlocks (s : State) (ctx : Nat) (base : Double) : Nat → Nat → Option (List (List Double))
  | 0, _ => some []
  | n + 1, ofs =>
    match farDouble s ctx (farAt base ofs) with
    | none => none
    | some h0 =>
      let len := virtLen (hdrOf h0)
      match farDoubles s ctx (farAt base ofs) len with
      | none => none
      | some ws => (virtBlocks s ctx base n (ofs + 8 * len)).map fun r => ws :: r

/-- A handler's blocks break no rule. -/
def handlerOk (h : FarHead) (bs : List (List Double)) (x : Handler) : Bool :=
  ((bs.drop x.first).take x.nblk).all (virtOk h x)

/-- Every block of a module as if one handler with the most registers held them all: what the rules ask of a block that
no handler names (R333). -/
def wholeModule (h : FarHead) : Handler := ⟨0, 4096, h.nvb, false⟩

/-- A list of options, all there. -/
def allSome {α : Type} : List (Option α) → Option (List α)
  | [] => some []
  | none :: _ => none
  | some a :: r => (allSome r).map fun l => a :: l

/-- A module read and checked (R333): none when it breaks a rule. Constants are fixed here (R329). -/
def readModule (s : State) (ctx : Nat) (base : Double) : Option FarModule :=
  (farHead s ctx base).bind fun h =>
    let types := allSome ((List.range 4096).map (typeEntry s ctx base h))
    let consts := allSome ((List.range h.nconst).map fun k => farWord s ctx (farAt base (h.const + 4 * k)))
    let handlers := allSome ((List.range h.nhnd).map (handlerEntry s ctx base h))
    match types, consts, handlers, virtBlocks s ctx base h.nvb h.vb with
    | some ts, some cs, some hs, some bs =>
      if (ts.zipIdx.all fun (e, t) => typeEntryOk h t e) && handlerOk h bs (wholeModule h) && hs.all (handlerOk h bs) then
        some ⟨ctx, base, ts, hs, cs, bs, []⟩
      else none
    | _, _, _, _ => none

/-- MODULE_LOAD (R333): the module is loaded whole, or rejected whole with a notice (R411). -/
def execModuleLoad (ctx : Nat) (base : Double) (s : State) : Outcome :=
  match (if base.toNat % 64 = 0 then readModule s ctx base else none) with
  | some m => .next { s with modules := (s.modules.filter fun n => !(n.ctx = ctx && n.base = base)) ++ [m] }
  | none => .next (s.notice ctx 0x50 0 0 0 0 0 0 base 0 0)

end Sys2Proof.Machine
end

