-- ==== Sys2Proof/Machine/Native.lean ====
section
/-! DEFINITION. What the native blocks of a translation do and what holds along their paths
(spec/14_farfoec_translation.md R334 to R337, R343, R344; spec/02_execution_model.md R57). -/

namespace Sys2Proof.Machine

/-! ## What a native block does -/

/-- The exit nodes of a block: kind and fields. -/
def blockExits (ws : List Double) : List (Nat × FmtX) :=
  (List.range (hdr ws).n).filterMap fun k => match (nodeAt ws k).2 with | .x kind f => some (kind.toNat, f) | _ => none

/-- The addresses to which a block's `BR` and `CALL` exits lead. -/
def exitTargets (b : NativeBlock) : List Double :=
  (blockExits b.words).filterMap fun (kind, f) => if kind = 0 || kind = 2 then some (directTarget b.addr f) else none

/-- The addresses to which a block's `CALL` exits lead. -/
def callTargets (b : NativeBlock) : List Double :=
  (blockExits b.words).filterMap fun (kind, f) => if kind = 2 then some (directTarget b.addr f) else none

/-- A block has an exit of a kind. -/
def hasExit (b : NativeBlock) (kind : Nat) : Bool := (blockExits b.words).any fun p => p.1 = kind

/-- The return addresses of a translation's calls. -/
def returnsOf (code : List NativeBlock) : List Double :=
  (code.filter (hasExit · 2)).map fun b => returnAddr b.addr b.words

/-- Where a warp may be after a block: its targets, its join, and for a `RET` every return address. -/
def nextAddrs (code : List NativeBlock) (b : NativeBlock) : List Double :=
  exitTargets b ++ (if (hdr b.words).join = 0 then [] else [joinAddr b.addr b.words]) ++
    (if hasExit b 2 then [returnAddr b.addr b.words] else []) ++ (if hasExit b 4 then returnsOf code else [])

/-- A set of registers as a mask. -/
def regMask (l : List Nat) : BitVec 256 := l.foldl (fun m r => m ||| (1 <<< r)) 0

/-- The words that a `MOVI` or `MOVHI` node delivers as constants, with fresh codes (R105). -/
def constWords (w : Double) : List Word :=
  match nodeOf w with
  | some (o, .k f) =>
    if o = 0x35 then [f.imm]
    else
      let v : Double := if f.mod = 2 then f.imm.signExtend 64 else f.imm.setWidth 64
      if typeWidth f.mod.toNat = 64 then [v.extractLsb' 0 32, v.extractLsb' 32 32] else [f.imm]
  | _ => []

/-- The words that a target takes from one `MOVI` or `MOVHI` node alone, which fires whenever its block does. -/
def constFeed (ws : List Double) (key : Nat) : Option (List Word) :=
  let feeds (t : BitVec 10) : Bool := t.toNat = key
  let entries := (List.range (hdr ws).rc).any fun i => (entryTargets (readEntry ws i)).any feeds
  match (List.range (hdr ws).n).filter fun j => (outsOf ws j).any fun p => feeds p.1 with
  | [j] =>
    let c := constWords (nodeWord ws j)
    let always := match nodeAt ws j with | (_, .k f) => f.pm = 0 | _ => false
    if entries || !always || c.isEmpty then none else some c
  | _ => none

/-- The lane-private words that a node's access reaches (Table 5.3): those of its address where one `MOVI` or `MOVHI` node
gives it, else all of them. -/
def slotMask (ws : List Double) (k : Nat) (f : FmtM) : BitVec 256 :=
  match constFeed ws (slotKey 0 k) with
  | some c =>
    let o := (effAddr (c.map fresh) f.ofs).toNat
    regMask ((List.range ((2 ^ bitsOf f.mod 3 0 + 3) / 4)).map fun i => o / 4 + i)
  | none => BitVec.allOnes 256

/-- The lane-private words that the nodes of a block reach by an opcode; `always` leaves out what may store nothing or at
an address that is not known. -/
def slotsOf (opc : Nat) (always : Bool) (ws : List Double) : BitVec 256 :=
  (List.range (hdr ws).n).foldl (fun m k =>
    match nodeAt ws k with
    | (o, .m f) =>
      let r := slotMask ws k f
      if o.toNat != opc || f.space != 1 || (always && (f.pm != 0 || r = BitVec.allOnes 256)) then m else m ||| r
    | _ => m) 0

/-- The registers of a class (0 lane, 1 uniform, 2 the lane-private words) that a block reads. -/
def readsOf (cls : Nat) (ws : List Double) : BitVec 256 :=
  if cls = 2 then slotsOf 0x120 false ws
  else
    regMask ((List.range (hdr ws).rc).flatMap fun i =>
      let e := readEntry ws i
      if bitsOf e 31 30 = cls then (List.range (entryWidth ws e / 32)).map fun j => bitsOf e 29 22 + j else [])

/-- The registers of a class that a block writes; of the lane-private words those that it may write. -/
def writesOf (cls : Nat) (ws : List Double) : BitVec 256 :=
  if cls = 2 then slotsOf 0x121 false ws
  else regMask (((List.range (hdr ws).wc).flatMap (writeRegs ws)).filterMap fun p => if p.1 = cls then some p.2 else none)

/-! ## Reading a translation along its paths -/

/-- A value for each block of a translation, improved as often as there are blocks. -/
def settleBlocks {α : Type} (code : List NativeBlock) (start : α) (f : (Double → α) → NativeBlock → α) : Double → α :=
  let look (m : List (Double × α)) (a : Double) : α := ((m.find? (·.1 == a)).map (·.2)).getD start
  let round (m : List (Double × α)) : List (Double × α) := code.map fun b => (b.addr, f (look m) b)
  look ((List.range code.length).foldl (fun m _ => round m) (code.map fun b => (b.addr, start)))

/-- The registers of a class whose values a block may still read, or one that follows it before it writes them. -/
def liveAt (code : List NativeBlock) (cls : Nat) : Double → BitVec 256 :=
  settleBlocks code 0 fun live b =>
    let written := if cls = 2 then slotsOf 0x121 true b.words else writesOf cls b.words
    readsOf cls b.words ||| (((nextAddrs code b).foldl (fun m a => m ||| live a) 0) &&& ~~~written)

/-- A block ends its region by its commit: it holds a commit operation (R57). Otherwise the region lasts until the next
REGION block is dispatched, and the block's own writes fall inside it. -/
def endsRegion (b : NativeBlock) : Bool :=
  (List.range (hdr b.words).n).any fun k => commitClass (nodeAt b.words k).1.toNat

/-- The blocks that may run inside a region: a handler is reached outside any, since `rcv` holds a commit operation
(R57, R335). -/
def inRegion (code : List NativeBlock) : Double → Bool :=
  settleBlocks code false fun inside b =>
    (hdr b.words).region ||
      code.any fun c => inside c.addr && !endsRegion c && (nextAddrs code c).contains b.addr

/-- The registers of a class that a region may have read when a block of it commits, those that the block itself reads
among them; none when the block's commit ends its region (R57). -/
def regionReads (code : List NativeBlock) (cls : Nat) : Double → BitVec 256 :=
  settleBlocks code 0 fun before b =>
    if !inRegion code b.addr || endsRegion b then 0
    else
      readsOf cls b.words |||
        if (hdr b.words).region then 0
        else (code.filter fun c => (nextAddrs code c).contains b.addr).foldl (fun m c => m ||| before c.addr) 0

/-- The lane registers whose words are known at a block on every path: `v15`, which the runtime keeps zero (Table 14.5), and
those that a constant was last written to. -/
def knownAt (code : List NativeBlock) (entry : Double) : Double → List (Nat × Word) :=
  settleBlocks code [] fun known b =>
    let out (c : NativeBlock) : List (Nat × Word) :=
      let consts := (List.range (hdr c.words).wc).flatMap fun j =>
        match constFeed c.words (writeKey j) with
        | some ws => ((writeRegs c.words j).zip ws).filterMap fun (p, v) => if p.1 = 0 then some (p.2, v) else none
        | none => []
      ((known c.addr).filter fun p => !(writesOf 0 c.words).getLsbD p.1) ++ consts
    if b.addr = entry then [(15, 0)]
    else
      match (code.filter fun c => (nextAddrs code c).contains b.addr).map out with
      | [] => []
      | k :: ks => k.filter fun p => ks.all (·.contains p)

/-- The blocks that a called part of a handler may run, in which a call entry is on the split stack. -/
def inCallee (code : List NativeBlock) : Double → Bool :=
  settleBlocks code false fun called b =>
    code.any fun c => (callTargets c).contains b.addr || (called c.addr && !(hasExit c 4) && (nextAddrs code c).contains b.addr) ||
      (called c.addr && hasExit c 4 && (exitTargets c).contains b.addr)

end Sys2Proof.Machine
end

