-- ==== Sys2Proof/Machine/Translate.lean ====
section
/-! DEFINITION. The translation of a handler: what its native blocks and maps must be (spec/14_farfoec_translation.md R329,
R331, R334 to R337, R343, R344), and the binding of types (R338, R340, R341). The runtime's translator brings the blocks;
the model holds them to the rules, and a translation that breaks one has failed (notes/assumptions/35.md). -/

namespace Sys2Proof.Machine

/-! ## Fresh addresses (R340, R341) -/

/-- The byte ranges that a translation writes: blocks, and its array of maps. -/
def mapBytes (r : MapRecord) : Nat := 16 + (4 * r.entries.length + 15) / 16 * 16

/-- The byte ranges of blocks. -/
def codeRanges (code : List NativeBlock) : List (Nat × Nat) := code.map fun b => (b.addr.toNat, 8 * b.words.length)

/-- Two byte ranges have no byte in common. -/
def apart (p q : Nat × Nat) : Bool := p.1 + p.2 ≤ q.1 || q.1 + q.2 ≤ p.1

/-- No two ranges of a list have a byte in common. -/
def allApart : List (Nat × Nat) → Bool
  | [] => true
  | p :: r => r.all (apart p) && allApart r

/-- The block addresses that a warp holds: its next block, its stack, its region entry, its handlers. -/
def heldAddrs (s : State) (w : WarpId) (x : Warp) : List Nat :=
  (x.pc :: (x.blk.map (·.addr)).toList ++ (allEntries s w).map (·.addr) ++ (x.region.map (·.addr)).toList ++
    x.binds.map (·.2.handler)).map (·.toNat)

/-- The block addresses that the warps of a context hold. -/
def reachedAddrs (s : State) (ctx : Nat) : List Nat :=
  s.bays.flatMap fun (b, y) => (y.warps.filter fun p => s.ctxOf (warpIdOf b p.1) = ctx).flatMap fun p =>
    heldAddrs s (warpIdOf b p.1) p.2

/-- A translation lies where no warp of the context can yet be (R341): apart in itself, from the context's earlier
translations and its binding table, and at no address that a warp holds. -/
def freshPlace (s : State) (t : Translation) : Bool :=
  let new := (t.mapsAt.toNat, (t.maps.map mapBytes).sum) :: codeRanges t.code
  let old := (s.bindings.filter (·.ctx = t.ctx)).flatMap fun b => (b.table.toNat, 32768) :: codeRanges b.code
  allApart new && (new.all fun p => apart p (t.table.toNat, 32768) && old.all (apart p)) &&
    (reachedAddrs s t.ctx).all fun a => new.all fun p => a < p.1 || p.1 + p.2 ≤ a

/-! ## Blocks -/

/-- A native block is one that dispatch accepts, at an address of its own. -/
def nativeOk (b : NativeBlock) : Bool :=
  b.addr.toNat % 8 = 0 && canonical b.addr && b.words.length = (hdr b.words).len && blockOk b.words 256 &&
    (firstUnimplemented b.words).isNone

/-- The runtime block of a translation (Table 14.8). -/
def runtimeAddr (maps : List MapRecord) (rblk : Nat) : Option Double :=
  (maps.find? fun r => r.vb = 0xFFFF && r.rblk = rblk).map (·.addr)

/-- The instructions that a translated handler may hold (R331, R334): what its virtual blocks may hold, and accesses to
lane-private slots; its exits are `BR`, `CALL` and `RET`, since each `HALT` has become a branch to `next` (R335). -/
def translatedNode (w : Double) : Bool :=
  match nodeOf w with
  | none => false
  | some (o, f) =>
    let opc := o.toNat
    match f with
    | .a _ | .i _ | .k _ => opc < 0x1F0
    | .m g => opc = 0x123 || g.space = 0 || g.space = 1 || g.space = 4
    | .e _ => opc = 0x180
    | .x kind _ => kind = 0 || kind = 2 || kind = 4

/-- The native block that begins a virtual block. -/
def firstOf (code : List NativeBlock) (v : Nat) : Option NativeBlock := code.find? fun b => b.virt = v

/-- The constants that a virtual block reads are placed in its translation (R329). -/
def constsPlaced (m : FarModule) (code : List NativeBlock) (v : Nat) : Bool :=
  let ws := m.blocks[v]?.getD []
  let nat := nativeForm ws
  let placed := (code.filter (·.virt = v)).flatMap fun b =>
    (List.range (hdr b.words).n).flatMap fun k => constWords (nodeWord b.words k)
  (List.range (hdr ws).rc).all fun i =>
    let e := virtRead ws i
    bitsOf e 63 62 != 2 || (List.range (entryWidth nat (readEntry nat i) / 32)).all fun j =>
      (m.consts[bitsOf e 61 50 + j]?).any placed.contains

/-- The opcodes of a virtual block. -/
def virtOpcodes (ws : List Double) : List (BitVec 9 × NodeFmt) :=
  let v := hdr ws
  (List.range v.n).filterMap fun k => nodeOf (blkWord ws (1 + v.rc + (v.wc + 1) / 2 + k))

/-- A handler may run in a truss region (R336): nothing sent, no atomic, no call, and at most two stores, of 32 bits to
`.gbl`. -/
def eligible (m : FarModule) (x : Handler) : Bool :=
  let nodes := ((m.blocks.drop x.first).take x.nblk).flatMap virtOpcodes
  let stores := nodes.filter fun p => p.1 = 0x121
  let allowed (p : BitVec 9 × NodeFmt) : Bool :=
    match p.2 with
    | .m f => p.1.toNat < 0x128 && (p.1 != 0x121 || (f.space = 0 && bitsOf f.mod 3 0 = 2))
    | .x kind _ => kind = 0 || kind = 5
    | _ => true
  x.nosend && stores.length ≤ 2 && nodes.all allowed

/-- A handler's virtual blocks hold a node of an opcode. -/
def virtHolds (m : FarModule) (x : Handler) (opc : Nat) : Bool :=
  (((m.blocks.drop x.first).take x.nblk).flatMap virtOpcodes).any fun p => p.1.toNat = opc

/-- A block holds a node of an opcode. -/
def holdsOpc (opc : Nat) (b : NativeBlock) : Bool := (List.range (hdr b.words).n).any fun k => (nodeAt b.words k).1.toNat = opc

/-- A handler's translation fits a truss image of the region shape that a dispatcher team of the context declares: the
image that comes with it is a full one that such a region takes, and where the handler loads, every port that serves loads,
as a route to its `i2` shows, has XFT = 1 (R336, R212, R220, R225). -/
def trussFits (s : State) (m : FarModule) (x : Handler) (t : Translation) : Bool :=
  let rd (i : Nat) : Option W40 := t.truss[i]?.map fresh
  s.bays.any fun (_, y) => y.regions.any fun g =>
    match y.teams.find? (·.key == g.key) with
    | none => false
    | some v =>
      v.ctx = t.ctx && g.col = 0 &&
        match checkImage rd g v.decl with
        | .error _ => false
        | .ok (hd, ps) =>
          !hd.pln && (!virtHolds m x 0x120 || (imageRoutes g ps).all fun (r, c, i, _) =>
            c != 0 || i != 2 || (lastPacket ps 4 r 0).any fun q => (wordAt q.p.words 3).getLsbD 3)

/-- Every type that has a handler may be placed in the truss: they share its one translation (R340), and PLACE 0b01 keeps a
type on bays (Table 14.2, R336). -/
def handlerInTruss (m : FarModule) (k : Nat) : Bool :=
  m.types.all fun e => !(e.getLsbD 31 && bitsOf e 27 16 = k) || bitsOf e 15 14 = 0 || bitsOf e 15 14 = 2

/-- EXPORT is set only on the entry block of an eligible handler whose types may go to the truss, with REGION, the
descriptor of R336, the join at `next`, and a path that stays in one region and writes `v8`–`v14` only (R337). The handler
fits a truss image, and its stores have become results, which the path writes: it holds no `ST` (R336). -/
def exportsOk (s : State) (m : FarModule) (x : Handler) (inTruss : Bool) (t : Translation) (next : Option Double) : Bool :=
  let exported := t.code.filter fun b => (hdr b.words).exp
  let path := t.code.filter fun b => b.addr != t.entry
  let written := path.foldl (fun r c => r ||| writesOf 0 c.words) 0
  exported.all fun b =>
    let d := exportWord b.words
    b.addr = t.entry && (hdr b.words).region && inTruss && eligible m x && trussFits s m x t &&
      bitsOf d 63 62 = 0 && bitsOf d 57 50 = 0 && bitsOf d 49 46 = 3 && some (joinAddr b.addr b.words) = next &&
      !(t.code.any (holdsOpc 0x121)) && written &&& ~~~regMask [8, 9, 10, 11, 12, 13, 14] = 0 &&
      (!virtHolds m x 0x121 || regMask [8, 9, 10, 11] &&& ~~~written = 0) &&
      path.all fun c => !(hdr c.words).region && writesOf 1 c.words = 0

/-! ## Entry and end of a handler's run (R331) -/

/-- Where a lane may be after virtual block v of a handler, as block numbers: `BR` and `CALL` targets, the join, a call's
return, and for a `RET` every return. -/
def virtNext (vs : List NativeBlock) (b : NativeBlock) : List Double :=
  let v := hdr b.words
  let exits (c : NativeBlock) (kind : Nat) : List FmtX :=
    (virtOpcodes c.words).filterMap fun p => match p.2 with | .x k f => if k = kind then some f else none | _ => none
  let join := bitsOf (blkWord b.words 0) 22 0
  let returns (c : NativeBlock) : List Double := if (exits c 2).isEmpty then [] else [c.addr + 1]
  (exits b 0 ++ exits b 2).map (fun f => f.ofs.setWidth 64) ++ (if join = 0 then [] else [BitVec.ofNat 64 (join - 1)]) ++
    returns b ++ if (exits b 4).isEmpty || v.n = 0 then [] else vs.flatMap returns

/-- The virtual registers that a virtual block writes. -/
def virtWrites (ws : List Double) : BitVec 4096 :=
  let nat := nativeForm ws
  ((List.range (hdr ws).wc).flatMap fun j =>
    (List.range (writeWidth nat j / 32)).map fun i => bitsOf (virtWrite ws j) 29 18 + i).foldl (fun m r => m ||| (1 <<< r)) 0

/-- The virtual registers that a handler may have written when a lane reaches one of its virtual blocks. -/
def writtenBefore (m : FarModule) (x : Handler) : Nat → BitVec 4096 :=
  let vs := (List.range x.nblk).map fun i =>
    (⟨BitVec.ofNat 64 (x.first + i), m.blocks[x.first + i]?.getD [], x.first + i⟩ : NativeBlock)
  let at' := settleBlocks vs 0 fun before b =>
    (vs.filter fun c => (virtNext vs c).contains b.addr).foldl (fun r c => r ||| before c.addr ||| virtWrites c.words) 0
  fun v => at' (BitVec.ofNat 64 v)

/-- The virtual registers that still hold the zero of the handler's entry (R331) where a native block begins: `x0` to `x3`
hold the message, and every other one is zero until the handler writes it. -/
def zeroRegs (m : FarModule) (x : Handler) (code : List NativeBlock) (b : NativeBlock) : BitVec 4096 :=
  let own := if (firstOf code b.virt).any (·.addr = b.addr) then 0 else virtWrites (m.blocks[b.virt]?.getD [])
  ~~~(writtenBefore m x b.virt ||| own ||| 15)

/-- Where a map names a virtual register that still holds the zero of the entry, its native register holds no other word
that the code fixes (R331). A zero that no map names has been folded into the code or is dead, as `recordOk` sees to. -/
def zerosPlaced (m : FarModule) (x : Handler) (t : Translation) : Bool :=
  let known := knownAt t.code t.entry
  t.maps.all fun r => t.code.all fun b =>
    b.addr != r.addr || r.entries.all fun e =>
      e.kind != 0 || !(zeroRegs m x t.code b).getLsbD e.xreg || (known b.addr).all fun p => p.1 != e.loc || p.2 = 0

/-- A virtual block's `HALT` is an exit to `next` in its translation, and no other exit leads there (R335). -/
def haltsOk (m : FarModule) (x : Handler) (code : List NativeBlock) (next : Option Double) : Bool :=
  (List.range x.nblk).all fun i =>
    let halts := (virtOpcodes (m.blocks[x.first + i]?.getD [])).any fun p => match p.2 with | .x kind _ => kind = 5 | _ => false
    halts == code.any fun b => b.virt = x.first + i && (exitTargets b).any fun a => some a = next

/-- REGION is set where a virtual region begins, and no block overwrites a lane register, a uniform register or a
lane-private word that its region has read: the translator begins a new region there (R337). -/
def regionsOk (m : FarModule) (x : Handler) (code : List NativeBlock) : Bool :=
  let begins := (List.range x.nblk).all fun i =>
    !(hdr (m.blocks[x.first + i]?.getD [])).region || (firstOf code (x.first + i)).any fun b => (hdr b.words).region
  begins && ([0, 1, 2] : List Nat).all fun cls => code.all fun b => writesOf cls b.words &&& regionReads code cls b.addr = 0

/-- A block that a group or a join of some blocks can name (R343). A group comes of a block with several exits, or of the
export block, whose lanes may come back to run the path (R47). -/
def groupTarget (code : List NativeBlock) (b : NativeBlock) : Bool :=
  code.any fun c => (((hdr c.words).exp || decide (2 ≤ (hdr c.words).exits)) && (exitTargets c).contains b.addr) ||
    ((hdr c.words).join != 0 && joinAddr c.addr c.words = b.addr)

/-- The blocks on which R343 asks for SAFE: the entry, region entries, and what a group or a join can name. -/
def safeKind (t : Translation) (b : NativeBlock) : Bool :=
  b.addr = t.entry || (hdr b.words).region || groupTarget t.code b

/-- A translation writes no register that another use keeps (R334): `v8`–`v14` only as the results of an exported path,
`v0:3` only when no map but the entry's names them, and of the uniform registers `w16`–`w63`. -/
def registersOk (t : Translation) : Bool :=
  let lane := t.code.foldl (fun m b => m ||| writesOf 0 b.words) 0
  let uni := t.code.foldl (fun m b => m ||| writesOf 1 b.words) 0
  let exports := t.code.any fun b => (hdr b.words).exp
  let message := t.maps.any fun r => r.addr != t.entry && r.entries.any fun e => e.kind = 0 && e.loc < 4
  lane &&& regMask ([4, 5, 6, 7, 15] ++ (if message then [0, 1, 2, 3] else []) ++
      if exports then [] else [8, 9, 10, 11, 12, 13, 14]) = 0 && uni &&& regMask (List.range 16) = 0

/-! ## Maps (R343, R344) -/

/-- The stepping tag that R344 and R318 give a translation for this module. -/
def mapStep : Nat := devTag

/-- An entry names a virtual register of its handler and a place where a translation may keep it (R334, Table 14.9). The
message's four words are named whatever the handler's NX (R344). -/
def mapEntryOk (x : Handler) (e : MapEntry) : Bool :=
  (e.kind = 0 && e.loc < 4 && e.xreg = e.loc) ||
    (e.xreg < x.nx && e.loc ≤ 255 && ((e.kind = 0 && 16 ≤ e.loc) || e.kind = 1))

/-- A handler entry's map: the message stands in `v0:3` (R344). -/
def entryMap : List MapEntry := [⟨0, 0, 0⟩, ⟨1, 0, 1⟩, ⟨2, 0, 2⟩, ⟨3, 0, 3⟩]

/-- The lane registers (kind 0) or lane-private words (kind 1) that a map names. -/
def mapRegs (r : MapRecord) (kind : Nat) : BitVec 256 :=
  regMask (r.entries.filterMap fun e => if e.kind = kind then some e.loc else none)

/-- Map records rise by address. -/
def mapsRise : List MapRecord → Bool
  | a :: b :: r => a.addr.toNat < b.addr.toNat && mapsRise (b :: r)
  | _ => true

/-- The record of a SAFE block is right: it names the block's virtual block and handler and every register and
lane-private word that is still read, and no uniform register is (R343, R344). Its own code is outside every call. -/
def recordOk (k : Nat) (x : Handler) (t : Translation) (b : NativeBlock) (r : MapRecord) : Bool :=
  let carried := (~~~regMask [4, 5, 6, 7, 8, 9, 10, 11, 12, 13, 14, 15])
  r.vb = b.virt && r.hnd = k && r.step = mapStep && r.rblk = 0 && r.entries.length ≤ 4096 &&
    r.entries.all (mapEntryOk x) && noRepeats (r.entries.map fun e => (0, e.xreg)) &&
    (b.addr != t.entry || r.entries = entryMap) && liveAt t.code 0 b.addr &&& carried &&& ~~~mapRegs r 0 = 0 &&
    liveAt t.code 2 b.addr &&& ~~~mapRegs r 1 = 0 &&
    liveAt t.code 1 b.addr &&& ~~~regMask (List.range 16) = 0 && !inCallee t.code b.addr

/-- SAFE stands on the blocks of R343 and on no other; each has one record, and a virtual block has one at most, by which
a move finds it again (R347). -/
def safeOk (k : Nat) (x : Handler) (t : Translation) : Bool :=
  (t.code.all fun b => (hdr b.words).safe == safeKind t b &&
    if (hdr b.words).safe then (t.maps.find? fun r => r.addr = b.addr).any (recordOk k x t b)
    else !(t.maps.any fun r => r.addr = b.addr)) &&
    mapsRise t.maps && (t.maps.all fun r => t.code.any fun b => b.addr = r.addr) &&
    noRepeats (t.maps.map fun r => (0, r.vb))

/-! ## A whole translation -/

/-- A handler's translation keeps every rule of the translator. -/
def translationOk (s : State) (m : FarModule) (k : Nat) (x : Handler) (next : Option Double) (t : Translation) : Bool :=
  let targets := t.code.flatMap fun b => exitTargets b ++
    (if (hdr b.words).join = 0 then [] else [joinAddr b.addr b.words]) ++
    (if hasExit b 2 then [returnAddr b.addr b.words] else [])
  t.code.all nativeOk && freshPlace s t &&
    (t.code.all fun b => x.first ≤ b.virt && b.virt < x.first + x.nblk &&
      (List.range (hdr b.words).n).all fun i => translatedNode (nodeWord b.words i)) &&
    ((List.range x.nblk).all fun i => (firstOf t.code (x.first + i)).isSome && constsPlaced m t.code (x.first + i)) &&
    ((firstOf t.code x.first).map (·.addr) == some t.entry) &&
    (targets.all fun a => some a = next || t.code.any fun b => b.addr = a) &&
    haltsOk m x t.code next && zerosPlaced m x t && exportsOk s m x (handlerInTruss m k) t next &&
    regionsOk m x t.code && registersOk t && safeOk k x t

/-- The handlers that a block binds to event slots (R145): each an address where a constant gives it, none where it does
not. -/
def handlersBound (b : NativeBlock) : List (Option Double) :=
  (List.range (hdr b.words).n).filterMap fun k =>
    if (nodeAt b.words k).1 = 0x170 then some ((constFeed b.words (slotKey 0 k)).map fun c => BitVec.ofNat 64 (tokVal (c.map fresh)))
    else none

/-- The blocks of the runtime on which R343 asks for SAFE: the five that it names, the entries of the runtime's own handlers,
region entries, and what a group, a join or an event can name. -/
def runtimeKind (t : Translation) (b : NativeBlock) : Bool :=
  ([0, 1, 2, 3, 4].any fun k => runtimeAddr t.maps k = some b.addr) || b.addr = t.entry || b.addr = t.reject ||
    (hdr b.words).region || groupTarget t.code b || (t.code.flatMap handlersBound).contains (some b.addr)

/-- SAFE stands on the runtime's blocks of R343 and on no other, each of them with one record; at such a block no register
`w16`–`w63` is needed and no call entry is on the split stack. A block that only an event handler's computed address can
name may have SAFE. -/
def runtimeSafe (t : Translation) : Bool :=
  let computed := (t.code.flatMap handlersBound).contains none
  t.code.all fun b =>
    let safe := (hdr b.words).safe
    (safe == runtimeKind t b || (safe && computed)) && safe == t.maps.any (·.addr = b.addr) &&
      (!safe || (liveAt t.code 1 b.addr &&& ~~~regMask (List.range 16) = 0 && !inCallee t.code b.addr))

/-- The runtime's own blocks keep the rules (R335, R337, R339, R343, R344): `rcv`, `look`, `disp`, `lwait` and `next`
have SAFE, no REGION and a record without entries, and `lwait` follows `disp`. Every other SAFE block has a record too, with
an RBLK that Table 14.8 does not give: 5 and 6 for the entries of type 0's handler and of the reject handler, which name the
message, and others from 7 on, which name nothing (DESIGN CHOICE, notes/assumptions/35.md). -/
def runtimeOk (s : State) (t : Translation) : Bool :=
  let at' (k : Nat) : Option NativeBlock := (runtimeAddr t.maps k).bind fun a => t.code.find? fun b => b.addr = a
  let plain (r : MapRecord) : Bool :=
    r.vb = 0xFFFF && r.hnd = 0xFFF && r.step = mapStep &&
      (((r.rblk < 5 || (7 ≤ r.rblk && r.rblk < 256)) && r.entries.isEmpty) ||
        (((r.rblk = 5 && r.addr = t.entry) || (r.rblk = 6 && r.addr = t.reject)) && r.entries = entryMap))
  t.code.all nativeOk && freshPlace s t && (t.code.all fun b => b.virt = 0xFFFF) && mapsRise t.maps &&
    t.maps.all plain && noRepeats (t.maps.map fun r => (0, r.rblk)) && (t.maps.all fun r => t.code.any (·.addr = r.addr)) && runtimeSafe t &&
    ((List.range 5).all fun k => (at' k).any fun b => !(hdr b.words).region) &&
    ((at' 2).map fun b => returnAddr b.addr b.words) == runtimeAddr t.maps 3 &&
    ([t.entry, t.reject].all fun a => t.code.any (·.addr = a))

/-! ## Writing and binding (R338, R340) -/

/-- Doubles written at their homes with fresh codes from an address on, none when one cannot be written. -/
def writeDoubles (ctx : Nat) : State → Double → List Double → Option State
  | s, _, [] => some s
  | s, va, d :: r => (farLoc s ctx va).bind fun l => writeDoubles ctx (s.setHomeWords l (doubleToks d)) (va + 8) r

/-- A map record as it lies in memory (Tables 14.8, 14.9), in doubles. -/
def recordDoubles (r : MapRecord) : List Double :=
  let entry (e : MapEntry) : Nat := e.xreg % 4096 * 2 ^ 20 + e.kind % 4 * 2 ^ 18 + e.loc % 256 * 2 ^ 8
  let words := (r.entries.map entry) ++ List.replicate ((4 - r.entries.length % 4) % 4) 0
  BitVec.ofNat 64 (r.vb % 65536 * 2 ^ 48 + r.hnd % 4096 * 2 ^ 36 + r.step % 16 * 2 ^ 32 + r.entries.length % 65536 * 2 ^ 16 +
    r.rblk % 256 * 2 ^ 8) :: r.addr :: packParts 2 words

/-- A translation's blocks and maps written (R340). -/
def writeTranslation (s : State) (t : Translation) : Option State :=
  (t.code.foldl (fun (a : Option State) b => a.bind fun u => writeDoubles t.ctx u b.addr b.words) (some s)).bind fun u =>
    writeDoubles t.ctx u t.mapsAt (t.maps.flatMap recordDoubles)

/-- A binding word written as bound (Table 14.6); a warp that waits on its line wakes (R149). -/
def bindWord (s : State) (l : Loc) (entry : Double) : State :=
  s.setHomeWords l (doubleToks ((entry &&& ~~~(7 : Double)) ||| 2))

/-- A translation that fails: the reject handler is bound, and the driver has a notice (R340, R411). -/
def bindReject (s : State) (t : Translation) (l : Loc) : State :=
  (bindWord s l t.reject).notice t.ctx 0x51 0 0 0 0 0 0 t.base 0 (BitVec.ofNat 64 t.typ)

/-- The binding table of a translation operand, once the runtime has set it up. -/
def State.binding (s : State) (t : Translation) : Option FarTable :=
  s.bindings.find? fun b => b.ctx = t.ctx && b.table = t.table && b.step = mapStep

/-- Records in the order of their addresses. -/
def mergeMaps (a b : List MapRecord) : List MapRecord := (a ++ b).mergeSort fun p q => decide (p.addr.toNat ≤ q.addr.toNat)

/-- The translation of a handler kept: its blocks and maps join those of its binding table, its entry its module's. -/
def keepTranslation (s : State) (m : FarModule) (k : Nat) (t : Translation) : State :=
  { s with
    modules := s.modules.map fun n => if n = m then { n with trans := aset n.trans k t.entry } else n
    bindings := s.bindings.map fun b =>
      if b.ctx = t.ctx && b.table = t.table && b.step = mapStep then
        { b with code := b.code ++ t.code, maps := mergeMaps b.maps t.maps }
      else b }

/-- The words of a binding table other than word 0 written as unbound, where they can be written. -/
def unbindWords (s : State) (t : Translation) : State :=
  ((List.range 4096).drop 1).foldl (fun (u : State) k =>
    match farLoc u t.ctx (t.table + BitVec.ofNat 64 (8 * k)) with
    | some l => u.setHomeWords l (doubleToks 0)
    | none => u) s

/-- The runtime sets up a binding table (R338): its blocks are written, and word 0 is bound, to the runtime's handler of
the empty type, before any other word. It stands in memory that is unbound there, or in place of the table of the stepping
that the context comes from, whose words become unbound (R347, notes/assumptions/35.md). -/
def setUpTable (s : State) (t : Translation) (l : Loc) : State :=
  let source := s.bindings.any fun b => b.ctx = t.ctx && b.table = t.table && b.step != mapStep
  let empty := (s.homeWord l).v = 0 && (s.homeWord (l.add 4)).v = 0
  if (s.binding t).isSome || !(empty || source) || !runtimeOk s t then s
  else
    match writeTranslation (if source then unbindWords s t else s) t with
    | none => s
    | some u => bindWord { u with bindings := u.bindings ++ [⟨t.ctx, t.table, t.code, mergeMaps [] t.maps, mapStep⟩] } l t.entry

/-- The blocks and maps of another stepping, from which a context is to be moved (R347), kept as its source; none when the
translation is of this stepping. -/
def sourceStep (t : Translation) : Option Nat :=
  match t.maps with
  | [] => none
  | r :: _ => if r.step != mapStep && t.maps.all (·.step = r.step) then some r.step else none

/-- A source of a move kept: the maps S of R347. What the context already has of that stepping and table is replaced. -/
def keepSource (s : State) (t : Translation) (step : Nat) : State :=
  { s with bindings := (s.bindings.filter fun b => !(b.ctx = t.ctx && b.table = t.table && b.step = step)) ++
      [⟨t.ctx, t.table, t.code, mergeMaps [] t.maps, step⟩] }

/-- The handler of a type in a loaded module, with its number. -/
def typeHandler (m : FarModule) (typ : Nat) : Option (Nat × Handler) :=
  (m.types[typ]?).bind fun e =>
    if e.getLsbD 31 then (m.handlers[bitsOf e 27 16]?).map fun x => (bitsOf e 27 16, x) else none

/-- `translate(type t)` of R340 for a word that is translating: it becomes bound to the handler's earlier translation, to
the one the runtime brings, or to the reject handler. -/
def translateType (s : State) (t : Translation) (b : FarTable) (l : Loc) : State :=
  match s.modules.find? fun m => m.ctx = t.ctx && m.base = t.base with
  | none => bindReject s t l
  | some m =>
    match typeHandler m t.typ with
    | none => bindReject s t l
    | some (k, x) =>
      match aget m.trans k with
      | some entry => bindWord s l entry
      | none =>
        match (if t.ok && translationOk s m k x (runtimeAddr b.maps 4) t then writeTranslation s t else none) with
        | none => bindReject s t l
        | some u => bindWord (keepTranslation u m k t) l t.entry

/-- HANDLER_TRANSLATE (R338, R340): type 0 is the runtime's own, and comes first; of any other type a binding word that is
translating becomes bound. Any other binding word is left alone. For type 0, blocks and maps of another stepping are the
source of a move (R347). -/
def execHandlerTranslate (t : Translation) (s : State) : Outcome :=
  match (if t.typ = 0 then sourceStep t else none) with
  | some step => .next (keepSource s t step)
  | none =>
  match farLoc s t.ctx (t.table + BitVec.ofNat 64 (8 * t.typ)) with
  | none => .next s
  | some l =>
    if t.typ = 0 then .next (setUpTable s t l)
    else
      match s.binding t with
      | none => .next s
      | some b =>
        if (s.homeWord l).v != 1 || (s.homeWord (l.add 4)).v != 0 then .next s else .next (translateType s t b l)

end Sys2Proof.Machine
end

