-- ==== Sys2Proof/Machine/Error.lean ====
section
/-! DEFINITION. Soft errors beneath the check codes (spec/08_memory_model_and_check_codes.md R254, R257,
spec/18_fleet_reliability_service.md R398, R399, R408, spec/07_truss_fabric.md R210). -/

namespace Sys2Proof.Machine

/-- What becomes of a struck word: as it was, poisoned, or altered beneath its layer's notice. -/
def struck (k : ErrorKind) (w : W40) : W40 :=
  match k with
  | .corrected => w
  | .uncorrectable => { w with p := true }
  | .silent d c => { w with v := w.v ^^^ d, c := w.c ^^^ c }

/-- A correction layer's event in a bay: its counter, and for an uncorrectable word the time that AUTOB looks at
(R408, R397). -/
def countBay (k : ErrorKind) (x : Bay) : Bay :=
  match k with
  | .corrected => { x with corr := x.corr + 1 }
  | .uncorrectable => { x with
      unc := x.unc + 1
      uncTimes := (x.uncTimes.filter fun t => decide (x.clk < t + 2 ^ 30)) ++ [x.clk] }
  | .silent _ _ => x

/-- The log entry of a layer's event (Table 18.3). -/
def logStruck (s : State) (k : ErrorKind) (corrected unit num : Nat) (addr : Double) : State :=
  match k with
  | .corrected => s.logEvent corrected unit num addr 0 0
  | .uncorrectable => s.logEvent 0x03 unit num addr 0 0
  | .silent _ _ => s

/-- An event of a layer in a bay. -/
def bayStruck (s : State) (k : ErrorKind) (bay : Nat) (addr : Double) : State :=
  logStruck (s.modBay bay (countBay k)) k 0x01 0 bay addr

/-- The bank on which a stack's hash places a line once banks have been dropped, in their order (R399, R400): a drop
leaves every line where it was, except those of the dropped bank, which spread over the banks that remain. -/
def bankAfter (line : Nat) (dropped : List Nat) : Nat :=
  (dropped.foldl (fun (a : Nat × List Nat) (d : Nat) =>
    let left := a.2.filter (· != d)
    (if a.1 = d then left.getD (Config.bankSpread line d left.length % left.length) 0 else a.1, left))
    (Config.bankOf line % 256, List.range 256)).1

/-- The drift of a stack has passed a line, or no drift is active (R400): the line stands where the new hash places it. -/
def driftPast (x : Sill) (line : Nat) : Bool :=
  let i := Config.stackPlace line % (48000000000 / 128)
  let g := i / 8388608
  !x.act || g < x.reg || (g = x.reg && i % 8388608 < x.ptr)

/-- The bank that holds a line (`locate` of R400): by the new hash behind the drift's pointer, by the old hash before
it. -/
def locateBank (x : Sill) (line : Nat) : Nat :=
  bankAfter line (if driftPast x line then x.dropped else x.dropped.dropLast)

/-- A DRAM line that its sill die corrects counts toward its bank (R399). -/
def dramStruck (s : State) (k : ErrorKind) (pa : Nat) : State :=
  let stack := Config.stackOf (pa / 128) % 12
  let bank := locateBank (s.sill stack) (pa / 128)
  let s1 := match k with
    | .corrected => s.modSill stack fun x => { x with
        corr := aset x.corr bank (agetD x.corr bank 0 + 1)
        total := (x.total + 1) % 2 ^ 20 }
    | _ => s
  logStruck s1 k 0x02 1 (stack * 256 + bank) (BitVec.ofNat 64 pa)

/-- SOFT_ERROR (R254): a stored word, or an element's next firing, is struck. -/
def execSoftError (e : SoftError) (s : State) : Outcome :=
  match e.site with
  | .dram pa =>
    let a := pa / 4 * 4
    if !populated a then .next s
    else
      let s1 : State := { s with mem := s.mem.setWord a (struck e.kind (s.mem.word a)) }
      .next (if Config.loftBase ≤ a then logStruck s1 e.kind 0x01 2 0 (BitVec.ofNat 64 a) else dramStruck s1 e.kind a)
  | .ridge pa =>
    let a := pa / 4 * 4
    if !populated a then .next s
    else .next (logStruck { s with mem := s.mem.setWord a (struck e.kind (s.mem.word a)) } e.kind 0x01 2 0
      (BitVec.ofNat 64 a))
  | .copyBuffer b n =>
    match (s.bay b).copies[n]? with
    | none => .next s
    | some r => .next (match e.kind with
      | .uncorrectable => copyError (bayStruck s e.kind b 0) b r.kick r.seq .zero
      | _ => bayStruck s e.kind b 0)
  | .pad b ofs =>
    let o := ofs / 4 * 4
    .next (bayStruck (s.modBay b fun x => { x with pad := x.pad.setWord o (struck e.kind (x.pad.word o)) }) e.kind b
      (BitVec.ofNat 64 o))
  | .l1 b pa =>
    match (s.bay b).l1Find (pa / 128) with
    | none => .next s
    | some x =>
      let i := pa / 4 % 32
      let y : L1Line := { x with words := aput x.words i .zero (struck e.kind (agetD x.words i .zero)) }
      .next (bayStruck (s.modBay b fun z => z.l1Put (pa / 128) y) e.kind b (BitVec.ofNat 64 (pa / 4 * 4)))
  | .lane w r l =>
    match s.warp? w with
    | none => .next s
    | some x => .next (bayStruck (s.setWarp w (x.setReg r l (struck e.kind (x.reg r l)))) e.kind w.bay
        (BitVec.ofNat 64 (r * 64 + l)))
  | .uniform w r =>
    match s.warp? w with
    | none => .next s
    | some x => .next (bayStruck (s.setWarp w (x.setUreg r (struck e.kind (x.ureg r)))) e.kind w.bay
        (BitVec.ofNat 64 r))
  | .sram q i =>
    .next (bayStruck (s.modBay q.bay fun b => b.modElem q.row q.col fun y =>
      { y with sram := aput y.sram i .zero (struck e.kind (agetD y.sram i .zero)) }) e.kind q.bay (BitVec.ofNat 64 i))
  | .plane b p i =>
    let hit (m : MxPlane) : MxPlane :=
      { m with words := aput m.words i .zero (struck e.kind (agetD m.words i .zero)) }
    .next (bayStruck (s.modBay b fun y =>
      { y with mx := if p = 0 then { y.mx with pa := hit y.mx.pa } else { y.mx with pb := hit y.mx.pb } }) e.kind b
      (BitVec.ofNat 64 i))
  | .firing q => .next (s.modBay q.bay fun b => b.modElem q.row q.col fun y => { y with glitch := true })

end Sys2Proof.Machine
end

