-- ==== Sys2Proof/Machine/Integer.lean ====
section
/-! DEFINITION. The integer and logic nodes, moves, constants and special registers
(spec/04_compute_instructions.md R98 to R106). -/

namespace Sys2Proof.Machine

/-- A register-form integer node of result width `n`, its operation at the width and signedness of its type. -/
def intA (f : FmtA) (s : State) (n : Nat) (op : IntOp) : Outcome :=
  computeA f s n fun _ a b c => op (typeSigned f.mod.toNat) (typeWidth f.mod.toNat) a b c

/-- The immediate form of the same. -/
def intI (f : FmtI) (s : State) (n : Nat) (op : IntOp) : Outcome :=
  computeI f s n fun _ a b c => op (typeSigned f.mod.toNat) (typeWidth f.mod.toNat) a b c

/-! ## Register forms -/

/-- ADD (R99). -/
def execAdd (f : FmtA) (s : State) : Outcome := intA f s (typeWidth f.mod.toNat) addV

/-- SUB (R99). -/
def execSub (f : FmtA) (s : State) : Outcome := intA f s (typeWidth f.mod.toNat) subV

/-- ADDSAT (R99). -/
def execAddsat (f : FmtA) (s : State) : Outcome := intA f s (typeWidth f.mod.toNat) addsatV

/-- SUBSAT (R99). -/
def execSubsat (f : FmtA) (s : State) : Outcome := intA f s (typeWidth f.mod.toNat) subsatV

/-- MUL (R99). -/
def execMul (f : FmtA) (s : State) : Outcome := intA f s (typeWidth f.mod.toNat) mulV

/-- MULHI (R99). -/
def execMulhi (f : FmtA) (s : State) : Outcome := intA f s (typeWidth f.mod.toNat) mulhiV

/-- MAD (R99). -/
def execMad (f : FmtA) (s : State) : Outcome := intA f s (typeWidth f.mod.toNat) madV

/-- MADHI (R99). -/
def execMadhi (f : FmtA) (s : State) : Outcome := intA f s (typeWidth f.mod.toNat) madhiV

/-- DIV (R100). -/
def execDiv (f : FmtA) (s : State) : Outcome := intA f s (typeWidth f.mod.toNat) divV

/-- REM (R100). -/
def execRem (f : FmtA) (s : State) : Outcome := intA f s (typeWidth f.mod.toNat) remV

/-- MIN (R99). -/
def execMin (f : FmtA) (s : State) : Outcome := intA f s (typeWidth f.mod.toNat) minV

/-- MAX (R99). -/
def execMax (f : FmtA) (s : State) : Outcome := intA f s (typeWidth f.mod.toNat) maxV

/-- SAD (R99). -/
def execSad (f : FmtA) (s : State) : Outcome := intA f s (typeWidth f.mod.toNat) sadV

/-- NEG (R99). -/
def execNeg (f : FmtA) (s : State) : Outcome := intA f s (typeWidth f.mod.toNat) negV

/-- ABS (R99). -/
def execAbs (f : FmtA) (s : State) : Outcome := intA f s (typeWidth f.mod.toNat) absV

/-- AND (R99). -/
def execAnd (f : FmtA) (s : State) : Outcome := intA f s (typeWidth f.mod.toNat) andV

/-- OR (R99). -/
def execOr (f : FmtA) (s : State) : Outcome := intA f s (typeWidth f.mod.toNat) orV

/-- XOR (R99). -/
def execXor (f : FmtA) (s : State) : Outcome := intA f s (typeWidth f.mod.toNat) xorV

/-- ANDN (R99). -/
def execAndn (f : FmtA) (s : State) : Outcome := intA f s (typeWidth f.mod.toNat) andnV

/-- ORN (R99). -/
def execOrn (f : FmtA) (s : State) : Outcome := intA f s (typeWidth f.mod.toNat) ornV

/-- NOT (R99). -/
def execNot (f : FmtA) (s : State) : Outcome := intA f s (typeWidth f.mod.toNat) notV

/-- SHL (R101). -/
def execShl (f : FmtA) (s : State) : Outcome := intA f s (typeWidth f.mod.toNat) shlV

/-- SHR (R101). -/
def execShr (f : FmtA) (s : State) : Outcome := intA f s (typeWidth f.mod.toNat) shrV

/-- SAR (R101). -/
def execSar (f : FmtA) (s : State) : Outcome := intA f s (typeWidth f.mod.toNat) sarV

/-- ROL (R101). -/
def execRol (f : FmtA) (s : State) : Outcome := intA f s (typeWidth f.mod.toNat) rolV

/-- ROR (R101). -/
def execRor (f : FmtA) (s : State) : Outcome := intA f s (typeWidth f.mod.toNat) rorV

/-- FSHL (R101). -/
def execFshl (f : FmtA) (s : State) : Outcome := intA f s (typeWidth f.mod.toNat) fshlV

/-- POPC (R99). -/
def execPopc (f : FmtA) (s : State) : Outcome := intA f s 32 popcV

/-- CLZ (R99). -/
def execClz (f : FmtA) (s : State) : Outcome := intA f s 32 clzV

/-- CTZ (R99). -/
def execCtz (f : FmtA) (s : State) : Outcome := intA f s 32 ctzV

/-- BREV (R99). -/
def execBrev (f : FmtA) (s : State) : Outcome := intA f s (typeWidth f.mod.toNat) brevV

/-- BFE (R102). -/
def execBfe (f : FmtA) (s : State) : Outcome := intA f s (typeWidth f.mod.toNat) bfeV

/-- BFI (R102). -/
def execBfi (f : FmtA) (s : State) : Outcome := intA f s (typeWidth f.mod.toNat) bfiV

/-- PRMT (R103). -/
def execPrmt (f : FmtA) (s : State) : Outcome := intA f s (typeWidth f.mod.toNat) prmtV

/-- TST (R99). -/
def execTst (f : FmtA) (s : State) : Outcome := intA f s 32 tstV

/-- CMP.eq (R99). -/
def execCmpEq (f : FmtA) (s : State) : Outcome := intA f s 32 cmpEqV

/-- CMP.ne (R99). -/
def execCmpNe (f : FmtA) (s : State) : Outcome := intA f s 32 cmpNeV

/-- CMP.lt (R99). -/
def execCmpLt (f : FmtA) (s : State) : Outcome := intA f s 32 cmpLtV

/-- CMP.le (R99). -/
def execCmpLe (f : FmtA) (s : State) : Outcome := intA f s 32 cmpLeV

/-- CMP.gt (R99). -/
def execCmpGt (f : FmtA) (s : State) : Outcome := intA f s 32 cmpGtV

/-- CMP.ge (R99). -/
def execCmpGe (f : FmtA) (s : State) : Outcome := intA f s 32 cmpGeV

/-- PAND (R99). -/
def execPand (f : FmtA) (s : State) : Outcome := intA f s (typeWidth f.mod.toNat) pandV

/-- POR (R99). -/
def execPor (f : FmtA) (s : State) : Outcome := intA f s (typeWidth f.mod.toNat) porV

/-- PXOR (R99). -/
def execPxor (f : FmtA) (s : State) : Outcome := intA f s (typeWidth f.mod.toNat) pxorV

/-- PNOT (R99). -/
def execPnot (f : FmtA) (s : State) : Outcome := intA f s (typeWidth f.mod.toNat) pnotV

/-- LEA (R99): scaled by EXT[2:0]. -/
def execLea (f : FmtA) (s : State) : Outcome :=
  computeA f s 64 fun _ a b _ => leaV (typeSigned f.mod.toNat) (bitsOf f.ext 2 0) a b

/-! ## Immediate forms -/

/-- ADD with an immediate (R99). -/
def execAddI (f : FmtI) (s : State) : Outcome := intI f s (typeWidth f.mod.toNat) addV

/-- SUB with an immediate (R99). -/
def execSubI (f : FmtI) (s : State) : Outcome := intI f s (typeWidth f.mod.toNat) subV

/-- ADDSAT with an immediate (R99). -/
def execAddsatI (f : FmtI) (s : State) : Outcome := intI f s (typeWidth f.mod.toNat) addsatV

/-- SUBSAT with an immediate (R99). -/
def execSubsatI (f : FmtI) (s : State) : Outcome := intI f s (typeWidth f.mod.toNat) subsatV

/-- MUL with an immediate (R99). -/
def execMulI (f : FmtI) (s : State) : Outcome := intI f s (typeWidth f.mod.toNat) mulV

/-- MULHI with an immediate (R99). -/
def execMulhiI (f : FmtI) (s : State) : Outcome := intI f s (typeWidth f.mod.toNat) mulhiV

/-- MAD with an immediate (R99). -/
def execMadI (f : FmtI) (s : State) : Outcome := intI f s (typeWidth f.mod.toNat) madV

/-- MADHI with an immediate (R99). -/
def execMadhiI (f : FmtI) (s : State) : Outcome := intI f s (typeWidth f.mod.toNat) madhiV

/-- DIV with an immediate (R100). -/
def execDivI (f : FmtI) (s : State) : Outcome := intI f s (typeWidth f.mod.toNat) divV

/-- REM with an immediate (R100). -/
def execRemI (f : FmtI) (s : State) : Outcome := intI f s (typeWidth f.mod.toNat) remV

/-- MIN with an immediate (R99). -/
def execMinI (f : FmtI) (s : State) : Outcome := intI f s (typeWidth f.mod.toNat) minV

/-- MAX with an immediate (R99). -/
def execMaxI (f : FmtI) (s : State) : Outcome := intI f s (typeWidth f.mod.toNat) maxV

/-- SAD with an immediate (R99). -/
def execSadI (f : FmtI) (s : State) : Outcome := intI f s (typeWidth f.mod.toNat) sadV

/-- AND with an immediate (R99). -/
def execAndI (f : FmtI) (s : State) : Outcome := intI f s (typeWidth f.mod.toNat) andV

/-- OR with an immediate (R99). -/
def execOrI (f : FmtI) (s : State) : Outcome := intI f s (typeWidth f.mod.toNat) orV

/-- XOR with an immediate (R99). -/
def execXorI (f : FmtI) (s : State) : Outcome := intI f s (typeWidth f.mod.toNat) xorV

/-- ANDN with an immediate (R99). -/
def execAndnI (f : FmtI) (s : State) : Outcome := intI f s (typeWidth f.mod.toNat) andnV

/-- ORN with an immediate (R99). -/
def execOrnI (f : FmtI) (s : State) : Outcome := intI f s (typeWidth f.mod.toNat) ornV

/-- SHL with an immediate (R101). -/
def execShlI (f : FmtI) (s : State) : Outcome := intI f s (typeWidth f.mod.toNat) shlV

/-- SHR with an immediate (R101). -/
def execShrI (f : FmtI) (s : State) : Outcome := intI f s (typeWidth f.mod.toNat) shrV

/-- SAR with an immediate (R101). -/
def execSarI (f : FmtI) (s : State) : Outcome := intI f s (typeWidth f.mod.toNat) sarV

/-- ROL with an immediate (R101). -/
def execRolI (f : FmtI) (s : State) : Outcome := intI f s (typeWidth f.mod.toNat) rolV

/-- ROR with an immediate (R101). -/
def execRorI (f : FmtI) (s : State) : Outcome := intI f s (typeWidth f.mod.toNat) rorV

/-- FSHL with an immediate (R101). -/
def execFshlI (f : FmtI) (s : State) : Outcome := intI f s (typeWidth f.mod.toNat) fshlV

/-- BFE with an immediate (R102). -/
def execBfeI (f : FmtI) (s : State) : Outcome := intI f s (typeWidth f.mod.toNat) bfeV

/-- BFI with an immediate (R102). -/
def execBfiI (f : FmtI) (s : State) : Outcome := intI f s (typeWidth f.mod.toNat) bfiV

/-- PRMT with an immediate (R103). -/
def execPrmtI (f : FmtI) (s : State) : Outcome := intI f s (typeWidth f.mod.toNat) prmtV

/-- TST with an immediate (R99). -/
def execTstI (f : FmtI) (s : State) : Outcome := intI f s 32 tstV

/-- CMP.eq with an immediate (R99). -/
def execCmpEqI (f : FmtI) (s : State) : Outcome := intI f s 32 cmpEqV

/-- CMP.ne with an immediate (R99). -/
def execCmpNeI (f : FmtI) (s : State) : Outcome := intI f s 32 cmpNeV

/-- CMP.lt with an immediate (R99). -/
def execCmpLtI (f : FmtI) (s : State) : Outcome := intI f s 32 cmpLtV

/-- CMP.le with an immediate (R99). -/
def execCmpLeI (f : FmtI) (s : State) : Outcome := intI f s 32 cmpLeV

/-- CMP.gt with an immediate (R99). -/
def execCmpGtI (f : FmtI) (s : State) : Outcome := intI f s 32 cmpGtV

/-- CMP.ge with an immediate (R99). -/
def execCmpGeI (f : FmtI) (s : State) : Outcome := intI f s 32 cmpGeV

/-- LEA with an immediate (R99): not scaled. -/
def execLeaI (f : FmtI) (s : State) : Outcome :=
  computeI f s 64 fun _ a b _ => leaV (typeSigned f.mod.toNat) 0 a b

/-! ## Nodes that pass tokens on (R95) -/

/-- The token that `SEL` passes on, unchecked: a's if truth(c), else b's (R99, R95). -/
def selTok (o : LaneOps) : Tok := if tokVal o.c != 0 then o.a else o.b

/-- The words that `SEL` consumes: c and the operand that it does not choose (R95). -/
def selOps (o : LaneOps) : List Placed := (if tokVal o.c != 0 then placed 1 o.b else placed 0 o.a) ++ placed 2 o.c

/-- SEL (R99). -/
def execSel (f : FmtA) (s : State) : Outcome :=
  atNode s fun s w k x b => fireLanes s w k x b [f.t0, f.t1] selOps fun _ o => selTok o

/-- SEL with an immediate (R99). -/
def execSelI (f : FmtI) (s : State) : Outcome :=
  atNode s fun s w k x b => fireLanes s w k x b [f.t0, f.t1] selOps fun _ o => selTok o

/-- MOV (R105). -/
def execMov (f : FmtA) (s : State) : Outcome :=
  atNode s fun s w k x b => fireLanes s w k x b [f.t0, f.t1] (fun _ => []) fun _ o => o.a

/-- MOV4 (R105): two more targets in EXT. -/
def execMov4 (f : FmtA) (s : State) : Outcome :=
  atNode s fun s w k x b =>
    fireLanes s w k x b [f.t0, f.t1, f.ext.extractLsb' 15 10, f.ext.extractLsb' 5 10] (fun _ => []) fun _ o => o.a

/-- NULL (R105): null for every lane of M, whatever its predicate. -/
def execNull (f : FmtA) (s : State) : Outcome :=
  atNode s fun s w k _ b => finishNode s w k b [(f.t0, fun _ => none), (f.t1, fun _ => none)]

/-! ## Constants and special registers -/

/-- MOVI (R105). -/
def execMovi (f : FmtK) (s : State) : Outcome :=
  atNode s fun s w k x b =>
    let v := if f.mod = 2 then (f.imm.signExtend 64).toNat else f.imm.toNat
    fireLanes s w k x b [f.t0] (fun _ => []) fun _ _ => tokOf (typeWidth f.mod.toNat / 32) v

/-- MOVHI (R105): the low word is a's token, unchanged. -/
def execMovhi (f : FmtK) (s : State) : Outcome :=
  atNode s fun s w k x b => fireLanes s w k x b [f.t0] (fun _ => []) fun _ o => o.a.take 1 ++ [fresh f.imm]

/-- SRD (R106): the register as it is when the node fires. -/
def execSrd (f : FmtA) (s : State) : Outcome :=
  atNode s fun s w k x b => fireLanes s w k x b [f.t0, f.t1] (fun _ => []) fun l _ =>
    tokOf (typeWidth f.mod.toNat / 32) (specialValue s w (bitsOf f.ext 7 0) l).toNat

/-- SWR (R106): the lowest lane's token is kept until commit writes it; nothing is delivered. The tokens of the other
lanes are discarded and are not checked (DESIGN CHOICE, log entry 20). -/
def execSwr (_f : FmtA) (s : State) : Outcome :=
  atNode s fun s w k x b =>
    match performing b k with
    | [] => finishNode s w k b []
    | (l, o) :: _ => checked s w k x b [(l, placed 0 o.a)] (holdSwr s w k b o.a)
where
  /-- The value that commit writes, held with the block (an `SWR` has no LSID: 64 stands for none). -/
  holdSwr (s : State) (w : WarpId) (k : Nat) (b : Blk) (t : Tok) : State :=
    s.putBlk w (({ b with held := b.held ++ [⟨k, 64, [⟨0, t, [], [], 0, none⟩]⟩] } : Blk).fire k)

end Sys2Proof.Machine
end

