-- ==== Sys2Proof/Machine/Dispatch.lean ====
section
/-! DEFINITION. The dispatch of a step to its meaning: one arm per constructor of Instr. -/

namespace Sys2Proof.Machine

/-- One step of the table on a state. -/
def exec (i : Instr) (s : State) : Host.Outcome State Fault Refusal :=
  match i with
  | .blockDispatch w => Sys2Proof.Machine.execBlockDispatch w s
  | .captureComplete w => Sys2Proof.Machine.execCaptureComplete w s
  | .blockCommit w => Sys2Proof.Machine.execBlockCommit w s
  | .subwordMerge => Sys2Proof.Machine.execSubwordMerge s
  | .homeCheckFailure => Sys2Proof.Machine.execHomeCheckFailure s
  | .engineError w => Sys2Proof.Machine.execEngineError w s
  | .preemptBlockTimeout w => Sys2Proof.Machine.execPreemptBlockTimeout w s
  | .waitanyWake w => Sys2Proof.Machine.execWaitanyWake w s
  | .waitaddrWake w => Sys2Proof.Machine.execWaitaddrWake w s
  | .exportReturn p => Sys2Proof.Machine.execExportReturn p s
  | .teamRetire bay gid tid => Sys2Proof.Machine.execTeamRetire bay gid tid s
  | .gridRetire gid => Sys2Proof.Machine.execGridRetire gid s
  | .kingpostRound => Sys2Proof.Machine.execKingpostRound s
  | .reservation level => Sys2Proof.Machine.execReservation level s
  | .deviceGridPassedOver gid => Sys2Proof.Machine.execDeviceGridPassedOver gid s
  | .leaseTurnEnd bay window => Sys2Proof.Machine.execLeaseTurnEnd bay window s
  | .leaseIntervalEnd bay => Sys2Proof.Machine.execLeaseIntervalEnd bay s
  | .copyRequestStart bay => Sys2Proof.Machine.execCopyRequestStart bay s
  | .copyChunkLand c => Sys2Proof.Machine.execCopyChunkLand c s
  | .copyCompletion c => Sys2Proof.Machine.execCopyCompletion c s
  | .matrixRowGroupComplete bay => Sys2Proof.Machine.execMatrixRowGroupComplete bay s
  | .portLoadRequest p => Sys2Proof.Machine.execPortLoadRequest p s
  | .portLoadReply p => Sys2Proof.Machine.execPortLoadReply p s
  | .sinkDequeue p => Sys2Proof.Machine.execSinkDequeue p s
  | .sinkRecheck p => Sys2Proof.Machine.execSinkRecheck p s
  | .streamInWord p => Sys2Proof.Machine.execStreamInWord p s
  | .streamOutWord p => Sys2Proof.Machine.execStreamOutWord p s
  | .quiescenceScan bay region => Sys2Proof.Machine.execQuiescenceScan bay region s
  | .trussImageLoad bay region => Sys2Proof.Machine.execTrussImageLoad bay region s
  | .configPacketDeliver bay region => Sys2Proof.Machine.execConfigPacketDeliver bay region s
  | .pageWalk q => Sys2Proof.Machine.execPageWalk q s
  | .recordDeferredWrite ctx => Sys2Proof.Machine.execRecordDeferredWrite ctx s
  | .resumeWrite r => Sys2Proof.Machine.execResumeWrite r s
  | .tlbInvWrite r => Sys2Proof.Machine.execTlbInvWrite r s
  | .tlbInvalidationDone ctx => Sys2Proof.Machine.execTlbInvalidationDone ctx s
  | .poisClrEntry r => Sys2Proof.Machine.execPoisClrEntry r s
  | .poisClrAll r => Sys2Proof.Machine.execPoisClrAll r s
  | .ctxSave r => Sys2Proof.Machine.execCtxSave r s
  | .ctxSaveDone ctx => Sys2Proof.Machine.execCtxSaveDone ctx s
  | .ctxRestore r => Sys2Proof.Machine.execCtxRestore r s
  | .brkallWrite r => Sys2Proof.Machine.execBrkallWrite r s
  | .dbgStepWrite r => Sys2Proof.Machine.execDbgStepWrite r s
  | .safeStopRequest r => Sys2Proof.Machine.execSafeStopRequest r s
  | .safeRelease r => Sys2Proof.Machine.execSafeRelease r s
  | .safeLate ctx => Sys2Proof.Machine.execSafeLate ctx s
  | .queueDoorbell r => Sys2Proof.Machine.execQueueDoorbell r s
  | .queueSchedWrite r => Sys2Proof.Machine.execQueueSchedWrite r s
  | .queueConfigWrite r => Sys2Proof.Machine.execQueueConfigWrite r s
  | .registerWrite r => Sys2Proof.Machine.execRegisterWrite r s
  | .bar2Write ofs data => Sys2Proof.Machine.execBar2Write ofs data s
  | .bar2Read ofs n => Sys2Proof.Machine.execBar2Read ofs n s
  | .volingWriteReceive m => Sys2Proof.Machine.execVolingWriteReceive m s
  | .volingAckReceive peer stream seq outside => Sys2Proof.Machine.execVolingAckReceive peer stream seq outside s
  | .volingLinkFailure peer stream => Sys2Proof.Machine.execVolingLinkFailure peer stream s
  | .coldReset => Sys2Proof.Machine.execColdReset s
  | .warmReset => Sys2Proof.Machine.execWarmReset s
  | .attRequest r => Sys2Proof.Machine.execAttRequest r s
  | .attReportDone => Sys2Proof.Machine.execAttReportDone s
  | .powerInterval d => Sys2Proof.Machine.execPowerInterval d s
  | .powerRegisterWrite r => Sys2Proof.Machine.execPowerRegisterWrite r s
  | .bankCountInterval stack bank => Sys2Proof.Machine.execBankCountInterval stack bank s
  | .sillDropWrite r => Sys2Proof.Machine.execSillDropWrite r s
  | .driftLineMove stack => Sys2Proof.Machine.execDriftLineMove stack s
  | .bayRetireWrite r => Sys2Proof.Machine.execBayRetireWrite r s
  | .autoBayRetire bay => Sys2Proof.Machine.execAutoBayRetire bay s
  | .linkLaneReplace l => Sys2Proof.Machine.execLinkLaneReplace l s
  | .fwUpdWrite r => Sys2Proof.Machine.execFwUpdWrite r s
  | .fwComponentSwitch => Sys2Proof.Machine.execFwComponentSwitch s
  | .mgmtSnapTrigger => Sys2Proof.Machine.execMgmtSnapTrigger s
  | .snapArmWrite r => Sys2Proof.Machine.execSnapArmWrite r s
  | .moduleLoad ctx base => Sys2Proof.Machine.execModuleLoad ctx base s
  | .handlerTranslate t => Sys2Proof.Machine.execHandlerTranslate t s
  | .add f => Sys2Proof.Machine.execAdd f s
  | .sub f => Sys2Proof.Machine.execSub f s
  | .addsat f => Sys2Proof.Machine.execAddsat f s
  | .subsat f => Sys2Proof.Machine.execSubsat f s
  | .mul f => Sys2Proof.Machine.execMul f s
  | .mulhi f => Sys2Proof.Machine.execMulhi f s
  | .mad f => Sys2Proof.Machine.execMad f s
  | .madhi f => Sys2Proof.Machine.execMadhi f s
  | .div f => Sys2Proof.Machine.execDiv f s
  | .rem f => Sys2Proof.Machine.execRem f s
  | .min f => Sys2Proof.Machine.execMin f s
  | .max f => Sys2Proof.Machine.execMax f s
  | .sad f => Sys2Proof.Machine.execSad f s
  | .lea f => Sys2Proof.Machine.execLea f s
  | .neg f => Sys2Proof.Machine.execNeg f s
  | .abs f => Sys2Proof.Machine.execAbs f s
  | .and f => Sys2Proof.Machine.execAnd f s
  | .or f => Sys2Proof.Machine.execOr f s
  | .xor f => Sys2Proof.Machine.execXor f s
  | .andn f => Sys2Proof.Machine.execAndn f s
  | .orn f => Sys2Proof.Machine.execOrn f s
  | .not f => Sys2Proof.Machine.execNot f s
  | .shl f => Sys2Proof.Machine.execShl f s
  | .shr f => Sys2Proof.Machine.execShr f s
  | .sar f => Sys2Proof.Machine.execSar f s
  | .rol f => Sys2Proof.Machine.execRol f s
  | .ror f => Sys2Proof.Machine.execRor f s
  | .fshl f => Sys2Proof.Machine.execFshl f s
  | .popc f => Sys2Proof.Machine.execPopc f s
  | .clz f => Sys2Proof.Machine.execClz f s
  | .ctz f => Sys2Proof.Machine.execCtz f s
  | .brev f => Sys2Proof.Machine.execBrev f s
  | .bfe f => Sys2Proof.Machine.execBfe f s
  | .bfi f => Sys2Proof.Machine.execBfi f s
  | .prmt f => Sys2Proof.Machine.execPrmt f s
  | .tst f => Sys2Proof.Machine.execTst f s
  | .cmpEq f => Sys2Proof.Machine.execCmpEq f s
  | .cmpNe f => Sys2Proof.Machine.execCmpNe f s
  | .cmpLt f => Sys2Proof.Machine.execCmpLt f s
  | .cmpLe f => Sys2Proof.Machine.execCmpLe f s
  | .cmpGt f => Sys2Proof.Machine.execCmpGt f s
  | .cmpGe f => Sys2Proof.Machine.execCmpGe f s
  | .sel f => Sys2Proof.Machine.execSel f s
  | .pand f => Sys2Proof.Machine.execPand f s
  | .por f => Sys2Proof.Machine.execPor f s
  | .pxor f => Sys2Proof.Machine.execPxor f s
  | .pnot f => Sys2Proof.Machine.execPnot f s
  | .mov f => Sys2Proof.Machine.execMov f s
  | .mov4 f => Sys2Proof.Machine.execMov4 f s
  | .null f => Sys2Proof.Machine.execNull f s
  | .srd f => Sys2Proof.Machine.execSrd f s
  | .swr f => Sys2Proof.Machine.execSwr f s
  | .movi f => Sys2Proof.Machine.execMovi f s
  | .movhi f => Sys2Proof.Machine.execMovhi f s
  | .addI f => Sys2Proof.Machine.execAddI f s
  | .subI f => Sys2Proof.Machine.execSubI f s
  | .addsatI f => Sys2Proof.Machine.execAddsatI f s
  | .subsatI f => Sys2Proof.Machine.execSubsatI f s
  | .mulI f => Sys2Proof.Machine.execMulI f s
  | .mulhiI f => Sys2Proof.Machine.execMulhiI f s
  | .madI f => Sys2Proof.Machine.execMadI f s
  | .madhiI f => Sys2Proof.Machine.execMadhiI f s
  | .divI f => Sys2Proof.Machine.execDivI f s
  | .remI f => Sys2Proof.Machine.execRemI f s
  | .minI f => Sys2Proof.Machine.execMinI f s
  | .maxI f => Sys2Proof.Machine.execMaxI f s
  | .sadI f => Sys2Proof.Machine.execSadI f s
  | .leaI f => Sys2Proof.Machine.execLeaI f s
  | .andI f => Sys2Proof.Machine.execAndI f s
  | .orI f => Sys2Proof.Machine.execOrI f s
  | .xorI f => Sys2Proof.Machine.execXorI f s
  | .andnI f => Sys2Proof.Machine.execAndnI f s
  | .ornI f => Sys2Proof.Machine.execOrnI f s
  | .shlI f => Sys2Proof.Machine.execShlI f s
  | .shrI f => Sys2Proof.Machine.execShrI f s
  | .sarI f => Sys2Proof.Machine.execSarI f s
  | .rolI f => Sys2Proof.Machine.execRolI f s
  | .rorI f => Sys2Proof.Machine.execRorI f s
  | .fshlI f => Sys2Proof.Machine.execFshlI f s
  | .bfeI f => Sys2Proof.Machine.execBfeI f s
  | .bfiI f => Sys2Proof.Machine.execBfiI f s
  | .prmtI f => Sys2Proof.Machine.execPrmtI f s
  | .tstI f => Sys2Proof.Machine.execTstI f s
  | .cmpEqI f => Sys2Proof.Machine.execCmpEqI f s
  | .cmpNeI f => Sys2Proof.Machine.execCmpNeI f s
  | .cmpLtI f => Sys2Proof.Machine.execCmpLtI f s
  | .cmpLeI f => Sys2Proof.Machine.execCmpLeI f s
  | .cmpGtI f => Sys2Proof.Machine.execCmpGtI f s
  | .cmpGeI f => Sys2Proof.Machine.execCmpGeI f s
  | .selI f => Sys2Proof.Machine.execSelI f s
  | .fadd f => Sys2Proof.Machine.execFadd f s
  | .fsub f => Sys2Proof.Machine.execFsub f s
  | .fmul f => Sys2Proof.Machine.execFmul f s
  | .ffma f => Sys2Proof.Machine.execFfma f s
  | .fmin f => Sys2Proof.Machine.execFmin f s
  | .fmax f => Sys2Proof.Machine.execFmax f s
  | .fclass f => Sys2Proof.Machine.execFclass f s
  | .frcp f => Sys2Proof.Machine.execFrcp f s
  | .frsq f => Sys2Proof.Machine.execFrsq f s
  | .fsqrt f => Sys2Proof.Machine.execFsqrt f s
  | .fdiv f => Sys2Proof.Machine.execFdiv f s
  | .fexp2 f => Sys2Proof.Machine.execFexp2 f s
  | .flog2 f => Sys2Proof.Machine.execFlog2 f s
  | .fsin f => Sys2Proof.Machine.execFsin f s
  | .fcos f => Sys2Proof.Machine.execFcos f s
  | .ftanh f => Sys2Proof.Machine.execFtanh f s
  | .fcmpEq f => Sys2Proof.Machine.execFcmpEq f s
  | .fcmpNe f => Sys2Proof.Machine.execFcmpNe f s
  | .fcmpLt f => Sys2Proof.Machine.execFcmpLt f s
  | .fcmpLe f => Sys2Proof.Machine.execFcmpLe f s
  | .fcmpGt f => Sys2Proof.Machine.execFcmpGt f s
  | .fcmpGe f => Sys2Proof.Machine.execFcmpGe f s
  | .dadd f => Sys2Proof.Machine.execDadd f s
  | .dmul f => Sys2Proof.Machine.execDmul f s
  | .dfma f => Sys2Proof.Machine.execDfma f s
  | .dmin f => Sys2Proof.Machine.execDmin f s
  | .dmax f => Sys2Proof.Machine.execDmax f s
  | .ddiv f => Sys2Proof.Machine.execDdiv f s
  | .dsqrt f => Sys2Proof.Machine.execDsqrt f s
  | .dcmpEq f => Sys2Proof.Machine.execDcmpEq f s
  | .dcmpNe f => Sys2Proof.Machine.execDcmpNe f s
  | .dcmpLt f => Sys2Proof.Machine.execDcmpLt f s
  | .dcmpLe f => Sys2Proof.Machine.execDcmpLe f s
  | .dcmpGt f => Sys2Proof.Machine.execDcmpGt f s
  | .dcmpGe f => Sys2Proof.Machine.execDcmpGe f s
  | .hadd2 f => Sys2Proof.Machine.execHadd2 f s
  | .hmul2 f => Sys2Proof.Machine.execHmul2 f s
  | .hfma2 f => Sys2Proof.Machine.execHfma2 f s
  | .hmin2 f => Sys2Proof.Machine.execHmin2 f s
  | .hmax2 f => Sys2Proof.Machine.execHmax2 f s
  | .hcmp2Eq f => Sys2Proof.Machine.execHcmp2Eq f s
  | .hcmp2Ne f => Sys2Proof.Machine.execHcmp2Ne f s
  | .hcmp2Lt f => Sys2Proof.Machine.execHcmp2Lt f s
  | .hcmp2Le f => Sys2Proof.Machine.execHcmp2Le f s
  | .hcmp2Gt f => Sys2Proof.Machine.execHcmp2Gt f s
  | .hcmp2Ge f => Sys2Proof.Machine.execHcmp2Ge f s
  | .cvt f => Sys2Proof.Machine.execCvt f s
  | .cvtpk f => Sys2Proof.Machine.execCvtpk f s
  | .cvtsc f => Sys2Proof.Machine.execCvtsc f s
  | .shflIdx f => Sys2Proof.Machine.execShflIdx f s
  | .shflUp f => Sys2Proof.Machine.execShflUp f s
  | .shflDown f => Sys2Proof.Machine.execShflDown f s
  | .shflXor f => Sys2Proof.Machine.execShflXor f s
  | .shflIdxI f => Sys2Proof.Machine.execShflIdxI f s
  | .shflUpI f => Sys2Proof.Machine.execShflUpI f s
  | .shflDownI f => Sys2Proof.Machine.execShflDownI f s
  | .shflXorI f => Sys2Proof.Machine.execShflXorI f s
  | .ballot f => Sys2Proof.Machine.execBallot f s
  | .voteAny f => Sys2Proof.Machine.execVoteAny f s
  | .voteAll f => Sys2Proof.Machine.execVoteAll f s
  | .voteUni f => Sys2Proof.Machine.execVoteUni f s
  | .redux f => Sys2Proof.Machine.execRedux f s
  | .scan f => Sys2Proof.Machine.execScan f s
  | .matchLanes f => Sys2Proof.Machine.execMatchLanes f s
  | .ld f => Sys2Proof.Machine.execLd f s
  | .st f => Sys2Proof.Machine.execSt f s
  | .pref f => Sys2Proof.Machine.execPref f s
  | .fence f => Sys2Proof.Machine.execFence f s
  | .cinv f => Sys2Proof.Machine.execCinv f s
  | .cwb f => Sys2Proof.Machine.execCwb f s
  | .atomAdd f => Sys2Proof.Machine.execAtomAdd f s
  | .atomMin f => Sys2Proof.Machine.execAtomMin f s
  | .atomMax f => Sys2Proof.Machine.execAtomMax f s
  | .atomAnd f => Sys2Proof.Machine.execAtomAnd f s
  | .atomOr f => Sys2Proof.Machine.execAtomOr f s
  | .atomXor f => Sys2Proof.Machine.execAtomXor f s
  | .atomExch f => Sys2Proof.Machine.execAtomExch f s
  | .atomCas f => Sys2Proof.Machine.execAtomCas f s
  | .atomInc f => Sys2Proof.Machine.execAtomInc f s
  | .atomDec f => Sys2Proof.Machine.execAtomDec f s
  | .atomFadd f => Sys2Proof.Machine.execAtomFadd f s
  | .atomBfadd2 f => Sys2Proof.Machine.execAtomBfadd2 f s
  | .redAdd f => Sys2Proof.Machine.execRedAdd f s
  | .redMin f => Sys2Proof.Machine.execRedMin f s
  | .redMax f => Sys2Proof.Machine.execRedMax f s
  | .redAnd f => Sys2Proof.Machine.execRedAnd f s
  | .redOr f => Sys2Proof.Machine.execRedOr f s
  | .redXor f => Sys2Proof.Machine.execRedXor f s
  | .redInc f => Sys2Proof.Machine.execRedInc f s
  | .redDec f => Sys2Proof.Machine.execRedDec f s
  | .redFadd f => Sys2Proof.Machine.execRedFadd f s
  | .redBfadd2 f => Sys2Proof.Machine.execRedBfadd2 f s
  | .binit f => Sys2Proof.Machine.execBinit f s
  | .bret f => Sys2Proof.Machine.execBret f s
  | .bbind f => Sys2Proof.Machine.execBbind f s
  | .barv f => Sys2Proof.Machine.execBarv f s
  | .barx f => Sys2Proof.Machine.execBarx f s
  | .bgen f => Sys2Proof.Machine.execBgen f s
  | .bpar f => Sys2Proof.Machine.execBpar f s
  | .bstat f => Sys2Proof.Machine.execBstat f s
  | .evbind f => Sys2Proof.Machine.execEvbind f s
  | .evunb f => Sys2Proof.Machine.execEvunb f s
  | .evmaskSet f => Sys2Proof.Machine.execEvmaskSet f s
  | .evmaskClr f => Sys2Proof.Machine.execEvmaskClr f s
  | .evmaskWr f => Sys2Proof.Machine.execEvmaskWr f s
  | .evpost f => Sys2Proof.Machine.execEvpost f s
  | .evclr f => Sys2Proof.Machine.execEvclr f s
  | .waitany f => Sys2Proof.Machine.execWaitany f s
  | .waitaddr f => Sys2Proof.Machine.execWaitaddr f s
  | .send f => Sys2Proof.Machine.execSend f s
  | .tryrecv f => Sys2Proof.Machine.execTryrecv f s
  | .mbstat f => Sys2Proof.Machine.execMbstat f s
  | .cpkick f => Sys2Proof.Machine.execCpkick f s
  | .cpstat f => Sys2Proof.Machine.execCpstat f s
  | .strbind f => Sys2Proof.Machine.execStrbind f s
  | .tload f => Sys2Proof.Machine.execTload f s
  | .tstart f => Sys2Proof.Machine.execTstart f s
  | .tstop f => Sys2Proof.Machine.execTstop f s
  | .tstat f => Sys2Proof.Machine.execTstat f s
  | .ldstat f => Sys2Proof.Machine.execLdstat f s
  | .swapst f => Sys2Proof.Machine.execSwapst f s
  | .mms f => Sys2Proof.Machine.execMms f s
  | .accz f => Sys2Proof.Machine.execAccz f s
  | .accrd f => Sys2Proof.Machine.execAccrd f s
  | .accsc f => Sys2Proof.Machine.execAccsc f s
  | .accld f => Sys2Proof.Machine.execAccld f s
  | .mestat f => Sys2Proof.Machine.execMestat f s
  | .br f => Sys2Proof.Machine.execBr f s
  | .bri f => Sys2Proof.Machine.execBri f s
  | .call f => Sys2Proof.Machine.execCall f s
  | .calli f => Sys2Proof.Machine.execCalli f s
  | .ret f => Sys2Proof.Machine.execRet f s
  | .halt f => Sys2Proof.Machine.execHalt f s
  | .trap f => Sys2Proof.Machine.execTrap f s
  | .brk f => Sys2Proof.Machine.execBrk f s
  | .launch f => Sys2Proof.Machine.execLaunch f s
  | .lstat f => Sys2Proof.Machine.execLstat f s
  | .leaseSet f => Sys2Proof.Machine.execLeaseSet f s
  | .leaseMeas f => Sys2Proof.Machine.execLeaseMeas f s
  | .snap f => Sys2Proof.Machine.execSnap f s
  | .tret f => Sys2Proof.Machine.execTret f s
  | .injCode f => Sys2Proof.Machine.execInjCode f s
  | .injData f => Sys2Proof.Machine.execInjData f s
  | .esc k f => Sys2Proof.Machine.execEsc k f s
  | .elemAdd x => Sys2Proof.Machine.execElemAdd x s
  | .elemSub x => Sys2Proof.Machine.execElemSub x s
  | .elemMul x => Sys2Proof.Machine.execElemMul x s
  | .elemFadd x => Sys2Proof.Machine.execElemFadd x s
  | .elemFmul x => Sys2Proof.Machine.execElemFmul x s
  | .elemFfma x => Sys2Proof.Machine.execElemFfma x s
  | .elemAnd x => Sys2Proof.Machine.execElemAnd x s
  | .elemOr x => Sys2Proof.Machine.execElemOr x s
  | .elemXor x => Sys2Proof.Machine.execElemXor x s
  | .elemShl x => Sys2Proof.Machine.execElemShl x s
  | .elemShr x => Sys2Proof.Machine.execElemShr x s
  | .elemCmpeq x => Sys2Proof.Machine.execElemCmpeq x s
  | .elemCmplt x => Sys2Proof.Machine.execElemCmplt x s
  | .elemCmpltn x => Sys2Proof.Machine.execElemCmpltn x s
  | .elemMin x => Sys2Proof.Machine.execElemMin x s
  | .elemMax x => Sys2Proof.Machine.execElemMax x s
  | .elemSel x => Sys2Proof.Machine.execElemSel x s
  | .elemMov x => Sys2Proof.Machine.execElemMov x s
  | .elemDeq x => Sys2Proof.Machine.execElemDeq x s
  | .elemTag x => Sys2Proof.Machine.execElemTag x s
  | .elemPset x => Sys2Proof.Machine.execElemPset x s
  | .elemPclr x => Sys2Proof.Machine.execElemPclr x s
  | .elemCnt x => Sys2Proof.Machine.execElemCnt x s
  | .elemLd x => Sys2Proof.Machine.execElemLd x s
  | .elemSt x => Sys2Proof.Machine.execElemSt x s
  | .elemTas x => Sys2Proof.Machine.execElemTas x s
  | .elemUpd x => Sys2Proof.Machine.execElemUpd x s
  | .elemGen x => Sys2Proof.Machine.execElemGen x s
  | .elemSteer x => Sys2Proof.Machine.execElemSteer x s
  | .elemMerge x => Sys2Proof.Machine.execElemMerge x s
  | .elemJoin x => Sys2Proof.Machine.execElemJoin x s
  | .elemErr x => Sys2Proof.Machine.execElemErr x s
  | .tokenHop e k => Sys2Proof.Machine.execTokenHop e k s
  | .planeLoadComplete bay => Sys2Proof.Machine.execPlaneLoadComplete bay s
  | .rcRegisterRead ofs size => Sys2Proof.Machine.execRcRegisterRead ofs size s
  | .fusedMinimumRaise comp value => Sys2Proof.Machine.execFusedMinimumRaise comp value s
  | .softError e => Sys2Proof.Machine.execSoftError e s

end Sys2Proof.Machine
end

