-- ==== Sys2Proof/Machine/Schedule.lean ====
section
/-! DEFINITION. Who moves next and with which step of the table (notes/assumptions/2.md), the passing of clocks
(spec/00_scope.md R5, spec/17_boot_attestation_power.md R392), the instruction that a firing node or element slot
holds, and the inputs from outside (spec/15_host_queues_launch.md R352). -/

namespace Sys2Proof.Machine

/-! ## Time -/

/-- A bay's clock after n nominal clocks at its frequency step: (12 - step) clocks of every 12 (R392). -/
def tickBay (n : Nat) (x : Bay) : Bay :=
  let t := n * (12 - x.fstep) + x.frac
  { x with clk := x.clk + t / 12, frac := t % 12 }

/-- n nominal clocks pass. -/
def tick (n : Nat) (s : State) : State :=
  { s with
    now := s.now + n
    rel := { s.rel with rclk := s.rel.rclk + n }
    bays := s.bays.map fun (k, x) => (k, tickBay n x) }

/-! ## The words that fire -/

/-- A node's word run as the instruction that it holds. -/
noncomputable def execWord (w : Double) (s : State) : Outcome :=
  match buildNode w with
  | some i => exec i s
  | none => .fault .notEnabled

/-- The meanings of the format A opcodes, in the order of `opsA`: what compiled code runs, since it can build only the
first 245 constructors of `Instr` (notes/assumptions/2.md). -/
def runsA : List (Nat × (FmtA → State → Outcome)) :=
  [(0x0, execAdd), (0x1, execSub), (0x2, execAddsat), (0x3, execSubsat),
   (0x4, execMul), (0x5, execMulhi), (0x6, execMad), (0x7, execMadhi),
   (0x8, execDiv), (0x9, execRem), (0xa, execMin), (0xb, execMax),
   (0xc, execSad), (0xd, execLea), (0xe, execNeg), (0xf, execAbs)] ++
  [(0x10, execAnd), (0x11, execOr), (0x12, execXor), (0x13, execAndn),
   (0x14, execOrn), (0x15, execNot), (0x16, execShl), (0x17, execShr),
   (0x18, execSar), (0x19, execRol), (0x1a, execRor), (0x1b, execFshl),
   (0x1c, execPopc), (0x1d, execClz), (0x1e, execCtz), (0x1f, execBrev)] ++
  [(0x20, execBfe), (0x21, execBfi), (0x22, execPrmt), (0x23, execTst),
   (0x24, execCmpEq), (0x25, execCmpNe), (0x26, execCmpLt), (0x27, execCmpLe),
   (0x28, execCmpGt), (0x29, execCmpGe), (0x2a, execSel), (0x2b, execPand),
   (0x2c, execPor), (0x2d, execPxor), (0x2e, execPnot), (0x2f, execMov)] ++
  [(0x30, execMov4), (0x31, execNull), (0x32, execSrd), (0x33, execSwr),
   (0x80, execFadd), (0x81, execFsub), (0x82, execFmul), (0x83, execFfma),
   (0x84, execFmin), (0x85, execFmax), (0x86, execFclass), (0x87, execFrcp),
   (0x88, execFrsq), (0x89, execFsqrt), (0x8a, execFdiv), (0x8b, execFexp2)] ++
  [(0x8c, execFlog2), (0x8d, execFsin), (0x8e, execFcos), (0x8f, execFtanh),
   (0x90, execFcmpEq), (0x91, execFcmpNe), (0x92, execFcmpLt), (0x93, execFcmpLe),
   (0x94, execFcmpGt), (0x95, execFcmpGe), (0xa0, execDadd), (0xa1, execDmul),
   (0xa2, execDfma), (0xa3, execDmin), (0xa4, execDmax), (0xa5, execDdiv)] ++
  [(0xa6, execDsqrt), (0xa8, execDcmpEq), (0xa9, execDcmpNe), (0xaa, execDcmpLt),
   (0xab, execDcmpLe), (0xac, execDcmpGt), (0xad, execDcmpGe), (0xc0, execHadd2),
   (0xc1, execHmul2), (0xc2, execHfma2), (0xc3, execHmin2), (0xc4, execHmax2),
   (0xc8, execHcmp2Eq), (0xc9, execHcmp2Ne), (0xca, execHcmp2Lt), (0xcb, execHcmp2Le)] ++
  [(0xcc, execHcmp2Gt), (0xcd, execHcmp2Ge), (0xf0, execCvt), (0xf1, execCvtpk),
   (0xf2, execCvtsc), (0xf8, execShflIdx), (0xf9, execShflUp), (0xfa, execShflDown),
   (0xfb, execShflXor), (0x100, execBallot), (0x101, execVoteAny), (0x102, execVoteAll),
   (0x103, execVoteUni), (0x104, execRedux), (0x105, execScan), (0x106, execMatchLanes)]

/-- `execWord` for compiled code. -/
def execWordRun (w : Double) (s : State) : Outcome :=
  let opc := (w.extractLsb' 55 9).toNat
  match runsA.lookup opc with
  | some k => k (unpackA w) s
  | none =>
  match opsI.lookup opc with
  | some k => exec (k (unpackI w)) s
  | none =>
  match opsM.lookup opc with
  | some k => exec (k (unpackM w)) s
  | none =>
  match opsE.lookup opc with
  | some k => exec (k (unpackE w)) s
  | none =>
  match opsK.lookup opc with
  | some k => exec (k (unpackK w)) s
  | none =>
  if opc = 0x1C0 then
    match opsX.lookup (w.extractLsb' 48 3).toNat with
    | some k => exec (k (unpackX w)) s
    | none => .fault .notEnabled
  else if 0x1F0 ≤ opc then execEsc (w.extractLsb' 55 4) (unpackA w) s
  else
    match byMod opc (unpackE w) with
    | some i => exec i s
    | none => .fault .notEnabled

/-- The meanings in `runsA` are those of the instructions in `opsA`. -/
theorem runsA_eq : runsA = opsA.map fun p => (p.1, fun (f : FmtA) (s : State) => exec (p.2 f) s) := rfl

/-- A lookup in a list whose values went through a function. -/
theorem lookup_map {α β : Type} (g : α → β) (n : Nat) (l : List (Nat × α)) :
    (l.map fun p => (p.1, g p.2)).lookup n = (l.lookup n).map g := by
  induction l with
  | nil => rfl
  | cons p r ih =>
    obtain ⟨k, v⟩ := p
    simp only [List.map_cons, List.lookup]
    cases n == k <;> simp [ih]

/-- Compiled code runs the instruction that the word holds. -/
@[csimp] theorem execWord_eq_run : @execWord = @execWordRun := by
  funext w s
  have h (n : Nat) : runsA.lookup n =
      (opsA.lookup n).map fun (k : FmtA → Instr) (f : FmtA) (s : State) => exec (k f) s := by
    rw [runsA_eq]
    exact lookup_map (fun (k : FmtA → Instr) (f : FmtA) (s : State) => exec (k f) s) n opsA
  simp only [execWord, execWordRun, buildNode, h]
  generalize opsA.lookup _ = a
  generalize opsI.lookup _ = b
  generalize opsM.lookup _ = c
  generalize opsE.lookup _ = d
  generalize opsK.lookup _ = e
  generalize opsX.lookup _ = x
  cases a <;> cases b <;> cases c <;> cases d <;> cases e <;> try rfl
  by_cases h1 : (w.extractLsb' 55 9).toNat = 0x1C0
  · simp only [h1, if_true]; cases x <;> rfl
  · by_cases h2 : 0x1F0 ≤ (w.extractLsb' 55 9).toNat
    · simp only [h1, h2, if_true, if_false]; rfl
    · simp only [h1, h2, if_false, Option.map_none]

/-- The state as node k of a warp's block fires: the node that runs, and the clock of its window (R277). -/
def State.firing (s : State) (w : WarpId) (k : Nat) : State :=
  { s.modBay w.bay fun b => { b with fireClk := aset b.fireClk (windowOf (wkey w)) b.clk } with cur := .node w k }

/-- Node k of a warp's block run. -/
def execNode (w : WarpId) (k : Nat) (s : State) : Outcome :=
  match (s.warp? w).bind (·.blk) with
  | some b => execWord (nodeWord b.words k) (s.firing w k)
  | none => .fault .notEnabled

/-- Slot k of an element's active plane run (R202). -/
def execSlot (e : ElemId) (k : Nat) (s : State) : Outcome :=
  let x := (s.bay e.bay).elem e.row e.col
  match buildElem (x.slotWord x.act k) with
  | some i => exec i { s with cur := .elem e }
  | none => .fault .notEnabled

/-! ## What an agent can do -/

/-- A step that an agent may be able to take: a row of the table by itself, a node of a warp's block, a slot of an
element. -/
inductive Work where
  | instr (i : Instr)
  | node (w : WarpId) (k : Nat)
  | slot (e : ElemId) (k : Nat)
  deriving DecidableEq, Repr

/-- A piece of work done. -/
def runWork (s : State) : Work → Outcome
  | .instr i => exec i s
  | .node w k => execNode w k s
  | .slot e k => execSlot e k s

/-- The walk that must come before a step, in its place; the step itself when it needs none. -/
def behindWalk (q : Option WalkReq) (w : Work) : Work := (q.map fun r => Work.instr (.pageWalk r)).getD w

/-- The oldest miss of a walk of a context on which nobody waits any more. -/
def deadWalks (s : State) (c : Nat) : List WalkReq :=
  (s.walks.filter fun k => k.ctx = c && !k.waiting.any (stillWaits s)).filterMap fun k => k.waiting.head?

/-- The steps of a warp, most urgent first: its block, what it must serve, its wait, and the next dispatch; the commit and
the dispatch are behind the walks that they need. -/
def warpWork (s : State) (w : WarpId) : List Work :=
  match s.warp? w with
  | none => []
  | some x =>
    [.instr (.preemptBlockTimeout w), behindWalk (commitWalk s w) (.instr (.blockCommit w)), .instr (.captureComplete w),
      .instr (.engineError w),
      .instr (.waitanyWake w), .instr (.waitaddrWake w), behindWalk (fetchWalk s w x) (.instr (.blockDispatch w))]

/-- A block inserted among others, the oldest dispatch first; of blocks of one clock, the lower slot first. -/
def insertOldest (p : Nat × Warp × Blk) : List (Nat × Warp × Blk) → List (Nat × Warp × Blk)
  | [] => [p]
  | q :: r =>
    if p.2.2.since < q.2.2.since || (p.2.2.since = q.2.2.since && p.1 ≤ q.1) then p :: q :: r else q :: insertOldest p r

/-- The blocks resident in a window, the oldest dispatch first (R277). -/
def issueOrder (b : Bay) (k : Nat) : List (Nat × Warp × Blk) :=
  (b.warps.filterMap fun p => if windowOf p.1 = k then p.2.blk.map fun x => (p.1, p.2, x) else none).foldr insertOldest []

/-- A window has fired a node in the present clock of its bay. -/
def firedNow (b : Bay) (k : Nat) : Bool := aget b.fireClk k == some b.clk

/-- The nodes that a window may fire (R277), none where it has fired one in this clock: the ready nodes of the oldest
block first, in increasing index, then those of the next; a memory node is behind the walk that it needs. The first that
its pipe accepts fires. -/
def issueWork (s : State) (bay k : Nat) : List Work :=
  if firedNow (s.bay bay) k then [] else
  (issueOrder (s.bay bay) k).flatMap fun (key, x, b) =>
    let w := warpIdOf bay key
    (List.range (hdr b.words).n).filterMap fun n =>
      if mayFireNode b n then some (behindWalk (nodeWalk s w x b n) (.node w n)) else none

/-- An input of the outside world in the row that its register gives it (R352); none for a row that is no input. -/
def inputRow (s : State) (i : Instr) : Option Instr :=
  match i with
  | .resumeWrite r => some (classify s r)
  | .tlbInvWrite r => some (classify s r)
  | .poisClrEntry r => some (classify s r)
  | .poisClrAll r => some (classify s r)
  | .ctxSave r => some (classify s r)
  | .ctxRestore r => some (classify s r)
  | .brkallWrite r => some (classify s r)
  | .dbgStepWrite r => some (classify s r)
  | .safeStopRequest r => some (classify s r)
  | .safeRelease r => some (classify s r)
  | .queueDoorbell r => some (classify s r)
  | .queueSchedWrite r => some (classify s r)
  | .queueConfigWrite r => some (classify s r)
  | .registerWrite r => some (classify s r)
  | .attRequest r => some (classify s r)
  | .powerRegisterWrite r => some (classify s r)
  | .sillDropWrite r => some (classify s r)
  | .bayRetireWrite r => some (classify s r)
  | .fwUpdWrite r => some (classify s r)
  | .snapArmWrite r => some (classify s r)
  | .bar2Write o d => some (.bar2Write o d)
  | .bar2Read o n => some (.bar2Read o n)
  | .volingWriteReceive m => some (.volingWriteReceive m)
  | .volingAckReceive p t n o => some (.volingAckReceive p t n o)
  | .volingLinkFailure p t => some (.volingLinkFailure p t)
  | .coldReset => some .coldReset
  | .warmReset => some .warmReset
  | .powerInterval d => some (.powerInterval d)
  | .linkLaneReplace l => some (.linkLaneReplace l)
  | .mgmtSnapTrigger => some .mgmtSnapTrigger
  | .moduleLoad c b => some (.moduleLoad c b)
  | .handlerTranslate t => some (.handlerTranslate t)
  | .rcRegisterRead o n => some (.rcRegisterRead o n)
  | .fusedMinimumRaise c v => some (.fusedMinimumRaise c v)
  | .softError e => some (.softError e)
  | _ => none

/-- The oldest input performed; one that is no input, or that finds its unit in no state for it, goes without effect. -/
def takeInput (s : State) : Option State :=
  match s.inbox with
  | [] => none
  | i :: r =>
    let t : State := { s with inbox := r }
    match (inputRow t i).map fun j => exec j t with
    | some (.next u) => some u
    | _ => some t

/-- The work that an agent may find, most urgent first. -/
def agentWork (s : State) : Actor → List Work
  | .env => []
  | .king => ((kingEvents s).filterMap (·.1)).map (fun q => .instr (.pageWalk q)) ++ [.instr .kingpostRound]
  | .power => [.instr (.powerInterval (demandNow s))]
  | .warp w => warpWork s w
  | .issue b k => issueWork s b k
  | .copy c =>
    [behindWalk (copyStartWalk s c) (.instr (.copyRequestStart c.bay)), behindWalk (chunkWalk s c) (.instr (.copyChunkLand c)),
      behindWalk (completionWalk s c) (.instr (.copyCompletion c))]
  | .matrix b => [.instr (.planeLoadComplete b), behindWalk (matrixWalk s b) (.instr (.matrixRowGroupComplete b))]
  | .elem e => (List.range 16).map fun k => .slot e k
  | .hop e k => [.instr (.tokenHop e k)]
  | .portReq p => [.instr (.portLoadRequest p)]
  | .portRep p => [behindWalk (portWalk s p) (.instr (.portLoadReply p))]
  | .sink p => [.instr (.sinkRecheck p), .instr (.sinkDequeue p)]
  | .streamIn p => [behindWalk (streamInWalk s p) (.instr (.streamInWord p))]
  | .streamOut p => [behindWalk (streamOutWalk s p) (.instr (.streamOutWord p))]
  | .exportRet p => [.instr (.exportReturn p)]
  | .scan b r => [.instr (.quiescenceScan b r)]
  | .loader b r =>
    [.instr (.configPacketDeliver b r), behindWalk (imageWalk s b r) (.instr (.trussImageLoad b r))]
  | .window b k => [.instr (.leaseTurnEnd b k)]
  | .lease b => [.instr (.leaseIntervalEnd b)]
  | .team b g t => [.instr (.teamRetire b g t)]
  | .grid g => [.instr (.gridRetire g), .instr (.deviceGridPassedOver g)]
  | .resv l => [.instr (.reservation l)]
  | .ctx c =>
    [.instr (.recordDeferredWrite c), .instr (.tlbInvalidationDone c), .instr (.ctxSaveDone c)] ++
      (deadWalks s c).map (fun q => .instr (.pageWalk q)) ++
      (if canRestore s c then [.instr (.ctxRestore (restoreAgain s c))] else [])
  | .safe c => [.instr (.safeLate c)]
  | .merge => [.instr .subwordMerge]
  | .report => [.instr .homeCheckFailure]
  | .sill t => (bankIntervals s t).map (fun k => .instr (.bankCountInterval t k)) ++ [.instr (.driftLineMove t)]
  | .repair b =>
    (if (s.bay b).closed && retireReady s b then [.instr (.bayRetireWrite (retireAgain b))] else []) ++
      [.instr (.autoBayRetire b)]
  | .firmware => [.instr .attReportDone, .instr .fwComponentSwitch]

/-- The first work of a list that can be done, done. -/
def firstDone (s : State) : List Work → Option State
  | [] => none
  | w :: r =>
    match runWork s w with
    | .next t => some t
    | _ => firstDone s r

/-- The agent that moves: the power arbiter when its interval is due (R393), whoever the schedule names. -/
def mover (s : State) (a : Actor) : Actor := if s.power.next ≤ s.now then .power else a

/-- An agent takes the step that it can take; none when it has nothing to do. -/
def act (s : State) (a : Actor) : Option State :=
  match mover s a with
  | .env => takeInput s
  | b => firstDone s (agentWork s b)

/-! ## The order when no schedule is given -/

/-- The agents of a bay's truss. -/
def trussAgents (b : Nat) (x : Bay) : List Actor :=
  if x.regions.isEmpty then []
  else
    let rows := List.range 8
    (rows.flatMap fun r => (List.range 8).flatMap fun c =>
      Actor.elem ⟨b, r, c⟩ :: (List.range 4).map fun k => Actor.hop ⟨b, r, c⟩ k) ++
    (rows.flatMap fun r => [Actor.portReq ⟨b, r⟩, .portRep ⟨b, r⟩, .sink ⟨b, r⟩, .streamIn ⟨b, r⟩, .streamOut ⟨b, r⟩,
      .exportRet ⟨b, r⟩]) ++
    ((List.range x.regions.length).flatMap fun g => [Actor.loader b g, .scan b g])

/-- The agents of a bay. -/
def bayAgents (b : Nat) (x : Bay) : List Actor :=
  [Actor.lease b] ++ ((List.range 4).flatMap fun k => [Actor.window b k, .issue b k]) ++
    (x.warps.map fun p => Actor.warp (warpIdOf b p.1)) ++
    ((List.range (max 1 x.copies.length)).map fun n => Actor.copy ⟨b, n⟩) ++ [Actor.matrix b] ++ trussAgents b x ++
    (x.teams.map fun t => Actor.team b t.key.gid t.key.tid) ++ [Actor.repair b]

/-- Every agent that the state names, in a fixed order. -/
def agents (s : State) : List Actor :=
  [Actor.env, .merge, .report] ++
    (((s.recs.map (·.ctx)) ++ s.ctxs.map (·.1)).eraseDups.flatMap fun c => [Actor.ctx c, .safe c]) ++
    (if roundUrgent s || (kingEvents s).any (·.1.isSome) then [Actor.king] else []) ++ ((List.range 8).map Actor.resv) ++ (s.grids.map fun g => Actor.grid g.gid) ++
    (s.bays.flatMap fun (b, x) => bayAgents b x) ++ (s.sills.map fun p => Actor.sill p.1) ++ [Actor.firmware, .king]

/-- The first agent with something to do moves. -/
def firstAgent (s : State) : List Actor → Option State
  | [] => none
  | a :: r =>
    match act s a with
    | some t => some t
    | none => firstAgent s r

end Sys2Proof.Machine
end

