-- ==== Sys2Proof/Machine/FetchWord.lean ====
section
/-! DEFINITION. An instruction placed where the next step runs it (notes/assumptions/18.md): a node in a dispatched
block of one word that has been delivered its operands, or an element instruction in a running region whose trigger
holds. -/

namespace Sys2Proof.Machine

/-! ## A Gelpi node -/

/-- A block of one node: its header has N, exit count and every other count at their least (R67). -/
def oneNode (w : Double) : List Double := [0, w]

/-- A zero token for lane 0 in a slot of a width; a predicate that lets the lane perform (R35). -/
def givenSlot (w : Double) (key : Nat) : Slot :=
  let (o, f) := nodeAt (oneNode w) 0
  let sh := nodeShape o.toNat f
  let n := if key = slotKey 0 0 then sh.a else if key = slotKey 1 0 then sh.b else sh.c
  let tok : Tok :=
    if key = predKey 0 then [fresh (if f.pm = 2 then 0 else 1)] else tokOf ((n.getD 32) / 32) 0
  ⟨1, 1, [(0, tok)]⟩

/-- The block of one node as its dispatch leaves it for lane 0, every operand delivered (R34). -/
def oneBlock (mode : Word) (now : Nat) (w : Double) : Blk where
  addr := 0
  words := oneNode w
  m := 1
  mode := mode
  slots := (requiredSlots [] (oneNode w) 0).foldl (fun (m : Assoc Slot) (k : Nat) => aset m k (givenSlot w k)) []
  fired := 0
  votes := []
  held := []
  cop := none
  waits := []
  evtest := none
  capture := none
  since := now
  releasing := none
  reads := []
  cleared := []
  issued := []
  exporting := []

/-- A warp of 64 lanes that runs lane 0. -/
def oneWarp : Warp where
  key := ⟨0, 0⟩
  wid := 0
  half := 0
  lanes := 64
  pc := 0
  mask := 1
  mode := 8 <<< 10
  regs := []
  uregs := []
  evpend := 0
  evmask := 0
  binds := []
  leaseDecl := 0
  leaseMeas := 0
  measured := false
  hist := []
  touched := []
  selfLoss := 0
  commits := 0
  regBase := 0
  stack := []
  spilled := 0
  acts := []
  region := none
  rdset := []
  check := none
  since := 0
  park := .running
  woken := false
  active := true
  stamp := 0
  unbroken := false
  demote := false
  blk := none
  errs := []
  stop := false
  stepping := false
  stepRec := none
  prefetched := []
  outs := []
  started := true
  retired := false
  preempt := none

/-- The next power interval put off when it is due, since it would come before any other step (R393). -/
def notDue (s : State) : State :=
  if s.power.next ≤ s.now then { s with power := { s.power with next := s.now + 1 } } else s

/-- The node's word in the oldest block of bay 0's window 0, that of the warp in slot 0, with its team, and that window to
fire next. -/
def placeNode (s : State) (w : Double) : State :=
  let id : WarpId := ⟨0, 0, 0⟩
  let x := { (s.warp? id).getD oneWarp with park := .running }
  let s1 := if (s.team? 0 x.key).isSome then s
    else s.modBay 0 fun b => { b with teams := b.teams ++ [{ noTeam x.key with slots := [0], regs := 16 }] }
  let b := oneBlock x.mode 0 w
  let s2 := (s1.setWarp id { x with blk := some b }).modBay 0 fun y => { y with fireClk := adel y.fireClk 0 }
  let s3 : State := notDue { s2 with agenda := (0, .issue 0 0) :: s2.agenda }
  match nodeWalk s3 id x b 0 with
  | some q => s3.cacheLeaf q.ctx q.va ⟨0, 7, false, 0, 1⟩
  | none => s3

/-! ## An element instruction -/

/-- The token that an HTEST code accepts. -/
def givenTok (test : Nat) : TTok := ⟨fresh 0, if test = 1 then 1 else if test = 2 then 2 else 0⟩

/-- An element with the instruction in slot 0 of its active plane, its trigger's predicates and its needed heads. -/
def oneElem (w : BitVec 96) : Elem :=
  let x := unpackElem w
  { Elem.reset with
    started := true
    preds := x.pval
    queues := ([0, 1, 2, 3].filter fun k => x.need.getLsbD k).map fun k =>
      (k, [givenTok (x.htest.extractLsb' (2 * k) 2).toNat])
    planes := (List.range 3).map fun i => (i, fresh (w.extractLsb' (32 * i) 32)) }

/-- The instruction in a running region of bay 0: in a memory element when its operation uses the SRAM (R207), and
otherwise in a compute element; that element is to move next. -/
def placeSlot (s : State) (w : BitVec 96) : State :=
  let op := (w.extractLsb' 63 5).toNat
  let e : ElemId := ⟨0, 0, if 23 ≤ op && op ≤ 26 then 7 else 1⟩
  let g : Region := ⟨⟨0, 0⟩, 0, 0, 0, 8, 8, 0, some 0, true, true, false, false, 0, 0, none, [], []⟩
  let s1 := s.modBay 0 fun b => { b with
    regions := [g]
    elems := aset b.elems (ekey e.row e.col) (oneElem w) }
  notDue { s1 with agenda := (0, .elem e) :: s1.agenda }

end Sys2Proof.Machine
end

