-- ==== Sys2Proof/Machine/Step.lean ====
section
/-! DEFINITION. One step of the module (notes/assumptions/2.md): the next entry of the schedule says how many clocks pass
and who moves; without a schedule one clock passes and the first agent with something to do moves. -/

namespace Sys2Proof.Machine

/-- One step: the clocks pass, then the agent takes its next row of the table, if there is one that it can take. -/
def step (s : State) : Host.Outcome State Fault Refusal :=
  match s.agenda with
  | (n, a) :: r =>
    let t := tick n { s with agenda := r }
    .next ((act t a).getD t)
  | [] =>
    let t := tick 1 s
    .next ((firstAgent t (agents t)).getD t)

/-- The state with an instruction placed where the next step runs it: a node of 64 bits, or an element instruction of
96. -/
def State.withFetchWord (s : State) (nbits w : Nat) : State :=
  if nbits ≤ 64 then placeNode s (BitVec.ofNat 64 w) else placeSlot s (BitVec.ofNat 96 w)

end Sys2Proof.Machine
end

