-- ==== Sys2Proof/Safety.lean ====
section
/-! DEFINITION. What counts as a safe run, in the terms that statements use: an instruction that runs, a step that
goes on, and the states in which every memory is in canonical form. -/

namespace Sys2Proof.Machine

/-- An instruction completes in a state: `exec` answers a next state. -/
def Runs (i : Instr) (s : State) : Prop := ∃ t, exec i s = .next t

/-- A step goes on. -/
def Goes (s : State) : Prop := ∃ t, step s = .next t

/-- Device memory and every bay's scratchpad are in canonical form (notes/assumptions/19.md). -/
def Canonical (s : State) : Prop := s.mem.wf = true ∧ ∀ p ∈ s.bays, p.2.pad.wf = true

/-! ## Firing nodes -/

/-- Node k of block b, which warp w, in state x, has dispatched, is the instruction that `exec` runs, and it may fire
(R35, R126). -/
structure Fires (s : State) (w : WarpId) (k : Nat) (x : Warp) (b : Blk) : Prop where
  cur : s.cur = .node w k
  warp : s.warp? w = some x
  blk : x.blk = some b
  running : x.park = .running
  time : mayRun x s.now = true
  may : mayFireNode b k = true

/-- The words that a node consumes pass their checks (R95). -/
def GoodWords (b : Blk) (k : Nat) (sel : LaneOps → List W40) : Prop :=
  ∀ p ∈ performing b k, ∀ v ∈ sel p.2, good v = true

/-- The state in which the node's instruction has run and its warp's block is b1, all else as it was. -/
def afterNode (s : State) (w : WarpId) (b1 : Blk) : State := ({ s with cur := .none } : State).putBlk w b1

/-- The same result on one or two targets: each performing lane's token (R35, R94). -/
def toTargets (b : Blk) (k : Nat) (ts : List (BitVec 10)) (g : Nat → LaneOps → Tok) :
    List (BitVec 10 × (Nat → Option Tok)) :=
  ts.map fun t => (t, byLane ((performing b k).map fun (l, o) => (l, g l o)))

/-- The performing lanes of node k, none of which is missing. -/
def someLane (b : Blk) (k : Nat) : Prop := performing b k ≠ []

end Sys2Proof.Machine
end

