-- ==== Sys2Proof/Certificates/Slice0/Obligations.lean ====
section
/-! DEFINITION. The statements for the provers: what each says, and of which rule of the spec it speaks, stands in its
docstring. The functions of `Sys2Proof.Claims` write the spec's tables down once more, for the statements to cite. -/

namespace Sys2Proof.Claims

open Sys2Proof.Machine

/-! ## Compute nodes: what the rows of Tables 4.2 and 4.3 and of R100 to R103 deliver -/

/-- An ordered comparison of A and B as 1 or 0. -/
def cmpRow (p : Int → Int → Bool) : IntOp := fun sg n a b _ => if p (ival sg a n) (ival sg b n) then 1 else 0

/-- `div` of R100. -/
def divRow : IntOp := fun sg n a b _ =>
  if ival sg b n = 0 then
    (if sg then (if 0 ≤ ival sg a n then 2 ^ (n - 1) - 1 else 2 ^ (n - 1)) else 2 ^ n - 1)
  else wrapI ((ival sg a n).tdiv (ival sg b n)) n

/-- `rem` of R100. -/
def remRow : IntOp := fun sg n a b _ =>
  if ival sg b n = 0 then a % 2 ^ n else wrapI (ival sg a n - ival sg b n * (ival sg a n).tdiv (ival sg b n)) n

/-- `BFE` of R102, bit by bit. -/
def bfeRow : IntOp := fun sg n a b _ =>
  let pos := b % 256
  let len := min (b / 256 % 256) n
  let low (i : Nat) : Bool := if pos + i < n then a.testBit (pos + i) else sg && a.testBit (n - 1)
  ofBitFn n fun i => if i < len then low i else sg && 0 < len && low (len - 1)

/-- `BFI` of R102, bit by bit. -/
def bfiRow : IntOp := fun _ n a b c =>
  let pos := b % 256
  let len := min (b / 256 % 256) n
  ofBitFn n fun j => if pos ≤ j && j < pos + len then a.testBit (j - pos) else c.testBit j

/-- `PRMT` of R103: byte i of the result. -/
def prmtRowByte (a b c i : Nat) : Nat :=
  let d := (a % 2 ^ 32 + c * 2 ^ 32) / 2 ^ (8 * (b / 2 ^ (3 * i) % 8)) % 256
  if b.testBit (16 + i) then 0 else if b.testBit (12 + i) then (if d.testBit 7 then 255 else 0) else d

/-- The rows of Table 4.2 and R100 to R103 by the row's name: the width of the result for a type of n bits, and the
value. `SEL` delivers a token and `LEA` has a scale; they stand apart. -/
inductive IntRow where
  | add | sub | addsat | subsat | mul | mulhi | mad | madhi | div | rem | min | max | sad | neg | abs
  | and | or | xor | andn | orn | not | shl | shr | sar | rol | ror | fshl | popc | clz | ctz | brev | bfe | bfi | prmt
  | tst | eq | ne | lt | le | gt | ge | pand | por | pxor | pnot

/-- The width of a row's result. -/
def IntRow.width (r : IntRow) (n : Nat) : Nat :=
  match r with
  | .popc | .clz | .ctz | .tst | .eq | .ne | .lt | .le | .gt | .ge => 32
  | _ => n

/-- The value of a row, before it is cut to the result's width. -/
def IntRow.value : IntRow → IntOp
  | .add => fun sg n a b _ => wrapI (ival sg a n + ival sg b n) n
  | .sub => fun sg n a b _ => wrapI (ival sg a n - ival sg b n) n
  | .addsat => fun sg n a b _ => wrapI (satI sg (ival sg a n + ival sg b n) n) n
  | .subsat => fun sg n a b _ => wrapI (satI sg (ival sg a n - ival sg b n) n) n
  | .mul => fun sg n a b _ => wrapI (ival sg a n * ival sg b n) n
  | .mulhi => fun sg n a b _ => wrapI (ival sg a n * ival sg b n / (2 ^ n : Nat)) n
  | .mad => fun sg n a b c => wrapI (ival sg a n * ival sg b n + ival sg c n) n
  | .madhi => fun sg n a b c => wrapI (ival sg a n * ival sg b n / (2 ^ n : Nat) + ival sg c n) n
  | .div => divRow
  | .rem => remRow
  | .min => fun sg n a b _ => if ival sg a n ≤ ival sg b n then a % 2 ^ n else b % 2 ^ n
  | .max => fun sg n a b _ => if ival sg a n ≤ ival sg b n then b % 2 ^ n else a % 2 ^ n
  | .sad => fun sg n a b c => wrapI ((ival sg a n - ival sg b n).natAbs + c : Nat) 32
  | .neg => fun sg n a _ _ => wrapI (-(ival sg a n)) n
  | .abs => fun sg n a _ _ => wrapI (ival sg a n).natAbs n
  | .and => fun _ _ a b _ => a &&& b
  | .or => fun _ _ a b _ => a ||| b
  | .xor => fun _ _ a b _ => a ^^^ b
  | .andn => fun _ n a b _ => a &&& ((2 ^ n - 1) ^^^ (b % 2 ^ n))
  | .orn => fun _ n a b _ => a ||| ((2 ^ n - 1) ^^^ (b % 2 ^ n))
  | .not => fun _ n a _ _ => (2 ^ n - 1) ^^^ (a % 2 ^ n)
  | .shl => fun _ n a b _ => if b < n then a * 2 ^ b else 0
  | .shr => fun _ n a b _ => if b < n then a % 2 ^ n / 2 ^ b else 0
  | .sar => fun _ n a b _ => wrapI (sval a n / (2 ^ Nat.min b (n - 1) : Nat)) n
  | .rol => fun _ n a b _ => a % 2 ^ n * 2 ^ (b % n) + a % 2 ^ n / 2 ^ (n - b % n)
  | .ror => fun _ n a b _ => a % 2 ^ n / 2 ^ (b % n) + a % 2 ^ n * 2 ^ (n - b % n)
  | .fshl => fun _ n a b c => (a % 2 ^ n * 2 ^ n + c % 2 ^ n) * 2 ^ (b % n) / 2 ^ n
  | .popc => fun _ n a _ _ => ((List.range n).filter a.testBit).length
  | .clz => fun _ n a _ _ => ((List.range n).findIdx? fun i => a.testBit (n - 1 - i)).getD n
  | .ctz => fun _ n a _ _ => ((List.range n).findIdx? a.testBit).getD n
  | .brev => fun _ n a _ _ => (List.range n).foldl (fun r i => 2 * r + (a.testBit i).toNat) 0
  | .bfe => bfeRow
  | .bfi => bfiRow
  | .prmt => fun _ _ a b c => prmtRowByte a b c 0 + prmtRowByte a b c 1 * 2 ^ 8 + prmtRowByte a b c 2 * 2 ^ 16 +
      prmtRowByte a b c 3 * 2 ^ 24
  | .tst => fun _ _ a b _ => if a &&& b = 0 then 0 else 1
  | .eq => cmpRow fun x y => x == y
  | .ne => cmpRow fun x y => x != y
  | .lt => cmpRow fun x y => x < y
  | .le => cmpRow fun x y => x ≤ y
  | .gt => cmpRow fun x y => y < x
  | .ge => cmpRow fun x y => y ≤ x
  | .pand => fun _ _ a b _ => if a ≠ 0 ∧ b ≠ 0 then 1 else 0
  | .por => fun _ _ a b _ => if a ≠ 0 ∨ b ≠ 0 then 1 else 0
  | .pxor => fun _ _ a b _ => if (a ≠ 0) = (b ≠ 0) then 0 else 1
  | .pnot => fun _ _ a _ _ => if a = 0 then 1 else 0

/-- The row of a register form (Table 4.1, OPC A). -/
def intA? : Instr → Option (IntRow × FmtA)
  | .add f => some (.add, f) | .sub f => some (.sub, f) | .addsat f => some (.addsat, f)
  | .subsat f => some (.subsat, f) | .mul f => some (.mul, f) | .mulhi f => some (.mulhi, f)
  | .mad f => some (.mad, f) | .madhi f => some (.madhi, f) | .div f => some (.div, f) | .rem f => some (.rem, f)
  | .min f => some (.min, f) | .max f => some (.max, f) | .sad f => some (.sad, f) | .neg f => some (.neg, f)
  | .abs f => some (.abs, f) | .and f => some (.and, f) | .or f => some (.or, f) | .xor f => some (.xor, f)
  | .andn f => some (.andn, f) | .orn f => some (.orn, f) | .not f => some (.not, f) | .shl f => some (.shl, f)
  | .shr f => some (.shr, f) | .sar f => some (.sar, f) | .rol f => some (.rol, f) | .ror f => some (.ror, f)
  | .fshl f => some (.fshl, f) | .popc f => some (.popc, f) | .clz f => some (.clz, f) | .ctz f => some (.ctz, f)
  | .brev f => some (.brev, f) | .bfe f => some (.bfe, f) | .bfi f => some (.bfi, f) | .prmt f => some (.prmt, f)
  | .tst f => some (.tst, f) | .cmpEq f => some (.eq, f) | .cmpNe f => some (.ne, f) | .cmpLt f => some (.lt, f)
  | .cmpLe f => some (.le, f) | .cmpGt f => some (.gt, f) | .cmpGe f => some (.ge, f) | .pand f => some (.pand, f)
  | .por f => some (.por, f) | .pxor f => some (.pxor, f) | .pnot f => some (.pnot, f)
  | _ => none

/-- The row of an immediate form (Table 4.1, OPC I). -/
def intI? : Instr → Option (IntRow × FmtI)
  | .addI f => some (.add, f) | .subI f => some (.sub, f) | .addsatI f => some (.addsat, f)
  | .subsatI f => some (.subsat, f) | .mulI f => some (.mul, f) | .mulhiI f => some (.mulhi, f)
  | .madI f => some (.mad, f) | .madhiI f => some (.madhi, f) | .divI f => some (.div, f) | .remI f => some (.rem, f)
  | .minI f => some (.min, f) | .maxI f => some (.max, f) | .sadI f => some (.sad, f) | .andI f => some (.and, f)
  | .orI f => some (.or, f) | .xorI f => some (.xor, f) | .andnI f => some (.andn, f) | .ornI f => some (.orn, f)
  | .shlI f => some (.shl, f) | .shrI f => some (.shr, f) | .sarI f => some (.sar, f) | .rolI f => some (.rol, f)
  | .rorI f => some (.ror, f) | .fshlI f => some (.fshl, f) | .bfeI f => some (.bfe, f) | .bfiI f => some (.bfi, f)
  | .prmtI f => some (.prmt, f) | .tstI f => some (.tst, f) | .cmpEqI f => some (.eq, f) | .cmpNeI f => some (.ne, f)
  | .cmpLtI f => some (.lt, f) | .cmpLeI f => some (.le, f) | .cmpGtI f => some (.gt, f) | .cmpGeI f => some (.ge, f)
  | _ => none

/-- The width of the constant operand b of a format I node whose fields hold assigned values: that of slot b of the
node's row, 32 for a `SHFL` (R75, R98, R121). -/
def immBits (opc : Nat) (f : FmtI) : Option Nat :=
  if 0xFC ≤ opc ∧ opc ≤ 0xFF then some 32
  else if 0x40 ≤ opc ∧ opc ≤ 0x6A then (intShape (opc - 0x40) (typeWidth f.mod.toNat) false).b
  else none

/-- The node delivers, at both targets and for each performing lane, the n-bit value of a function of its operand
values; the step changes nothing but the block. -/
def Delivers (i : Instr) (s : State) (w : WarpId) (k : Nat) (b : Blk) (t0 t1 : BitVec 10) (n : Nat)
    (g : Nat → Nat → Nat → Nat) : Prop :=
  ∀ b1, deliverAll (b.fire k) (toTargets b k [t0, t1] fun _ o =>
      tokOf (n / 32) (g (tokVal o.a) (tokVal o.b) (tokVal o.c) % 2 ^ n)) = .ok b1 →
    exec i s = .next (afterNode s w b1)

/-- The node delivers the same tokens to a list of targets; the step changes nothing but the block. -/
def DeliversTo (i : Instr) (s : State) (w : WarpId) (k : Nat) (b : Blk) (ts : List (BitVec 10))
    (g : Nat → LaneOps → Tok) : Prop :=
  ∀ b1, deliverAll (b.fire k) (toTargets b k ts g) = .ok b1 → exec i s = .next (afterNode s w b1)
/-! ## Floating point, conversions and cross-lane nodes -/

/-- A format A row: its fields, the width of its result, and the result's value from `MODE` and the operand values. -/
abbrev RowA := FmtA × Nat × (Word → Nat → Nat → Nat → Nat)

/-- An operand as R108 prepares it: a subnormal is a zero of its sign where `MODE.DN` flushes sources (R91), then the
absolute value, then the negation. -/
def operandCode (F : Fmt) (dn : Nat) (absbit negbit : Bool) (c : Nat) : Nat :=
  let c1 := if dn % 2 = 1 ∧ F.isSub c then c / F.sgn * F.sgn else c
  let c2 := if absbit then c1 % F.sgn else c1
  if negbit then (c2 + F.sgn) % (2 * F.sgn) else c2

/-- A result of R110: a subnormal is a zero of its sign where `MODE.DN` flushes results, and MOD[52] clamps to [+0, 1]. -/
def resultCode (F : Fmt) (t : FpCtl) (c : Nat) : Nat :=
  let r := if 2 ≤ t.dn ∧ F.isSub c then c / F.sgn * F.sgn else c
  if t.mod.getLsbD 4 then
    if F.isNan r ∨ F.sgn ≤ r then 0 else min r ((2 ^ (F.ew - 1) - 1) * 2 ^ F.m)
  else r

/-- 2^e. -/
def pow2 (e : Int) : Rat := ((2 ^ e.toNat : Nat) : Rat) / ((2 ^ (-e).toNat : Nat) : Rat)

/-- The rational that an exact finite value is. -/
def ratOf : XVal → Option Rat
  | .fin neg m e => some ((if neg then -1 else 1) * (m : Rat) * pow2 e)
  | _ => none

/-- The absolute value. -/
def absRat (x : Rat) : Rat := if x < 0 then -x else x

/-- The integer that y is rounded to (R93). -/
def RoundsTo (rm : Rm) (y : Rat) (k : Int) : Prop :=
  match rm with
  | .rne => absRat (y - k) ≤ 1 / 2 ∧ (absRat (y - k) = 1 / 2 → k % 2 = 0)
  | .rna => absRat (y - k) ≤ 1 / 2 ∧ (absRat (y - k) = 1 / 2 → absRat y < absRat k)
  | .rtz => absRat k ≤ absRat y ∧ absRat y < absRat k + 1 ∧ 0 ≤ y * k
  | .rup => y ≤ k ∧ (k : Rat) < y + 1
  | .rdn => (k : Rat) ≤ y ∧ y < k + 1

/-- `round_fp` of R93 for a nonzero rational: r is the code of the multiple v of the unit in the last place that x is rounded
to, with x's sign; beyond F.max it is an infinity or F.max by the mode, and below the normal range a zero where `MODE.DN`
flushes results. -/
def RoundedOnce (F : Fmt) (rm : Rm) (dn : Nat) (x : Rat) (r : Nat) : Prop :=
  ∃ (l k : Int), pow2 l ≤ absRat x ∧ absRat x < pow2 (l + 1) ∧
    let q := pow2 (max l F.emin - F.m)
    let s := if x < 0 then F.sgn else 0
    RoundsTo rm (x / q) k ∧
    (if ∀ m, ratOf (F.value F.maxCode) = some m → m < absRat (k * q) then
      r = s + (if F.inf ∧ (rm = .rne ∨ rm = .rna ∨ (rm = .rup ∧ 0 < x) ∨ (rm = .rdn ∧ x < 0)) then F.infCode else F.maxCode)
    else if absRat (k * q) < pow2 F.emin ∧ 2 ≤ dn then r = s
    else ratOf (F.value r) = some (k * q) ∧ r < 2 * F.sgn ∧ F.neg r = decide (x < 0))

/-- An operation on FP32 codes. -/
def onF32 (f : FmtA) (op : FpOp) : Option RowA := some (f, 32, fun mode => op f32 (ctlOf f mode))

/-- An operation on FP64 codes with a result of n bits. -/
def onF64 (f : FmtA) (n : Nat) (op : FpOp) : Option RowA := some (f, n, fun mode => op f64 (ctlOf f mode))

/-- An operation on each 16-bit half; EXT[21] picks BF16 (R113), `k` scales the result of a half. -/
def onHalves (f : FmtA) (k : Nat) (op : FpOp) : Option RowA :=
  some (f, 32, fun mode a b c =>
    let F := if f.ext.getLsbD 21 then fBF else fHF
    op F (ctlOf f mode) (a % 2 ^ 16) (b % 2 ^ 16) (c % 2 ^ 16) * k % 2 ^ 16 +
      op F (ctlOf f mode) (a / 2 ^ 16 % 2 ^ 16) (b / 2 ^ 16 % 2 ^ 16) (c / 2 ^ 16 % 2 ^ 16) * k % 2 ^ 16 * 2 ^ 16)

/-- R112: an ordered comparison of x and y after flushing and modifiers, −0 = +0; with a NaN the answer `nan`. -/
def fpCmpRow (p : Int → Int → Bool) (nan : Bool) : FpOp := fun F t a b _ =>
  let x := opX F t a
  let y := opY F t b
  if F.isNan x || F.isNan y then nan.toNat
  else (p (signed (F.neg x) (F.mag x)) (signed (F.neg y) (F.mag y))).toNat

/-- The rows of R107 to R119. -/
def floatA? : Instr → Option RowA
  | .fadd f => onF32 f fpAdd | .fsub f => onF32 f fpSub | .fmul f => onF32 f fpMul | .ffma f => onF32 f fpFma
  | .fmin f => onF32 f (fpPick true) | .fmax f => onF32 f (fpPick false) | .fclass f => onF32 f fpClass
  | .frcp f => onF32 f (fpUnary rcpRound) | .frsq f => onF32 f (fpUnary rsqrtRound)
  | .fsqrt f => onF32 f (fpUnary sqrtRound) | .fdiv f => onF32 f fpDiv | .fexp2 f => onF32 f (fpUnary exp2Round)
  | .flog2 f => onF32 f (fpUnary log2Round) | .fsin f => onF32 f (fpUnary sinRound)
  | .fcos f => onF32 f (fpUnary cosRound) | .ftanh f => onF32 f (fpUnary tanhRound)
  | .fcmpEq f => onF32 f (fpCmpRow (· == ·) false) | .fcmpNe f => onF32 f (fpCmpRow (· != ·) true)
  | .fcmpLt f => onF32 f (fpCmpRow (· < ·) false) | .fcmpLe f => onF32 f (fpCmpRow (· ≤ ·) false)
  | .fcmpGt f => onF32 f (fpCmpRow (· > ·) false) | .fcmpGe f => onF32 f (fpCmpRow (· ≥ ·) false)
  | .dadd f => onF64 f 64 fpAdd | .dmul f => onF64 f 64 fpMul | .dfma f => onF64 f 64 fpFma
  | .dmin f => onF64 f 64 (fpPick true) | .dmax f => onF64 f 64 (fpPick false) | .ddiv f => onF64 f 64 fpDiv
  | .dsqrt f => onF64 f 64 (fpUnary sqrtRound)
  | .dcmpEq f => onF64 f 32 (fpCmpRow (· == ·) false) | .dcmpNe f => onF64 f 32 (fpCmpRow (· != ·) true)
  | .dcmpLt f => onF64 f 32 (fpCmpRow (· < ·) false) | .dcmpLe f => onF64 f 32 (fpCmpRow (· ≤ ·) false)
  | .dcmpGt f => onF64 f 32 (fpCmpRow (· > ·) false) | .dcmpGe f => onF64 f 32 (fpCmpRow (· ≥ ·) false)
  | .hadd2 f => onHalves f 1 fpAdd | .hmul2 f => onHalves f 1 fpMul | .hfma2 f => onHalves f 1 fpFma
  | .hmin2 f => onHalves f 1 (fpPick true) | .hmax2 f => onHalves f 1 (fpPick false)
  | .hcmp2Eq f => onHalves f 0xFFFF (fpCmpRow (· == ·) false) | .hcmp2Ne f => onHalves f 0xFFFF (fpCmpRow (· != ·) true)
  | .hcmp2Lt f => onHalves f 0xFFFF (fpCmpRow (· < ·) false) | .hcmp2Le f => onHalves f 0xFFFF (fpCmpRow (· ≤ ·) false)
  | .hcmp2Gt f => onHalves f 0xFFFF (fpCmpRow (· > ·) false) | .hcmp2Ge f => onHalves f 0xFFFF (fpCmpRow (· ≥ ·) false)
  | .cvt f => some (f, cvtWidth f.mod.toNat, fun mode a _ _ =>
      cvtV mode f.mod.toNat (bitsOf f.ext 20 16) (bitsOf f.ext 24 22) (f.ext.getLsbD 21) a)
  | .cvtpk f => some (f, 32, fun mode a b c =>
      let w := packWidth f.mod.toNat
      let e (x : Nat) : Nat := cvtV mode f.mod.toNat 0x0A (bitsOf f.ext 24 22) (f.ext.getLsbD 21) x
      setField (setField (if f.ext.getLsbD 3 then c else 0) (2 * bitsOf f.ext 1 0 * w) w (e a))
        ((2 * bitsOf f.ext 1 0 + 1) * w) w (e b))
  | .cvtsc f => some (f, 32, fun mode a b c =>
      let w := packWidth f.mod.toNat
      let k := bitsOf f.ext 2 0
      let rnd := bitsOf f.ext 24 22
      let sc := scaleValue (bitsOf f.ext 20 16) b
      if f.ext.getLsbD 21 then
        roundFp f32 (rmOf mode rnd) (modeDN mode)
          (mulX (elemSource f.mod.toNat (modeDN mode) (a / 2 ^ (k * w) % 2 ^ w)) sc)
      else setField c (k * w) w (intoScaled mode f.mod.toNat rnd (f32.value (flushIn f32 (modeDN mode) a)) sc))
  | _ => none

/-- The a values of the performing lanes. -/
def aValues (b : Blk) (k : Nat) : Assoc Nat := (performing b k).map fun p => (p.1, tokVal p.2.a)

/-- The mask of the lanes of P whose value passes a test. -/
def maskWhere (vs : Assoc Nat) (p : Nat → Bool) : Nat := (vs.map fun v => if p v.2 then 2 ^ v.1 else 0).sum

/-- The rows of R122 and R123: their fields, the width of the result, and a lane's result from `MODE` and the values of
the performing lanes. -/
def crossA? : Instr → Option (FmtA × Nat × (Word → Assoc Nat → Nat → Nat))
  | .ballot f => some (f, typeWidth f.mod.toNat, fun _ vs _ => maskWhere vs (· != 0))
  | .voteAny f => some (f, 32, fun _ vs _ => (vs.any (·.2 != 0)).toNat)
  | .voteAll f => some (f, 32, fun _ vs _ => (vs.all (·.2 != 0)).toNat)
  | .voteUni f => some (f, 32, fun _ vs l => (vs.all fun v => v.2 == agetD vs l 0).toNat)
  | .matchLanes f => some (f, 64, fun _ vs l => maskWhere vs (· == agetD vs l 0))
  | .redux f => some (f, typeWidth f.mod.toNat, fun mode vs _ =>
      ((reduxTree f.mod.toNat (bitsOf f.ext 2 0) (scanCtl f mode) 6
        ((List.range 64).map fun l => (aget vs l).map fun v => (v, true))).map (·.1)).getD 0)
  | .scan f => some (f, typeWidth f.mod.toNat, fun mode vs l =>
      (scanTo f.mod.toNat (bitsOf f.ext 2 0) (scanCtl f mode) vs (if f.ext.getLsbD 3 then l else l + 1)).getD
        (scanIdentity f.mod.toNat (bitsOf f.ext 2 0)))
  | _ => none

/-- A `SHFL` form (R121): the targets, the width n of its type, EXT.flg, and the way the source lane is found: 0 idx,
1 up, 2 down, 3 xor. -/
structure ShflForm where
  t0 : BitVec 10
  t1 : BitVec 10
  n : Nat
  flg : Bool
  how : Nat

/-- The register form of a `SHFL`. -/
def shflA (f : FmtA) (how : Nat) : Option ShflForm := some ⟨f.t0, f.t1, typeWidth f.mod.toNat, f.ext.getLsbD 0, how⟩

/-- The immediate form of a `SHFL`. -/
def shflI (f : FmtI) (how : Nat) : Option ShflForm := some ⟨f.t0, f.t1, typeWidth f.mod.toNat, false, how⟩

/-- The `SHFL` nodes (R121). -/
def shfl? : Instr → Option ShflForm
  | .shflIdx f => shflA f 0 | .shflUp f => shflA f 1 | .shflDown f => shflA f 2 | .shflXor f => shflA f 3
  | .shflIdxI f => shflI f 0 | .shflUpI f => shflI f 1 | .shflDownI f => shflI f 2 | .shflXorI f => shflI f 3
  | _ => none

/-- The lane that R121 names as the source of lane l for an index v: below 32 lanes in a warp of 32 without `MODE.LSX`. -/
def shflIndex (x : Warp) (b : Blk) (how l v : Nat) : Int :=
  let j : Int := match how with
    | 0 => v
    | 1 => (l : Int) - v
    | 2 => (l : Int) + v
    | _ => ((l ^^^ v : Nat) : Int)
  if x.lanes = 32 ∧ ¬ modeLSX b.mode ∧ 32 ≤ j ∧ j ≤ 63 then j - 32 else j

/-- The lane whose token `SHFL` passes to lane l, none when the index is out of range or that lane does not perform. -/
def shflGiver (x : Warp) (b : Blk) (k how l v : Nat) : Option Nat :=
  ((performing b k).map (·.1)).find? fun j => (j : Int) = shflIndex x b how l (v % 2 ^ 32) && j < x.lanes

/-- The token that lane l receives: the source lane's a, else its own. -/
def shflTok (x : Warp) (b : Blk) (k how l : Nat) (o : LaneOps) : Tok :=
  match (shflGiver x b k how l (tokVal o.b)).bind (aget (performing b k)) with
  | some q => q.a
  | none => o.a

/-- The tokens of a that a `SHFL` passes on: those of the lanes that some performing lane receives from (R95). -/
def shflPassed (x : Warp) (b : Blk) (k how : Nat) : List Nat :=
  (performing b k).map fun p => (shflGiver x b k how p.1 (tokVal p.2.b)).getD p.1

/-- The words that a `SHFL` consumes of a lane: its b, and its a where no lane receives it (R95). -/
def shflWords (x : Warp) (b : Blk) (k how l : Nat) (o : LaneOps) : List W40 :=
  (if l ∈ shflPassed x b k how then [] else o.a) ++ o.b

/-- The class of an FP32 code (R111), from its exponent and fraction fields. -/
def fclassRow (a : Nat) : Nat :=
  let e := a / 2 ^ 23 % 2 ^ 8
  let m := a % 2 ^ 23
  let n := a.testBit 31
  if e = 255 then (if m = 0 then (if n then 2 ^ 2 else 2 ^ 9) else if m.testBit 22 then 2 ^ 1 else 2 ^ 0)
  else if e = 0 then (if m = 0 then (if n then 2 ^ 5 else 2 ^ 6) else if n then 2 ^ 4 else 2 ^ 7)
  else if n then 2 ^ 3 else 2 ^ 8

/-- The rows of R122: the votes and `MATCH`. -/
def vote? : Instr → Option (FmtA × Nat × (Assoc Nat → Nat → Nat))
  | .ballot f => some (f, typeWidth f.mod.toNat, fun vs _ => maskWhere vs (· != 0))
  | .voteAny f => some (f, 32, fun vs _ => if ∃ v ∈ vs, v.2 ≠ 0 then 1 else 0)
  | .voteAll f => some (f, 32, fun vs _ => if ∀ v ∈ vs, v.2 ≠ 0 then 1 else 0)
  | .voteUni f => some (f, 32, fun vs _ => if ∀ v ∈ vs, ∀ u ∈ vs, v.2 = u.2 then 1 else 0)
  | .matchLanes f => some (f, 64, fun vs l => maskWhere vs (· == agetD vs l 0))
  | _ => none
/-! ## Memory and engine nodes -/

/-- The state with no instruction chosen: what a node's meaning starts from. -/
def idle (s : State) : State := { s with cur := .none }

/-- The lanes' effective addresses of a format M node (R75). -/
def laneAddrs (b : Blk) (k : Nat) (ofs : BitVec 20) : List (Nat × Double) :=
  (performing b k).map fun p => (p.1, effAddr p.2.a ofs)

/-- A lane's operands and address, as a held operation keeps them. -/
def heldLane (l : Nat) (o : LaneOps) (va : Double) (loc : Option Loc) : HeldLane := ⟨l, o.a, o.b, o.c, va, loc⟩

/-- The performing lanes with their resolved addresses, as a held operation keeps them. -/
def captured (b : Blk) (k : Nat) (rs : List (Nat × Double × Loc)) : List HeldLane :=
  rs.filterMap fun r => (aget (performing b k) r.1).map fun o => heldLane r.1 o r.2.1 (some r.2.2)

/-- A block in which a held operation of node k has fired (R125). -/
def holding (b : Blk) (k lsid : Nat) (lanes : List HeldLane) : Blk :=
  ({ b with held := b.held ++ [⟨k, lsid, lanes⟩] } : Blk).fire k

/-- A block in which a commit operation of node k has fired (R39). -/
def committing (b : Blk) (k lsid : Nat) (lanes : List HeldLane) : Blk :=
  ({ b with cop := some ⟨k, lsid, lanes⟩ } : Blk).fire k

/-- The held memory nodes: the bytes that each addresses, the permission it needs, and the access its record names. -/
def heldMem? : Instr → Option (FmtM × Nat × Need × Access)
  | .st f => some (f, 2 ^ bitsOf f.mod 3 0, accNeed .write, .write)
  | .cwb f => some (f, 1, ⟨0, false⟩, .read) | .cinv f => some (f, 1, ⟨0, false⟩, .read)
  | .redAdd f => some (f, typeWidth f.mod.toNat / 8, redNeed, .atomic)
  | .redMin f => some (f, typeWidth f.mod.toNat / 8, redNeed, .atomic)
  | .redMax f => some (f, typeWidth f.mod.toNat / 8, redNeed, .atomic)
  | .redAnd f => some (f, typeWidth f.mod.toNat / 8, redNeed, .atomic)
  | .redOr f => some (f, typeWidth f.mod.toNat / 8, redNeed, .atomic)
  | .redXor f => some (f, typeWidth f.mod.toNat / 8, redNeed, .atomic)
  | .redInc f => some (f, typeWidth f.mod.toNat / 8, redNeed, .atomic)
  | .redDec f => some (f, typeWidth f.mod.toNat / 8, redNeed, .atomic)
  | .redFadd f => some (f, typeWidth f.mod.toNat / 8, redNeed, .atomic)
  | .redBfadd2 f => some (f, typeWidth f.mod.toNat / 8, redNeed, .atomic)
  | _ => none

/-- The `ATOM` nodes. -/
def atom? : Instr → Option FmtM
  | .atomAdd f => some f | .atomMin f => some f | .atomMax f => some f | .atomAnd f => some f | .atomOr f => some f
  | .atomXor f => some f | .atomExch f => some f | .atomCas f => some f | .atomInc f => some f | .atomDec f => some f
  | .atomFadd f => some f | .atomBfadd2 f => some f
  | _ => none

/-- What a test of R141, R143, R145, R153, R158, R177 or R186 at the firing of a warp-level held node answers when it
finds no fault: the node's fields and the address that is held. -/
def heldTest (i : Instr) (s : State) (w : WarpId) (x : Warp) (o : LaneOps) : Option (FmtE × Double × Option Loc) :=
  let a : Double := BitVec.ofNat 64 (tokVal o.a)
  let t := s.teamD w x
  let plain (f : FmtE) : Option (FmtE × Double × Option Loc) := some (f, a, none)
  let located (f : FmtE) (va : Double) (sp n : Nat) (at_ : Double) (need : Need) : Option (FmtE × Double × Option Loc) :=
    match s.resolve w t x 0 sp at_ n need with | .ok l => some (f, va, some l) | .error _ => none
  let handle (f : FmtE) : Double := handleOf t f.res.toNat
  let region (f : FmtE) : Bool := ((s.bay w.bay).teamRegion x.key (bitsOf f.imm 3 0)).isSome
  let matrix (opc : Nat) (bar : Bool) (f : FmtE) : Option (FmtE × Double × Option Loc) :=
    if (s.bay w.bay).mx.owner = some x.key && (!bar || (handle f).getLsbD 63) &&
        (badExtent t.decl (mxExtents opc f (tokVal o.a) (tokVal o.b) (tokVal o.c))).isNone then some (f, 0, none)
    else none
  match i with
  | .evunb f => plain f | .evmaskSet f => plain f | .evmaskClr f => plain f | .evmaskWr f => plain f
  | .evpost f => plain f | .evclr f => plain f | .cpkick f => plain f | .leaseSet f => plain f
  | .leaseMeas f => plain f | .snap f => plain f | .tret f => plain f
  | .binit f => located f a (bitsOf f.imm 2 0) 16 a ⟨2, false⟩
  | .bbind f => located f a (bitsOf f.imm 2 0) 16 a (accNeed .read)
  | .bret f => if (handle f).getLsbD 63 then some (f, handle f, none) else none
  | .barv f => if (handle f).getLsbD 63 then
      located f (handle f) (handleSpace (handle f)) 16 (handleAddr (handle f)) (accNeed .atomic) else none
  | .barx f => if (handle f).getLsbD 63 then
      located f (handle f) (handleSpace (handle f)) 16 (handleAddr (handle f)) (accNeed .atomic) else none
  | .evbind f => if targetAddrOk a && (f.mod != 2 ||
      (agetD (s.bay w.bay).mbox (bitsOf f.imm 3 0) .reset).owner == some x.key) then plain f else none
  | .strbind f => if region f then plain f else none
  | .tstart f => if region f then plain f else none
  | .tstop f => if region f then plain f else none
  | .tload f => if region f then located f a 0 32 a (accNeed .read) else none
  | .ldstat f => matrix 0x1B0 false f | .swapst f => matrix 0x1B1 false f
  | .mms f => matrix 0x1B2 (f.imm.getLsbD 12) f | .accz f => matrix 0x1B3 false f
  | .accrd f => matrix 0x1B4 (f.imm.getLsbD 12) f | .accsc f => matrix 0x1B5 false f | .accld f => matrix 0x1B6 false f
  | _ => none

/-- Every performing lane held with the operands of the lowest one (R125). -/
def warpLanes (b : Blk) (k : Nat) (o : LaneOps) (va : Double) (loc : Option Loc) : List HeldLane :=
  (performing b k).map fun p => heldLane p.1 o va loc

/-- The same token for every performing lane. -/
def sameForAll (b : Blk) (k : Nat) (t : BitVec 10) (v : Tok) : List (BitVec 10 × (Nat → Option Tok)) :=
  toTargets b k [t] fun _ _ => v

/-- The test of a barrier record that `BGEN` or `BPAR` makes (R141, R142). -/
def barTest? : Instr → Option (FmtE × (Word → Nat → Bool))
  | .bgen f => some (f, fun gen a => gen.toNat != a)
  | .bpar f => some (f, fun gen a => gen.getLsbD 0 != a.testBit 0)
  | _ => none

/-- The record that a bound handle of the warp's team names, readable (R141, R143). -/
def ReadsRecord (s : State) (w : WarpId) (x : Warp) (h : Double) (l : Loc) : Prop :=
  h.getLsbD 63 = true ∧
    s.resolve w (s.teamD w x) x 0 (handleSpace h) (handleAddr h) 16 (accNeed .read) = .ok l

/-- A home's word after the dirty bytes of word i of a line have gone there (R235): the whole word where all are dirty. -/
def homeAfter (home : W40) (x : L1Line) (i : Nat) : W40 :=
  if x.dirtyWord i = 0 then home else if x.dirtyWord i = 0xF then agetD x.words i .zero
  else writeBackWord home (agetD x.words i .zero) (x.dirtyWord i)

/-- One lane's load (R126, R134): the words from its location, or the word that holds it, as `State.loadWords` finds
them, under the block's held stores of lower LSID. -/
def laneLoad (s : State) (w : WarpId) (b : Blk) (f : FmtM) (p : Loc) : State × List W40 :=
  let l := if bitsOf f.mod 3 0 ≤ 1 then p.align else p
  let r := s.loadWords w f.space.toNat f.cache.toNat l (if bitsOf f.mod 3 0 ≤ 1 then 1 else 2 ^ bitsOf f.mod 3 0 / 4) 0
  (r.1, r.2.zipIdx.map fun v => heldView b f.lsid.toNat (wordLoc f.space.toNat l v.2) v.1)

/-- Every lane's load in rising lane order, each in the state that the one before it leaves (its L1 effects): the last
state, and each lane's location and words. -/
def lanesLoad (s : State) (w : WarpId) (b : Blk) (f : FmtM) :
    List (Nat × Double × Loc) → State × List (Nat × Loc × List W40)
  | [] => (s, [])
  | (l, _, p) :: r =>
    let one := laneLoad s w b f p
    let rest := lanesLoad one.1 w b f r
    (rest.1, (l, p, one.2) :: rest.2)

/-- The token that a load delivers (R134): its words, or the byte or half word at its address extended as MOD[4] says. -/
def loadedTok (f : FmtM) (p : Loc) (ws : List W40) : Tok :=
  if bitsOf f.mod 3 0 ≤ 1 then narrowLoad (bitsOf f.mod 3 0) (f.mod.getLsbD 4) p (wordAt ws 0) else ws

/-- A block that has read the words of a load's lanes (R57). -/
def loadedBlk (b : Blk) (f : FmtM) (vs : List (Nat × Loc × List W40)) : Blk :=
  { b with reads := b.reads ++ vs.flatMap fun v =>
      (List.range v.2.2.length).map fun i => (wordLoc f.space.toNat v.2.1 i).align }

/-- No word of the lanes' locations must wait for an engine or for a merge of the warp's own (R247, R256). -/
def NoWordWaits (s : State) (w : WarpId) (f : FmtM) (rs : List (Nat × Double × Loc)) : Prop :=
  ∀ r ∈ rs, ∀ i < max 1 (2 ^ bitsOf f.mod 3 0 / 4), wordBlocked s w (wordLoc f.space.toNat r.2.2 i) = false

/-- Where a `PREF` of a lane will look, or nowhere where its address does not translate (R127, R135). -/
def prefLoc (s : State) (w : WarpId) (va : Double) : Option Loc :=
  if canonical va then (s.translate (s.ctxOf w) va (accNeed .read)).toOption else none

/-- The walks for a list of addresses that no cache holds list the bad entries that they meet (R375). -/
def listMisses (s : State) (w : WarpId) (vas : List Double) : State :=
  vas.foldl (fun t va => t.listMiss (s.ctxOf w) va (accNeed .read)) s

/-- The first n words of a barrier record as a read of an LSID sees them: at home, under the block's held stores. -/
def recordView (s : State) (b : Blk) (lsid : Nat) (l : Loc) (n : Nat) : List W40 :=
  (List.range n).map fun i => heldView b lsid (l.add (4 * i)) (s.homeWord (l.add (4 * i)))

/-- No word of a record must wait for an engine or for a merge of the warp's own (R180, R256). -/
def RecordReady (s : State) (w : WarpId) (l : Loc) : Prop := ∀ i < 4, wordBlocked s w (l.add (4 * i)) = false

/-- A block that has read the first n words of a record (R57). -/
def readBlk (b : Blk) (l : Loc) (n : Nat) : Blk :=
  { b with reads := b.reads ++ (List.range n).map fun i => l.add (4 * i) }

/-- The direct exits and those without a target. -/
def directExit? : Instr → Option FmtX
  | .br f => some f | .call f => some f | .ret f => some f | .halt f => some f | .trap f => some f | .brk f => some f
  | _ => none

/-- The indirect exits. -/
def indirectExit? : Instr → Option FmtX
  | .bri f => some f | .calli f => some f
  | _ => none

/-- The lanes' targets of an indirect exit. -/
def laneTargets (b : Blk) (k : Nat) : Assoc Double :=
  (performing b k).map fun p => (p.1, BitVec.ofNat 64 (tokVal p.2.a))

/-- A block in which an exit has fired: the performing lanes vote for it (R38). -/
def voting (b : Blk) (k : Nat) (ts : Assoc Double) : Blk :=
  ({ b with votes := b.votes ++ [⟨k, maskOf ((performing b k).map (·.1)), ts⟩] } : Blk).fire k
/-! ## Faults, blocks and warps -/

/-- What a compute node delivers, and the words that it consumes of a lane, with their places (R94, R95). -/
structure Row where
  outs : State → WarpId → Warp → Blk → Nat → List (BitVec 10 × (Nat → Option Tok))
  uses : Warp → Blk → Nat → Nat → LaneOps → List Placed

/-- A row that delivers to both targets the n-bit value of a function of `MODE` and the operand values, and consumes
every operand. -/
def valueRow (t0 t1 : BitVec 10) (n : Nat) (g : Word → Nat → Nat → Nat → Nat) : Row where
  outs := fun _ _ _ b k => toTargets b k [t0, t1] fun _ o =>
    tokOf (n / 32) (g b.mode (tokVal o.a) (tokVal o.b) (tokVal o.c) % 2 ^ n)
  uses := fun _ _ _ _ o => allOps o

/-- A row that delivers the same token to a list of targets and consumes nothing. -/
def tokenRow (ts : List (BitVec 10)) (g : State → WarpId → Nat → LaneOps → Tok) : Row where
  outs := fun s w _ b k => toTargets b k ts (g s w)
  uses := fun _ _ _ _ _ => []

/-- `SEL`: the chosen operand is passed on, the other one and c are consumed. -/
def selRow (t0 t1 : BitVec 10) : Row where
  outs := fun _ _ _ b k => toTargets b k [t0, t1] fun _ o => if tokVal o.c ≠ 0 then o.a else o.b
  uses := fun _ _ _ _ o => (if tokVal o.c ≠ 0 then placed 1 o.b else placed 0 o.a) ++ placed 2 o.c

/-- `SHFL`: what lanes receive is passed on, the rest is consumed. -/
def shflRow (r : ShflForm) : Row where
  outs := fun _ _ x b k => toTargets b k [r.t0] (shflTok x b k r.how) ++ toTargets b k [r.t1] fun l o =>
    if r.flg then tokOf (r.n / 32) (shflGiver x b k r.how l (tokVal o.b)).isNone.toNat else shflTok x b k r.how l o
  uses := fun x b k l o => (if l ∈ shflPassed x b k r.how then [] else placed 0 o.a) ++ placed 1 o.b

/-- The compute nodes that neither take nor pass one value alone: `SEL`, `LEA`, the moves, the constants and `SRD`. -/
def moveRow? : Instr → Option Row
  | .sel f => some (selRow f.t0 f.t1)
  | .selI f => some (selRow f.t0 f.t1)
  | .lea f => some (valueRow f.t0 f.t1 64 fun _ a v _ =>
      wrapI ((a : Int) + ival (typeSigned f.mod.toNat) v 32 * (2 ^ bitsOf f.ext 2 0 : Nat)) 64)
  | .leaI f => some (valueRow f.t0 f.t1 64 fun _ a v _ => wrapI ((a : Int) + ival (typeSigned f.mod.toNat) v 32) 64)
  | .mov f => some (tokenRow [f.t0, f.t1] fun _ _ _ o => o.a)
  | .mov4 f => some (tokenRow [f.t0, f.t1, f.ext.extractLsb' 15 10, f.ext.extractLsb' 5 10] fun _ _ _ o => o.a)
  | .movi f => some (tokenRow [f.t0] fun _ _ _ _ =>
      tokOf (typeWidth f.mod.toNat / 32) (if f.mod = 2 then (f.imm.signExtend 64).toNat else f.imm.toNat))
  | .movhi f => some (tokenRow [f.t0] fun _ _ _ o => o.a.take 1 ++ [fresh f.imm])
  | .srd f => some (tokenRow [f.t0, f.t1] fun s w l _ =>
      tokOf (typeWidth f.mod.toNat / 32) (specialValue s w (bitsOf f.ext 7 0) l).toNat)
  | _ => none

/-- The row of every compute node: integer, data, floating point and cross-lane (R94 to R123). -/
def row? (i : Instr) : Option Row :=
  match intA? i, intI? i, floatA? i, crossA? i, shfl? i with
  | some (r, f), _, _, _, _ => some (valueRow f.t0 f.t1 (r.width (typeWidth f.mod.toNat)) fun _ a b c =>
      r.value (typeSigned f.mod.toNat) (typeWidth f.mod.toNat) a b c)
  | _, some (r, f), _, _, _ => some (valueRow f.t0 f.t1 (r.width (typeWidth f.mod.toNat)) fun _ a b c =>
      r.value (typeSigned f.mod.toNat) (typeWidth f.mod.toNat) a b c)
  | _, _, some (f, n, g), _, _ => some (valueRow f.t0 f.t1 n g)
  | _, _, _, some (f, n, g), _ => some
      { outs := fun _ _ _ b k => toTargets b k [f.t0, f.t1] fun l _ => tokOf (n / 32) (g b.mode (aValues b k) l % 2 ^ n)
        uses := fun _ _ _ _ o => allOps o }
  | _, _, _, _, some r => some (shflRow r)
  | _, _, _, _, _ => moveRow? i

/-- The words that a row consumes pass their checks (R95). -/
def GoodUses (r : Row) (x : Warp) (b : Blk) (k : Nat) : Prop :=
  ∀ p ∈ performing b k, ∀ v ∈ r.uses x b k p.1 p.2, good v.2 = true

/-- The words that a row consumes, by performing lane. -/
def usedWords (r : Row) (x : Warp) (b : Blk) (k : Nat) : List (Nat × List Placed) :=
  (performing b k).map fun p => (p.1, r.uses x b k p.1 p.2)

/-- The fault of a slot that would receive a second token for a lane (R36). -/
def conflictFault (s : State) (w : WarpId) (k key : Nat) (m : Mask) : State :=
  (idle s).takeFault w { kind := 0x05, sub := 0x03, node := some k, lanes := m, va := BitVec.ofNat 64 key } none

/-- Only block b1 of warp w has changed, and `cur` is cleared: no byte of device memory or of a scratchpad, no
register, flag, stack, address or mask of any warp, and no other field of the state. -/
structure OnlyBlock (s t : State) (w : WarpId) (x : Warp) (b1 : Blk) : Prop where
  rest : t = { s with cur := .none, bays := t.bays }
  memory : ∀ a, t.mem.byte a = s.mem.byte a
  pads : ∀ n a, (t.bay n).pad.byte a = (s.bay n).pad.byte a
  bays : ∀ n, n ≠ w.bay → t.bay n = s.bay n
  bay : t.bay w.bay = { s.bay w.bay with warps := (t.bay w.bay).warps }
  warp : t.warp? w = some { x with blk := some b1 }
  others : ∀ v, v.bay ≠ w.bay ∨ wkey v ≠ wkey w → t.warp? v = s.warp? v

/-- A warp's context of execution that outlives a block: address, mask, mode, registers, stack, region. -/
structure SameContext (x y : Warp) : Prop where
  pc : y.pc = x.pc
  mask : y.mask = x.mask
  mode : y.mode = x.mode
  regs : y.regs = x.regs
  uregs : y.uregs = x.uregs
  binds : y.binds = x.binds
  stack : y.stack = x.stack ∧ y.spilled = x.spilled
  region : y.region = x.region

/-- A warp's block is complete and its commit has not begun (R38); it is in time for a pre-emption request (R51) and its
window's lease turn has not ended (R274). -/
structure Completes (s : State) (w : WarpId) (x : Warp) (b : Blk) : Prop where
  warp : s.warp? w = some x
  blk : x.blk = some b
  running : x.park = .running
  fired : allFired b = true
  fresh : b.releasing = none
  time : mayRun x s.now = true
  turn : agetD (s.bay w.bay).turn (windowOf (wkey w)) 0 < 4096

/-- A running warp stands at a block boundary, and `e` is the oldest of its errors that this boundary serves (R157, R259):
the report of a home that came between two blocks waits for the next one. -/
structure ErrorAtBoundary (s : State) (w : WarpId) (x : Warp) (e : BoundaryError) : Prop where
  warp : s.warp? w = some x
  first : x.errs.find? (fun e => match e with | .home _ _ => false | _ => true) = some e
  boundary : atBoundary x = true

/-- The lanes of a node whose first consumed word that fails its check is the given word (R95, R258). -/
def lanesHolding (r : Row) (x : Warp) (b : Blk) (k : Nat) (i : WordIdent) : Mask :=
  maskOf (((usedWords r x b k).filter fun p =>
    (p.2.find? fun v => !good v.2).any fun v => identOf x b k p.1 v.1 = i).map (·.1))

/-- What the record of a consumed mismatch says (R258). -/
def mismatchInfo (i : WordIdent) (v : W40) (node : Option Nat) (lanes : Mask) (access pa : Nat) : RecInfo :=
  let f : RecInfo := { kind := 0x04, node := node, lanes := lanes, access := access, pa := pa }
  { f with va := (identPlace i).2, space := (identPlace i).1, bad := some v }

/-- A warp entering a block: the state and the warp whose registers the read entries see (R56, R276). -/
def entering (s : State) (w : WarpId) (x : Warp) (ws : List Double) : State × Warp :=
  let x1 := enterRegion { x with
    prefetched := x.prefetched.filter (· != x.pc)
    errs := x.errs.map fun e => match e with | .home i v => .cause i v | e => e } (hdr ws).region
  ((s.setWarp w x1).modBay w.bay fun y => { y with served := aset y.served (windowOf (wkey w)) (wkey w) }, x1)
/-! ## The truss -/

/-- The element that `cur` names may fire the slot's operation: it stands in a region whose clock runs, has its
configuration, and the operation's trigger is met (R202). -/
structure ElemFires (s : State) (e : ElemId) (g : Region) (op : Nat) (x : ElemWord) : Prop where
  cur : s.cur = .elem e
  region : (s.bay e.bay).regionAt e.row e.col = some g
  may : mayFire (s.bay e.bay) e.row e.col = true
  ready : elemReady (s.bay e.bay) e.row e.col op x = true

/-- What the firing reads (R200, R202). -/
def reading (s : State) (e : ElemId) (g : Region) (op : Nat) (x : ElemWord) : FireIn :=
  readFire ((s.bay e.bay).elem e.row e.col) (g.elemNum e.row e.col) op x

/-- The firing counts for its region, which is quiescent no more (R222). -/
def counted (s : State) (e : ElemId) (g : Region) : State :=
  (idle s).modRegion e.bay g.key g.idx fun r => { r with fires := r.fires + 1, quiet := false }

/-- The state after a firing with effects r (R203). -/
def afterFiring (s : State) (e : ElemId) (g : Region) (x : ElemWord) (r : Firing) : State :=
  (counted s e g).modBay e.bay fun b => applyFiring b e.row e.col x r

/-- A computed value: an operand that is an error token passes, else the value of A and B is the result (R204, R209). -/
def value2 (f : Word → Word → Word) (i : FireIn) : Firing :=
  match i.err with
  | some t => i.fails t false
  | none => i.result (fresh (f i.a.w.v i.b.w.v))

/-- A test of A and B: its result is 1 or 0 and its truth goes to the predicates (R204, R205). -/
def test2 (f : Word → Word → Prop) [∀ a b, Decidable (f a b)] (i : FireIn) : Firing :=
  match i.err with
  | some t => i.fails t true
  | none => { i.result (fresh (if f i.a.w.v i.b.w.v then 1 else 0)) with test := some (decide (f i.a.w.v i.b.w.v)) }

/-- The operations of R204 whose result is a value of A and B. -/
def elemValue? : Instr → Option (Nat × ElemWord × (Word → Word → Word))
  | .elemAdd x => some (0, x, fun a b => a + b) | .elemSub x => some (1, x, fun a b => a - b)
  | .elemMul x => some (2, x, fun a b => a * b)
  | .elemFadd x => some (3, x, fun a b => BitVec.ofNat 32 (fpAdd f32 ⟨0, .rne, 0⟩ a.toNat b.toNat 0))
  | .elemFmul x => some (4, x, fun a b => BitVec.ofNat 32 (fpMul f32 ⟨0, .rne, 0⟩ a.toNat b.toNat 0))
  | .elemAnd x => some (6, x, fun a b => a &&& b) | .elemOr x => some (7, x, fun a b => a ||| b)
  | .elemXor x => some (8, x, fun a b => a ^^^ b)
  | .elemShl x => some (9, x, fun a b => if b.toNat < 32 then BitVec.ofNat 32 (a.toNat * 2 ^ b.toNat) else 0)
  | .elemShr x => some (10, x, fun a b => if b.toNat < 32 then BitVec.ofNat 32 (a.toNat / 2 ^ b.toNat) else 0)
  | .elemMin x => some (14, x, fun a b => if a.toInt ≤ b.toInt then a else b)
  | .elemMax x => some (15, x, fun a b => if a.toInt ≤ b.toInt then b else a)
  | _ => none

/-- The tests of R204 and R205. -/
def elemTest? : Instr → Option (Nat × ElemWord × (Word → Word → Bool))
  | .elemCmpeq x => some (11, x, fun a b => a == b) | .elemCmplt x => some (12, x, fun a b => decide (a.toInt < b.toInt))
  | .elemCmpltn x => some (13, x, fun a b => decide (a.toNat < b.toNat))
  | _ => none

/-- The operations that pass a token on with its code (R204): the token, and the tag it is sent with. -/
def elemPass? : Instr → Option (Nat × ElemWord × (FireIn → TTok) × (FireIn → BitVec 2))
  | .elemSel x => some (16, x, fun i => if i.e.preds.getLsbD (bitsOf x.imm 2 0) then i.a else i.b, fun _ => x.otag)
  | .elemMov x => some (17, x, fun i => i.a, fun _ => x.otag)
  | .elemDeq x => some (18, x, fun i => i.a, fun i => i.a.tag)
  | _ => none

/-- The other operations of R204 to R208, for operands that are no error tokens and locals that pass their checks. -/
def elemOther? : Instr → Option (Nat × ElemWord × (FireIn → Firing))
  | .elemFfma x => some (5, x, fun i =>
      i.result (fresh (BitVec.ofNat 32 (fpFma f32 ⟨0, .rne, 0⟩ i.a.w.v.toNat i.b.w.v.toNat i.cur.v.toNat))))
  | .elemTag x => some (19, x, fun i => i.result (fresh (x.imm.setWidth 32)))
  | .elemPset x => some (20, x, fun i => { mask := 0, deq := x.deq, bits := i.a.w.v.extractLsb' 0 8 })
  | .elemPclr x => some (21, x, fun _ => { mask := 0, deq := x.deq })
  | .elemCnt x => some (22, x, fun i => i.result (fresh (i.cur.v + x.imm.signExtend 32)))
  | .elemGen x => some (27, x, fun i =>
      if (i.e.local? 3).v = 0 then { i.sends endTok with test := some false }
      else { i.sends ⟨fresh i.cur.v, x.otag⟩ with dst := some (fresh (i.cur.v + x.imm.signExtend 32)), test := some true, l3 := some (fresh ((i.e.local? 3).v - 1)) })
  | .elemSteer x => some (28, x, fun i =>
      { i.sends i.a with dst := some i.a.w, mask := if i.e.preds.getLsbD (bitsOf x.imm 2 0) then x.omask else x.imm.extractLsb' 8 4 })
  | .elemJoin x => some (30, x, fun i =>
      let n := i.cur.v + 1
      if x.imm ≠ 0 ∧ n = x.imm.setWidth 32 then
        { out := some ⟨fresh (if x.srcb = 1 then i.a.w.v else 0), x.otag⟩, mask := x.omask, dst := some (fresh 0), test := some true, deq := x.deq }
      else { mask := x.omask, dst := some (fresh n), test := some false, deq := x.deq })
  | .elemErr x => some (31, x, fun i => i.sends (errTok 0x80 i.num x.imm.toNat))
  | _ => none

/-- The index A + sext(IMM) of an SRAM operation (R207). -/
def sramAddr (i : FireIn) (x : ElemWord) : Nat := (i.a.w.v + x.imm.signExtend 32).toNat

/-- The SRAM word at an index, as a read finds it. -/
def sramWord (i : FireIn) (k : Nat) : W40 := agetD i.e.sram k .zero

/-- The SRAM operations (R207) where the index lies inside and the word read is neither poisoned nor, for the last two,
bad: the index that must be below 1,024 and whose word is read, if it is read, and the effects. -/
def elemSram? : Instr → Option (Nat × ElemWord × (FireIn → Nat) × (FireIn → Firing))
  | .elemLd x => some (23, x, fun i => sramAddr i x, fun i => i.result (sramWord i (sramAddr i x)))
  | .elemSt x => some (24, x, fun i => sramAddr i x, fun i =>
      { i.result (fresh (BitVec.ofNat 32 (sramAddr i x))) with sram := some (sramAddr i x, i.b.w) })
  | .elemTas x => some (25, x, fun i => i.a.w.v.toNat / 32, fun i =>
      let w := sramWord i (i.a.w.v.toNat / 32)
      let t := w.v.getLsbD (i.a.w.v.toNat % 32)
      { i.result (fresh (BitVec.ofNat 32 t.toNat)) with test := some t, sram := some (i.a.w.v.toNat / 32, fresh (w.v ||| 1 <<< (i.a.w.v.toNat % 32))) })
  | .elemUpd x => some (26, x, fun i => i.a.w.v.toNat, fun i =>
      let w := sramWord i i.a.w.v.toNat
      { i.result (fresh w.v) with sram := some (i.a.w.v.toNat, fresh (updFn (bitsOf x.imm 2 0) w.v i.b.w.v)) })
  | _ => none

/-- The merge of two streams (R208): the smaller data head first, a marker or end head waits for the other. -/
def mergeRow (x : ElemWord) (i : FireIn) : Firing :=
  let ka : BitVec 4 := 1 <<< x.srca.toNat
  let kb : BitVec 4 := 1 <<< x.srcb.toNat
  let pass (t : TTok) (deq : BitVec 4) : Firing := { i.sends t with dst := some t.w, deq := deq }
  if i.a.tag = 0 ∧ (i.b.tag ≠ 0 ∨ i.a.w.v.toNat ≤ i.b.w.v.toNat) then pass i.a ka
  else if i.b.tag = 0 then pass i.b kb
  else pass i.a (ka ||| kb)

/-- The other operations and an error operand (R209): those that read an operand pass it. -/
def elemRow? (i : Instr) : Option (Nat × ElemWord) :=
  match elemValue? i, elemPass? i, elemSram? i with
  | some (op, x, _), _, _ => some (op, x)
  | none, some (op, x, _, _), _ => some (op, x)
  | none, none, some (op, x, _, _) => if op = 25 then none else some (op, x)
  | none, none, none => none

/-- A port whose region runs and whose element has its configuration, with the oldest token at an input. -/
def PortHas (s : State) (p : PortId) (g : Region) (i : Nat) (t : TTok) : Prop :=
  portRegion s p = some g ∧ portHead s p i = some t

/-- A binding in progress at a port that runs, with words still to move. -/
structure StreamsAt (s : State) (p : PortId) (dir : Bool) (g : Region) (c : StreamBind) (x : Warp) : Prop where
  region : portRegion s p = some g
  bind : liveBind s p dir = some (c, x)
  going : c.ending = false
  more : c.moved < reqTotal c.req
/-! ## Engines, the module, and the step -/

/-- Copy request n of a bay is in progress, started and not stalled, of a resident warp. -/
structure Copies (s : State) (bay n : Nat) (c : CopyRun) (x : Warp) : Prop where
  run : runningCopy (s.bay bay) n = some c
  warp : s.warp? c.kick.warp = some x

/-- The rows of a BAR0 write with a behaviour of their own, on the register that was hit: the next state (R346, R352,
R353, R369, R374, R376, R399, R407). -/
def registerEffect (s : State) (r : RegWrite) (h : RegHit) : Option (Instr × State) :=
  match h.reg with
  | .resume c => some (.resumeWrite r, s.serve c h.val)
  | .tlbInv c =>
    let q := (s.ctx c).tlbQueue
    let s1 := s.modCtx c fun x => { x with tlbQueue := q ++ [h.val] }
    some (.tlbInvWrite r, if q.isEmpty then startInv s1 c else s1)
  | .poisClr => some (if vbit h 0 then (.poisClrAll r, { s with poisoned := [] })
      else (.poisClrEntry r, { s with poisoned := s.poisoned.filter fun p => p.pa != vbits h 51 3 * 8 }))
  | .safeCtl c =>
    if vbit h 0 && !(s.ctx c).safeReq then
      some (.safeStopRequest r, (putReg s h).modCtx c fun x => { x with safeReq := true, safeLate := false, safeCounts := [] })
    else none
  | .kpqBase k => some (.queueConfigWrite r, s.modQueue k fun x =>
      if x.en || x.head != x.tail then { x with err := true } else { x with base := vbits h 51 12 * 2 ^ 12 })
  | .kpqCtx k => some (.queueConfigWrite r, s.modQueue k fun x =>
      if x.en || x.head != x.tail then { x with err := true } else { x with ctx := vbits h 11 0 })
  | .sillDrop => some (.sillDropWrite r, if vbit h 16 && vbits h 11 8 < 12 then dropBank s (vbits h 11 8) (vbits h 7 0) else s)
  | .snapCtl => if vbit h 0 then
      some (.snapArmWrite r, { putReg s h with snap := { (putReg s h).snap with valid := false } }) else none
  | _ => none

/-- The inputs of the outside world that name no BAR0 write. -/
def isOutside : Instr → Bool
  | .bar2Write _ _ | .bar2Read _ _ | .volingWriteReceive _ | .volingAckReceive _ _ _ _ | .volingLinkFailure _ _
  | .coldReset | .warmReset | .linkLaneReplace _ | .mgmtSnapTrigger
  | .moduleLoad _ _ | .handlerTranslate _ | .rcRegisterRead _ _ | .fusedMinimumRaise _ _ | .softError _ => true
  | _ => false

/-- The state at the start of a step that takes n clocks and the next entry of the schedule. -/
def turned (s : State) (n : Nat) (r : List (Nat × Actor)) : State := tick n { s with agenda := r }

/-- No power interval is over, so that the agent whose turn it is moves (R393). -/
def NoIntervalDue (s : State) : Prop := s.now < s.power.next

/-- A walk is of the page that a request misses on (R373). -/
def ofPage (q : WalkReq) (k : PageWalk) : Bool := k.ctx = q.ctx && k.page = q.va.toNat / 4096

/-- The walk in flight of the page that a request misses on. -/
def walkOf (s : State) (q : WalkReq) : Option PageWalk := s.walks.find? (ofPage q)

/-- The state with a request waiting on the walk of its page. -/
def joinWalk (s : State) (q : WalkReq) : State :=
  { s with walks := s.walks.map fun j => if ofPage q j then { j with waiting := j.waiting ++ [q] } else j }

/-- The state with a walk taken from the list. -/
def walkGone (s : State) (k : PageWalk) : State := { s with walks := s.walks.filter (· != k) }

/-- Bits hi to lo of an entry. -/
def field (e : Double) (hi lo : Nat) : Nat := e.toNat / 2 ^ lo % 2 ^ (hi + 1 - lo)

/-- A page-table entry stands at an address, its words good, and it is not listed as poisoned (R371, R375). -/
structure EntryIs (s : State) (p : Nat) (e : Double) : Prop where
  unlisted : ∀ q ∈ s.poisoned, q.pa ≠ p
  low : good (s.mem.word p) = true
  high : good (s.mem.word (p + 4)) = true
  value : (s.mem.word (p + 4)).v ++ (s.mem.word p).v = e

/-- A valid entry of a level that names the next table (Table 16.7). -/
def TableEntry (e : Double) (n : Nat) : Prop :=
  e.getLsbD 0 = true ∧ e.getLsbD 1 = false ∧ n ≠ 0 ∧ e.getLsbD 2 = false ∧ field e 7 6 = 0 ∧ field e 11 8 = 0 ∧ field e 63 52 = 0

/-- A valid leaf of a level (R370, Table 16.7): a peer only on a remote page, C64 only at level 0, its page aligned. -/
def LeafEntry (e : Double) (n : Nat) : Prop :=
  e.getLsbD 0 = true ∧ e.getLsbD 1 = true ∧ n ≤ 2 ∧ e.getLsbD 2 = false ∧ field e 11 8 = 0 ∧
    (e.getLsbD 6 = false → field e 63 52 = 0) ∧ (e.getLsbD 7 = true → n = 0) ∧ field e 51 12 % 512 ^ n = 0

/-- The walk of an address that stands at level n in the table at t comes to the entry of level m at p (R371). -/
def Selects (s : State) (va : Nat) : Nat → Nat → Nat → Nat → Prop
  | 0, t, m, p => m = 0 ∧ p = t + 8 * (va / 2 ^ 12 % 512)
  | n + 1, t, m, p => (m = n + 1 ∧ p = t + 8 * (va / 2 ^ (12 + 9 * (n + 1)) % 512)) ∨
      ∃ e, EntryIs s (t + 8 * (va / 2 ^ (12 + 9 * (n + 1)) % 512)) e ∧ TableEntry e (n + 1) ∧
        Selects s va n (field e 51 12 * 4096) m p

/-- The page of 4 KiB that a leaf of level n gives an address (R370). -/
def pageOfLeaf (e : Double) (n va : Nat) : Nat :=
  if e.getLsbD 7 then (field e 51 16 * 16 + va / 2 ^ 12 % 16) * 4096
  else (field e 51 12 + va / 4096 % 512 ^ n) * 4096

/-- The permissions of a leaf for an access (Table 16.7). -/
def permits (e : Double) : Access → Bool
  | .read => e.getLsbD 3
  | .write => e.getLsbD 4
  | .atomic => e.getLsbD 3 && e.getLsbD 4
  | .fetch => e.getLsbD 5

/-- The matrix engine with the plane that a command names loaded (R187). -/
def loadPlane (c : MxCmd) (p : MxPlane) (m : Matrix) : Matrix :=
  if c.f.mod.getLsbD 1 then { m with pb := p } else { m with pa := p }
/-! ## Registers at commit, atomic operations, messages, groups, matrix rows -/

/-- `MODE` after a program's write (R66, Table 3.3): an unassigned RM and W32 keep the old value, EXPT above 64 is 64, and
[31:17] are zero. -/
def modeAfter (old new : Word) : Word :=
  let rm := if new.toNat % 2 ^ 3 ≤ 4 then new.toNat % 2 ^ 3 else old.toNat % 2 ^ 3
  BitVec.ofNat 32 (rm + new.toNat / 2 ^ 3 % 2 ^ 6 * 2 ^ 3 + old.toNat / 2 ^ 9 % 2 * 2 ^ 9 +
    min (new.toNat / 2 ^ 10 % 2 ^ 7) 64 * 2 ^ 10)

/-- A warp in which special register n has been written with v (R66, R106): `MODE` or `EVMASK`. -/
def specialWritten (x : Warp) (n : Nat) (v : Word) : Warp :=
  { x with
    mode := if n = 0x08 then modeAfter x.mode v else x.mode
    evmask := if n = 0x0A then v.extractLsb' 0 16 else x.evmask }

/-- The token that a uniform or special register takes from a slot: that of the lowest lane of M that holds one (R62). -/
def LowestToken (b : Blk) (key : Nat) (t : Tok) : Prop :=
  ∃ l ∈ lanesOf b.m, slotTok b.slots key l = some t ∧ ∀ k ∈ lanesOf b.m, k < l → slotTok b.slots key k = none

/-- Word i of a token stands in register n + i, and every other register is as it was (R62, R66). -/
def written (t : Tok) (n r : Nat) (old : W40) : W40 :=
  if n ≤ r ∧ r < n + t.length then (t[r - n]?).getD .zero else old

/-- The byte that a held store of a lane puts at byte k of the word at a location, if it stores there (R126, R134). -/
def heldByte (f : FmtM) (h : HeldLane) (l : Loc) (k : Nat) : Option Byte :=
  let byte (i : Nat) : Byte := (wordAt h.b (i / 4)).extractLsb' (8 * (i % 4)) 8
  h.loc.bind fun p =>
    if bitsOf f.mod 3 0 ≤ 1 then
      if p.align = l ∧ p.addr % 4 ≤ k ∧ k < p.addr % 4 + 2 ^ bitsOf f.mod 3 0 then some (byte (k - p.addr % 4)) else none
    else
      ((List.range (2 ^ bitsOf f.mod 3 0 / 4)).find? fun i => wordLoc f.space.toNat p i = l).map fun i => byte (4 * i + k)

/-- A held operation of a block that is a store, with its fields. -/
def IsStore (b : Blk) (h : HeldOp) (f : FmtM) : Prop := h ∈ b.held ∧ nodeAt b.words h.node = (0x121, .m f)

/-- The operations of Table 5.4. -/
inductive AtomRow where
  | add | min | max | and | or | xor | exch | cas | inc | dec | fadd | bfadd2

/-- An operation's opcode as an `ATOM` (R136). -/
def AtomRow.atomOpc : AtomRow → Nat
  | .add => 0x128 | .min => 0x129 | .max => 0x12A | .and => 0x12B | .or => 0x12C | .xor => 0x12D | .exch => 0x12E
  | .cas => 0x12F | .inc => 0x130 | .dec => 0x131 | .fadd => 0x132 | .bfadd2 => 0x133

/-- An operation's opcode as a `RED`, which has no exchange and no comparison (R136). -/
def AtomRow.redOpc : AtomRow → Option Nat
  | .add => some 0x138 | .min => some 0x139 | .max => some 0x13A | .and => some 0x13B | .or => some 0x13C
  | .xor => some 0x13D | .exch => none | .cas => none | .inc => some 0x13E | .dec => some 0x13F | .fadd => some 0x140
  | .bfadd2 => some 0x141

/-- A sum of two codes of a format, rounded to nearest (R109, Table 5.4). -/
def atomSum (F : Fmt) (a b : Nat) : Nat :=
  if F.isNan a ∨ F.isNan b then F.qnan else roundFp F .rne 0 (addX .rne (F.value a) (F.value b))

/-- The new value at the home (Table 5.4) of an operation on n bits, from the old value, B and c. -/
def AtomRow.value (r : AtomRow) (sg : Bool) (n old v c : Nat) : Nat :=
  match r with
  | .add => wrapI (ival sg old n + ival sg v n) n
  | .min => if ival sg old n ≤ ival sg v n then old else v
  | .max => if ival sg old n ≤ ival sg v n then v else old
  | .and => old &&& v
  | .or => old ||| v
  | .xor => old ^^^ v
  | .exch => v
  | .cas => if old = v then c else old
  | .inc => if v ≤ old then 0 else old + 1
  | .dec => if old = 0 ∨ v < old then v else old - 1
  | .fadd => atomSum f32 old v
  | .bfadd2 => atomSum fBF (old % 2 ^ 16) (v % 2 ^ 16) +
      atomSum fBF (old / 2 ^ 16 % 2 ^ 16) (v / 2 ^ 16 % 2 ^ 16) * 2 ^ 16

/-- The locations of the words of an n-word value in a space. -/
def valueLocs (space n : Nat) (l : Loc) : List Loc := (List.range n).map (wordLoc space l)

/-- A held format E operation stands before its release: it fired with lanes, `l` is its lowest, and no merge of its warp
is on its way (R125, R256). -/
structure Releases (s : State) (w : WarpId) (x : Warp) (b : Blk) (h : HeldOp) (opc : BitVec 9) (f : FmtE) (l : HeldLane) :
    Prop where
  warp : s.warp? w = some x
  node : nodeAt b.words h.node = (opc, .e f)
  lanes : h.lanes.head? = some l
  merges : ∀ m ∈ s.merges, m.warp ≠ w
  slot : f.res.toNat < 16

/-- A mailbox of a bay (R150). -/
def mailboxAt (s : State) (bay k : Nat) : Mailbox := agetD (s.bay bay).mbox k .reset

/-- The message that a lane's `SEND` offers: the device fills word 0 [31:12] (R150). -/
def sentMessage (w : WarpId) (x : Warp) (l : HeldLane) : Tok :=
  fresh (BitVec.ofNat 32 ((wordAt l.b 0).toNat % 2 ^ 12 + l.lane % 2 ^ 6 * 2 ^ 12 + x.wid % 2 ^ 6 * 2 ^ 18 +
    w.bay % 2 ^ 8 * 2 ^ 24)) :: l.b.drop 1

/-- The offers of a `SEND`, lane by lane, each after a release (R152): the last state and each lane's status. -/
def offers (s : State) (w : WarpId) (x : Warp) (scope : Nat) : List HeldLane → State × List (Nat × Tok)
  | [] => (s, [])
  | l :: r =>
    let o := offerMessage (s.release w.bay scope) (wordAt l.a 0) (sentMessage w x l)
    ((offers o.1 w x scope r).1, (l.lane, tokOf 1 o.2) :: (offers o.1 w x scope r).2)

/-- A mailbox's hardware may take a message: there is room, nothing has spilled, and its team is there (R152, R361). -/
def HardwareTakes (s : State) (bay k : Nat) (key : TeamKey) : Prop :=
  (mailboxAt s bay k).msgs.length < 32 ∧ (mailboxAt s bay k).spillCount = 0 ∧ (s.team? bay key).isSome ∧
    (s.bay bay).closed = false

/-- A warp has come to run at an address with a mask and a split stack that lies in hardware; its registers are as they
were (R43). -/
structure RunsAt (t : State) (w : WarpId) (x : Warp) (a : Double) (m : Mask) (st : List StackEntry) : Prop where
  runs : ∃ y, t.warp? w = some y ∧ y.pc = a ∧ y.mask = m ∧ y.stack = st ∧ y.spilled = 0 ∧ y.regs = x.regs ∧
    y.uregs = x.uregs ∧ y.mode = x.mode

/-- A block whose lanes neither return nor are exported, and the groups that continue, none with an action (R43). -/
structure PlainFlow (b : Blk) (gs : List Group) : Prop where
  groups : flowGroups b = gs
  noReturn : kindLanes b 4 = 0
  noExport : b.exporting = []
  plain : ∀ g ∈ gs, g.act = .none

/-- A pending entry (R43, R45). -/
def pendingOf (g : Group) : StackEntry := ⟨.pending, g.addr, g.mask, 0⟩

/-- The element of a row of a tile before a command. -/
def accElem (s : State) (bay : Nat) (c : MxCmd) (i n : Nat) : Nat :=
  tileAt (s.bay bay).mx (c.f.mod.getLsbD 0).toNat (bitsOf c.f.imm 11 6 + i) n

/-- Row i of a command's tile rows has become v, and no other element of a tile and no byte of memory has changed. -/
structure RowBecomes (s t : State) (bay : Nat) (c : MxCmd) (i : Nat) (v : Nat → Nat) : Prop where
  row : ∀ n < 128, accElem t bay c i n = v n % 2 ^ 128
  rest : ∀ tile r n, tile < 2 → r < 64 → n < 128 →
    (tile ≠ (c.f.mod.getLsbD 0).toNat ∨ r ≠ bitsOf c.f.imm 11 6 + i) →
    tileAt (t.bay bay).mx tile r n = tileAt (s.bay bay).mx tile r n
  memory : t.mem = s.mem ∧ ∀ b, (t.bay b).pad = (s.bay b).pad

/-- The bytes n of a command's row i in its team's allocation read as one number, every word good (R181, R189). -/
def RowReads (s : State) (bay : Nat) (c : MxCmd) (i n v : Nat) : Prop :=
  readBytes s bay ((s.team? bay c.key).getD (noTeam c.key)).bspBase (cmdRowAt c i) n = .ok v

/-- A level of the tree of R175: element i of level j of a list of products. -/
def treeAt (l : List XVal) : Nat → Nat → XVal
  | 0, i => l[i]?.getD (.fin false 0 0)
  | j + 1, i => fB128.value (roundFp fB128 .rne 0 (addX .rne (treeAt l j (2 * i)) (treeAt l j (2 * i + 1))))

/-- An element code as an integer (Table 6.1). -/
def elemInt (fmt v : Nat) : Int :=
  if fmt = 0x10 then sval v 8 else if fmt = 0x11 then v % 2 ^ 8 else if fmt = 0x12 then sval v 4 else v % 2 ^ 4

/-- The scale of element k of a set (Table 6.4): none, E3M5 per 8, E8M0 per 32, or one FP32 value. -/
def scaleOf (kind : Nat) (set : List Byte) (k : Nat) : XVal :=
  let byte (i : Nat) : Nat := (set[i]?.getD 0).toNat
  match kind with
  | 0 => .fin false 1 0
  | 1 => scaleValue 0x1D (byte (k / 8))
  | 2 => scaleValue 0x1C (byte (k / 32))
  | _ => f32.value (byte 0 + byte 1 * 2 ^ 8 + byte 2 * 2 ^ 16 + byte 3 * 2 ^ 24)

/-- The value of an element before its scales (R164, R166, R169): I8.X32 counts in units of 2^−6. -/
def elemExact (fmt kind v : Nat) : XVal :=
  match elemValue fmt v with
  | .fin s m e => if fmt = 0x10 ∧ kind = 2 then .fin s m (e - 6) else .fin s m e
  | u => u

/-- The format codes of Table 6.8. -/
def accCodes : List Nat := [0, 1, 2, 3, 6, 8, 9, 0xA, 0xB, 0x17, 0x18, 0x19]

/-- An element as `ACCRD` writes it (R191). -/
def accOut (c : MxCmd) (x : Nat) : Nat :=
  let t := bitsOf c.f.imm 17 13
  match intFmt t, fmtOf t with
  | some (n, sg), _ => if c.f.imm.getLsbD 18 then wrapI (satI sg (sval x 128) n) n else wrapI (sval x 128) n
  | none, some F =>
    if fB128.isNan x then F.qnan
    else
      let v := roundFp F (rmOf c.mode (bitsOf c.f.imm 21 19)) (modeDN c.mode) (fB128.value x)
      if c.f.imm.getLsbD 18 then satInf F true v else v
  | none, none => x

/-- An element as `ACCLD` sets it (R170, R193), from its bytes. -/
def accIn (c : MxCmd) (v : Nat) : Nat :=
  let t := bitsOf c.f.imm 17 13
  match intFmt t, fmtOf t with
  | some (n, sg), _ => wrapI (ival sg v n) 128
  | none, some F =>
    let u := v % (2 * F.sgn)
    roundFp fB128 .rne 0 (F.value (if procWidth t = 16 ∨ procWidth t = 32 then flushIn F (modeDN c.mode) u else u))
  | none, none => v

/-- The address that a warp-level node of a barrier, an image load or a wait translates as it fires (R127, R132, R141,
R149): the space, the address, the bytes, the permission and the access that its record names. -/
def warpAddr? (i : Instr) (t : Team) (o : LaneOps) : Option (Nat × Double × Nat × Need × Access) :=
  let a : Double := BitVec.ofNat 64 (tokVal o.a)
  let record (f : FmtE) (acc : Access) : Option (Nat × Double × Nat × Need × Access) :=
    let h := handleOf t f.res.toNat
    if h.getLsbD 63 then some (handleSpace h, handleAddr h, 16, accNeed acc, acc) else none
  match i with
  | .binit f => some (bitsOf f.imm 2 0, a, 16, ⟨2, false⟩, .write)
  | .bbind f => some (bitsOf f.imm 2 0, a, 16, accNeed .read, .read)
  | .tload _ => some (0, a, 32, accNeed .read, .read)
  | .waitaddr f => some (bitsOf f.imm 2 0, a, 4, accNeed .read, .read)
  | .barv f => record f .atomic
  | .barx f => record f .atomic
  | .bgen f => record f .read
  | .bpar f => record f .read
  | .bstat f => record f .read
  | _ => none

/-- The resources that the four bays of a bent lack for a team (R263). -/
def bentLack (s : State) (n : Need2) (b : Nat) : Nat := ((List.range 4).map fun i => lackCount s n (4 * b + i)).sum

/-- R160: the status of the child whose handle names entry e with use number `use`, for a node of the grid `gid`; `child` is
the child's grid while it is not yet retired. An entry of another use answers 2 even where another grid launched it (log
entry 20). -/
def childStatus (e : PoolEntry) (child : Option Grid) (gid use : Nat) : Nat :=
  if !e.used ∨ e.uses % 8 ≠ use then 2
  else if ∀ k, e.launcher = some k → k.gid ≠ gid then 3
  else if child = none then 2
  else if child.any fun g => g.retired == g.nteam then 1
  else 0

end Sys2Proof.Claims

open Sys2Proof Sys2Proof.Machine Sys2Proof.Claims

/-- R99 to R103, register forms: every integer and logic node completes and delivers the value of its row. R98 to
R103, immediate forms: the same with IMM25 as operand b. -/
def Obligations.IntegerNodes : Prop :=
  (∀ (i : Instr) (r : IntRow) (f : FmtA), intA? i = some (r, f) →
      ∀ s w k x b, Fires s w k x b → GoodWords b k allWords →
        Delivers i s w k b f.t0 f.t1 (r.width (typeWidth f.mod.toNat)) fun a b c =>
          r.value (typeSigned f.mod.toNat) (typeWidth f.mod.toNat) a b c) ∧
  (∀ (i : Instr) (r : IntRow) (f : FmtI), intI? i = some (r, f) →
      ∀ s w k x b, Fires s w k x b → GoodWords b k allWords →
        Delivers i s w k b f.t0 f.t1 (r.width (typeWidth f.mod.toNat)) fun a b c =>
          r.value (typeSigned f.mod.toNat) (typeWidth f.mod.toNat) a b c)

/-- R75, R98, R121: operand b of an immediate form, a `SHFL`'s included, is IMM25 sign-extended to the width n of
operand b (32, 64 or 128 bits), in n / 32 words with fresh codes, for every performing lane of a block in which no
producer feeds slot b. -/
def Obligations.ImmediateOperandIsSignExtended : Prop :=
  ∀ (b : Blk) (k : Nat) (opc : BitVec 9) (f : FmtI) (n : Nat), nodeAt b.words k = (opc, .i f) →
    fieldOkI opc.toNat f = true → immBits opc.toNat f = some n → aget b.slots (slotKey 1 k) = none →
    ∀ p ∈ performing b k, tokVal p.2.b = (f.imm.signExtend n).toNat ∧ p.2.b.length = n / 32 ∧
      ∀ v ∈ p.2.b, good v = true

/-- R95, R99, R105, R106: `SEL`, `LEA` and the moves complete; they deliver a token unchanged, a scaled sum, or a
constant. `SEL` checks c and the operand that it does not choose, and passes the chosen one on as it is. R106: `SWR`
completes; the lowest lane's token is kept with the block, and nothing of the warp is written yet. R21, R64, Table
3.2: the values of the special registers. -/
def Obligations.MovesConstantsAndSpecialRegisters : Prop :=
  ((∀ f s w k x b, Fires s w k x b → GoodWords b k (fun o => (if tokVal o.c ≠ 0 then o.b else o.a) ++ o.c) →
      DeliversTo (.sel f) s w k b [f.t0, f.t1] fun _ o => if tokVal o.c ≠ 0 then o.a else o.b) ∧
    (∀ f s w k x b, Fires s w k x b → GoodWords b k (fun o => (if tokVal o.c ≠ 0 then o.b else o.a) ++ o.c) →
      DeliversTo (.selI f) s w k b [f.t0, f.t1] fun _ o => if tokVal o.c ≠ 0 then o.a else o.b) ∧
    (∀ f s w k x b, Fires s w k x b → GoodWords b k allWords →
      Delivers (.lea f) s w k b f.t0 f.t1 64 fun a v _ =>
        wrapI ((a : Int) + ival (typeSigned f.mod.toNat) v 32 * (2 ^ bitsOf f.ext 2 0 : Nat)) 64) ∧
    (∀ f s w k x b, Fires s w k x b → GoodWords b k allWords →
      Delivers (.leaI f) s w k b f.t0 f.t1 64 fun a v _ =>
        wrapI ((a : Int) + ival (typeSigned f.mod.toNat) v 32) 64) ∧
    (∀ f s w k x b, Fires s w k x b → DeliversTo (.mov f) s w k b [f.t0, f.t1] fun _ o => o.a) ∧
    (∀ f s w k x b, Fires s w k x b →
      DeliversTo (.mov4 f) s w k b [f.t0, f.t1, f.ext.extractLsb' 15 10, f.ext.extractLsb' 5 10] fun _ o => o.a) ∧
    (∀ f s w k x b b1, Fires s w k x b →
      deliverAll (b.fire k) [(f.t0, fun _ => none), (f.t1, fun _ => none)] = .ok b1 →
      exec (.null f) s = .next (afterNode s w b1)) ∧
    (∀ f s w k x b, Fires s w k x b → DeliversTo (.movi f) s w k b [f.t0] fun _ _ =>
      tokOf (typeWidth f.mod.toNat / 32) (if f.mod = 2 then (f.imm.signExtend 64).toNat else f.imm.toNat)) ∧
    (∀ f s w k x b, Fires s w k x b → DeliversTo (.movhi f) s w k b [f.t0] fun _ o => o.a.take 1 ++ [fresh f.imm]) ∧
    (∀ f s w k x b, Fires s w k x b → DeliversTo (.srd f) s w k b [f.t0, f.t1] fun l _ =>
      tokOf (typeWidth f.mod.toNat / 32) (specialValue { s with cur := .none } w (bitsOf f.ext 7 0) l).toNat)) ∧
  (∀ f s w k x b, Fires s w k x b → GoodWords b k (·.a) →
      ((performing b k = [] ∧ exec (.swr f) s = .next (afterNode s w (b.fire k))) ∨
       ∃ l o r, performing b k = (l, o) :: r ∧ exec (.swr f) s = .next (afterNode s w
         (({ b with held := b.held ++ [⟨k, 64, [⟨0, o.a, [], [], 0, none⟩]⟩] } : Blk).fire k)))) ∧
  (∀ (s : State) (w : WarpId) (x : Warp) (t : Team) (g : Grid) (l : Nat), s.warp? w = some x →
      s.team? w.bay x.key = some t → s.grid? x.key.gid = some g →
      let v (n : Nat) : Nat := (specialValue s w n l).toNat
      v 0x00 = l % 2 ^ 32 ∧ v 0x01 = x.wid % 2 ^ 32 ∧ v 0x02 = x.key.tid % 2 ^ 32 ∧ v 0x03 = t.dim % 2 ^ 32 ∧
      v 0x04 = x.key.gid % 2 ^ 32 ∧
      (w.bay < 2 ^ 8 → 0 < t.clsize → t.clsize ≤ 2 ^ 4 → t.rank < 2 ^ 4 →
        v 0x05 = w.bay * 2 ^ 24 + (t.clsize - 1) * 2 ^ 16 + t.rank) ∧
      v 0x06 = g.depth % 2 ^ 32 ∧ v 0x08 = x.mode.toNat ∧ v 0x09 = x.evpend.toNat ∧ v 0x0A = x.evmask.toNat ∧
      v 0x0B = x.leaseDecl % 2 ^ 8 + x.leaseMeas % 2 ^ 8 * 2 ^ 8 + x.active.toNat * 2 ^ 16 ∧
      v 0x0C = x.mask.toNat ∧ v 0x0E = (s.bay w.bay).clk % 2 ^ 64 ∧ v 0x10 = x.regBase.toNat ∧
      v 0x11 = g.faultInfo.toNat ∧ ∀ n, n ≠ 0x00 → ∀ j, specialValue s w n j = specialValue s w n l)

/-- R107 to R119: every floating-point and conversion node completes and delivers the value of its row. R93, R108,
R109, R114, R116: a sum, difference, product, quotient or fused product-sum of finite operands, as `MODE.DN` flushes
them and MOD modifies them, is the exact rational result rounded once in the mode; a sum that is exactly zero keeps a
sign that both operands have, and is otherwise −0 under RDN and else +0. A conversion into a floating format rounds
the value of its source once, and one into an integer format clamps the integer that the source is rounded to.
MOD[52], SAT and `MODE.LRND` are 0 here. -/
def Obligations.FloatingNodes : Prop :=
  (∀ (i : Instr) (f : FmtA) (n : Nat) (g : Word → Nat → Nat → Nat → Nat), floatA? i = some (f, n, g) →
      ∀ s w k x b, Fires s w k x b → GoodWords b k allWords → Delivers i s w k b f.t0 f.t1 n (g b.mode)) ∧
  ((∀ F ∈ [f32, f64, fHF, fBF], ∀ (t : FpCtl) (a b c : Nat) (u v : Rat), t.mod.getLsbD 4 = false →
      a < 2 * F.sgn → b < 2 * F.sgn → c < 2 * F.sgn →
      let x := operandCode F t.dn (t.mod.getLsbD 1) (t.mod.getLsbD 0) a
      let y := operandCode F t.dn (t.mod.getLsbD 3) (t.mod.getLsbD 2) b
      ratOf (F.value x) = some u → ratOf (F.value y) = some v →
      (u + v ≠ 0 → RoundedOnce F t.rm t.dn (u + v) (fpAdd F t a b c)) ∧
      (u + v = 0 → fpAdd F t a b c = if F.neg x = F.neg y then (if F.neg x then F.sgn else 0)
        else if t.rm = .rdn then F.sgn else 0) ∧
      (u - v ≠ 0 → RoundedOnce F t.rm t.dn (u - v) (fpSub F t a b c)) ∧
      (u * v ≠ 0 → RoundedOnce F t.rm t.dn (u * v) (fpMul F t a b c)) ∧
      (u ≠ 0 → v ≠ 0 → RoundedOnce F t.rm t.dn (u / v) (fpDiv F t a b c)) ∧
      (∀ z, ratOf (F.value (operandCode F t.dn false false c)) = some z → u * v + z ≠ 0 →
        RoundedOnce F t.rm t.dn (u * v + z) (fpFma F t a b c))) ∧
    (∀ (mode : Word) (dst src rnd a : Nat), modeLRND mode = 0 →
      (∀ F S u, fmtOf dst = some F → fmtOf src = some S →
        ratOf (S.value (operandCode S (modeDN mode) false false (a % (2 * S.sgn)))) = some u → u ≠ 0 →
        RoundedOnce F (rmOf mode rnd) (modeDN mode) u (cvtV mode dst src rnd false a)) ∧
      (∀ F n sg, fmtOf dst = some F → intFmt src = some (n, sg) → ival sg a n ≠ 0 →
        RoundedOnce F (rmOf mode rnd) (modeDN mode) (ival sg a n : Int) (cvtV mode dst src rnd false a)) ∧
      (∀ n sg S u, intFmt dst = some (n, sg) → fmtOf src = some S →
        ratOf (S.value (operandCode S (modeDN mode) false false (a % (2 * S.sgn)))) = some u →
        ∃ k : Int, RoundsTo (rmOf mode rnd) u k ∧ cvtV mode dst src rnd false a = wrapI (satI sg k n) n)))

/-- R111: `FCLASS` completes and delivers one bit, the class of a as it arrives, whatever `MODE.DN` is. -/
def Obligations.FclassClassifies : Prop :=
  ∀ f s w k x b, Fires s w k x b → GoodWords b k allWords →
    Delivers (.fclass f) s w k b f.t0 f.t1 32 fun a _ _ => fclassRow a

/-- R109: with a NaN among the operands a sum, a product, a fused product-sum, a quotient or a function of one operand
gives `qnan` of the format, or 0 when MOD[52] clamps it (R108). R108, R110: a minimum or maximum of the operands as
`MODE.DN` flushes them and MOD modifies them: with exactly one NaN it is the other operand, with two it is `qnan`; of
two numbers the lesser or the greater, −0 below +0. Nothing is rounded; a subnormal result is a zero of its sign where
`MODE.DN` flushes results; and MOD[52] clamps to the range from +0 to 1. -/
def Obligations.NansAndExtremes : Prop :=
  (∀ F ∈ [f32, f64, fHF, fBF], ∀ (t : FpCtl) (a b c : Nat),
      let r := if t.mod.getLsbD 4 then 0 else F.qnan
      (F.isNan a ∨ F.isNan b → fpAdd F t a b c = r ∧ fpSub F t a b c = r ∧ fpMul F t a b c = r ∧ fpDiv F t a b c = r) ∧
      (F.isNan a ∨ F.isNan b ∨ F.isNan c → fpFma F t a b c = r) ∧
      (F.isNan a → ∀ g ∈ [rcpRound, rsqrtRound, sqrtRound, exp2Round, log2Round, sinRound, cosRound, tanhRound],
        fpUnary g F t a b c = r)) ∧
  (∀ F ∈ [f32, f64, fHF, fBF], ∀ (t : FpCtl) (a b c : Nat) (less : Bool), a < 2 * F.sgn → b < 2 * F.sgn →
      let x := operandCode F t.dn (t.mod.getLsbD 1) (t.mod.getLsbD 0) a
      let y := operandCode F t.dn (t.mod.getLsbD 3) (t.mod.getLsbD 2) b
      let r := fpPick less F t a b c
      (F.isNan x → F.isNan y → r = resultCode F t F.qnan) ∧ (F.isNan x → ¬ F.isNan y → r = resultCode F t y) ∧
      (¬ F.isNan x → F.isNan y → r = resultCode F t x) ∧
      (¬ F.isNan x → ¬ F.isNan y → signed (F.neg x) (F.mag x) < signed (F.neg y) (F.mag y) →
        r = resultCode F t (if less then x else y)) ∧
      (¬ F.isNan x → ¬ F.isNan y → signed (F.neg y) (F.mag y) < signed (F.neg x) (F.mag x) →
        r = resultCode F t (if less then y else x)) ∧
      (x = 0 → y = F.sgn → r = if less ∧ t.mod.getLsbD 4 = false then F.sgn else 0) ∧
      (x = F.sgn → y = 0 → r = if less ∧ t.mod.getLsbD 4 = false then F.sgn else 0))

/-- R122: `BALLOT` delivers the mask of the lanes of P whose a is true, cut to the type's width; `VOTE.any`,
`VOTE.all` and `VOTE.uni` deliver 1 when some, every, or no two lanes of P have a true, a true, or different values,
and 0 otherwise; `MATCH` delivers to each lane the mask of the lanes of P whose a equals its own. -/
def Obligations.Votes : Prop :=
  ∀ (i : Instr) (f : FmtA) (n : Nat) (g : Assoc Nat → Nat → Nat), vote? i = some (f, n, g) →
    ∀ s w k x b, Fires s w k x b → GoodWords b k allWords →
      DeliversTo i s w k b [f.t0, f.t1] fun l _ => tokOf (n / 32) (g (aValues b k) l % 2 ^ n)

/-- R122, R123: every vote, match, reduction and scan completes and delivers its value for each performing lane. R95,
R96, R121: every `SHFL` completes; T0 receives the source lane's token, T1 the same token, or with EXT.flg 1 where
there is no source lane and 0 elsewhere, at the width of the node's type. The b of every lane is checked. That the a
of a lane whose token no lane receives is checked too is the model's choice (log entry 20). -/
def Obligations.CrossLaneNodesAndShuffles : Prop :=
  (∀ (i : Instr) (f : FmtA) (n : Nat) (g : Word → Assoc Nat → Nat → Nat), crossA? i = some (f, n, g) →
      ∀ s w k x b, Fires s w k x b → GoodWords b k allWords →
        DeliversTo i s w k b [f.t0, f.t1] fun l _ => tokOf (n / 32) (g b.mode (aValues b k) l % 2 ^ n)) ∧
  (∀ (i : Instr) (r : ShflForm), shfl? i = some r →
      ∀ s w k x b, Fires s w k x b → (∀ p ∈ performing b k, ∀ v ∈ shflWords x b k r.how p.1 p.2, good v = true) →
        ∀ b1, deliverAll (b.fire k) (toTargets b k [r.t0] (shflTok x b k r.how) ++
            toTargets b k [r.t1] fun l o =>
              if r.flg then tokOf (r.n / 32) (shflGiver x b k r.how l (tokVal o.b)).isNone.toNat
              else shflTok x b k r.how l o) = .ok b1 →
          exec i s = .next (afterNode s w b1))

/-- R126, R134: `LD` completes: each lane receives the words at its address, as `State.loadWords` finds them there,
under the block's held stores of lower LSID, a load narrower than a word extended as MOD[4] says; an acquiring load
acquires after. In every space but `.gbl` those words are the ones that stand at the lane's location, and nothing but
the warp's block changes; and a lane's words are never others than those of `State.loadWords` where no store of lower
LSID is held. R135, R235: how a bay's L1 answers. A load of a word in a valid line gets the line's word and moves no
byte of memory; of a word in no line, the home's, and the line then stands there whole and clean, unless its CACHE
says that it makes no line; of a word in a stale line, the home's after the line's dirty bytes have gone there. A
store into a valid line stays there, dirty; one into no line goes to the home and makes no line. A word that an engine
of the bay writes goes to the home, and the bay's copy of the line is stale. A line that makes room is a kept one only
where all are kept, and is one of the stream hint where one of those is not kept. R244: below cluster scope a release
leaves the bay's L1 as it is; from cluster scope on every dirty byte of it is at its home, the line staying, clean. An
acquire below team scope does nothing; at team scope the stale lines go, at cluster scope and above every line without
dirty bytes too, and in a partly dirty line the clean bytes are the home's. The model's choice: from device scope on
the bay's fetched copies of blocks go as well (log entry 32). -/
def Obligations.LoadDeliversMemoryUnderHeldStores : Prop :=
  ((∀ (f : FmtM) s w k x b rs b1, Fires s w k x b → GoodWords b k allWords → NoWordWaits s w f rs →
      resolveLanes (idle s) w x f.space.toNat (2 ^ bitsOf f.mod 3 0) (accNeed .read) (laneAddrs b k f.ofs) = .ok rs →
      (∀ v ∈ (lanesLoad (idle s) w b f rs).2, v.2.2.all good = true) →
      deliverAll ((loadedBlk b f (lanesLoad (idle s) w b f rs).2).fire k)
        [(f.t0, byLane ((lanesLoad (idle s) w b f rs).2.map fun v => (v.1, loadedTok f v.2.1 v.2.2)))] = .ok b1 →
      exec (.ld f) s = .next (if f.order.getLsbD 0 ∧ rs ≠ []
        then ((lanesLoad (idle s) w b f rs).1.putBlk w b1).acquire w.bay f.scope.toNat
        else (lanesLoad (idle s) w b f rs).1.putBlk w b1)) ∧
    (∀ (f : FmtM) (s : State) w b (rs : List (Nat × Double × Loc)), f.space ≠ 0 → (lanesLoad s w b f rs).1 = s ∧
      (lanesLoad s w b f rs).2 = rs.map fun r => (r.1, r.2.2,
        (List.range (if bitsOf f.mod 3 0 ≤ 1 then 1 else 2 ^ bitsOf f.mod 3 0 / 4)).map fun i =>
          let l := wordLoc f.space.toNat (if bitsOf f.mod 3 0 ≤ 1 then r.2.2.align else r.2.2) i
          heldView b f.lsid.toNat l (s.homeWord l))) ∧
    (∀ (f : FmtM) (s : State) w b p, (∀ h ∈ b.held, f.lsid.toNat ≤ h.lsid) →
      (laneLoad s w b f p).2 = (s.loadWords w f.space.toNat f.cache.toNat
        (if bitsOf f.mod 3 0 ≤ 1 then p.align else p)
        (if bitsOf f.mod 3 0 ≤ 1 then 1 else 2 ^ bitsOf f.mod 3 0 / 4) 0).2)) ∧
  ((∀ (s : State) (w : WarpId) (pa cache : Nat), pa % 4 = 0 →
      let t := (s.l1Read w pa cache).1
      (∀ x, (s.bay w.bay).l1Find (pa / 128) = some x → x.stale = false →
        (s.l1Read w pa cache).2 = agetD x.words (pa / 4 % 32) .zero ∧ t.mem = s.mem) ∧
      ((s.bay w.bay).l1Find (pa / 128) = none → (s.l1Read w pa cache).2 = s.mem.word pa ∧ (cache = 2 → t = s) ∧
        (cache ≠ 2 → ∃ y, (t.bay w.bay).l1Find (pa / 128) = some y ∧ y.dirty = 0 ∧ y.stale = false ∧
          ∀ i < 32, agetD y.words i .zero = s.mem.word (pa / 128 * 128 + 4 * i))) ∧
      (∀ x, (s.bay w.bay).l1Find (pa / 128) = some x → x.stale = true →
        (s.l1Read w pa cache).2 = homeAfter (s.mem.word pa) x (pa / 4 % 32) ∧ t.mem.word pa = (s.l1Read w pa cache).2)) ∧
    (∀ (s : State) (w : WarpId) (pa cache : Nat) (vs : List W40), pa % 4 = 0 → pa / 4 % 32 + vs.length ≤ 32 →
      let t := s.l1Write w pa cache vs
      ((s.bay w.bay).l1Find (pa / 128) = none → (t.bay w.bay).l1 = (s.bay w.bay).l1 ∧
        ∀ j v, vs[j]? = some v → t.mem.word (pa + 4 * j) = v) ∧
      (∀ x, (s.bay w.bay).l1Find (pa / 128) = some x → x.stale = false → t.mem = s.mem ∧
        ∃ y, (t.bay w.bay).l1Find (pa / 128) = some y ∧
          ∀ i < 32, (∀ v, pa / 4 % 32 ≤ i → vs[i - pa / 4 % 32]? = some v → agetD y.words i .zero = v ∧ y.dirtyWord i = 0xF) ∧
            (i < pa / 4 % 32 ∨ pa / 4 % 32 + vs.length ≤ i →
              agetD y.words i .zero = agetD x.words i .zero ∧ y.dirtyWord i = x.dirtyWord i))) ∧
    (∀ (s : State) (w : WarpId) (pa : Nat) (va : Double) (v : W40) (rel : Bool), pa % 4 = 0 → pa < Config.loftBase →
      let t := engineWrite s w (.phys pa) va v rel
      t.mem.word pa = v ∧ ∀ x, (t.bay w.bay).l1Find (pa / 128) = some x → x.stale = true) ∧
    (∀ (ls : List (Nat × L1Line)) n, victimOf ls = some n → ∃ p ∈ ls, p.1 = n ∧
      ((∃ q ∈ ls, q.2.keep = []) → p.2.keep = []) ∧ ((∃ q ∈ ls, q.2.keep = [] ∧ q.2.stream = true) → p.2.stream = true))) ∧
  (∀ (s : State) (b scope : Nat), ((s.bay b).l1.map (·.1)).Nodup →
      (scope < 3 → s.release b scope = s) ∧
      (3 ≤ scope → let t := s.release b scope
        (t.bay b).l1 = (s.bay b).l1.map (fun p => (p.1, { p.2 with dirty := 0 })) ∧
        (∀ p ∈ (s.bay b).l1, ∀ i < 32, t.mem.word (128 * p.1 + 4 * i) =
          homeAfter (s.mem.word (128 * p.1 + 4 * i)) p.2 i) ∧
        ∀ a, (∀ p ∈ (s.bay b).l1, a / 128 ≠ p.1) → t.mem.byte a = s.mem.byte a) ∧
      (scope < 2 → s.acquire b scope = s) ∧
      (scope = 2 → ((s.acquire b scope).bay b).l1 = (s.bay b).l1.filter fun p => !p.2.stale) ∧
      (3 ≤ scope → let t := s.acquire b scope
        (t.bay b).l1.map (·.1) = ((s.bay b).l1.filter fun p => !p.2.stale && p.2.dirty != 0).map (·.1) ∧
        (∀ p ∈ (s.bay b).l1, p.2.stale = false → p.2.dirty ≠ 0 → ∃ y, (t.bay b).l1Find p.1 = some y ∧ y.dirty = p.2.dirty ∧
          ∀ i < 32, agetD y.words i .zero = if p.2.dirtyWord i = 0xF then agetD p.2.words i .zero
            else homeAfter (s.mem.word (128 * p.1 + 4 * i)) p.2 i) ∧
        (∀ a, (∀ p ∈ (s.bay b).l1, p.2.stale = true → a / 128 ≠ p.1) → t.mem.byte a = s.mem.byte a) ∧
        (t.bay b).code = if scope < 4 then (s.bay b).code else []))

/-- R126: a read sees a held word store of lower LSID to its word, and sees memory where the store has a higher LSID
or goes elsewhere. R126, R134: of the held stores of lower LSID, of every width, that put a byte at a place of a word,
the one with the highest LSID gives the byte that a read sees, and within one node the highest lane; where none does,
memory's byte is seen. -/
def Obligations.ReadsSeeHeldStoresOfLowerLsid : Prop :=
  (∀ (b : Blk) (n lsid : Nat) (j : Nat) (f : FmtM) (h : HeldLane) (p l : Loc) (old : W40),
      b.held = [⟨j, n, [h]⟩] → nodeAt b.words j = (0x121, .m f) → bitsOf f.mod 3 0 = 2 → h.loc = some p → n ≤ 64 →
      heldView b lsid l old = if n < lsid ∧ wordLoc f.space.toNat p 0 = l then fresh (wordAt h.b 0) else old) ∧
  (∀ (b : Blk) (lsid : Nat) (l : Loc) (old : W40) (k : Nat), k < 4 → l.align = l →
      b.held.Pairwise (fun g h => g.lsid ≠ h.lsid) →
      (∀ h ∈ b.held, h.lsid < 64 ∧ h.lanes.Pairwise (fun p q => p.lane < q.lane)) →
      (∀ h f n v, IsStore b h f → h.lsid < lsid → n ∈ h.lanes → heldByte f n l k = some v →
        (∀ m ∈ h.lanes, n.lane < m.lane → heldByte f m l k = none) →
        (∀ g e, IsStore b g e → h.lsid < g.lsid → g.lsid < lsid → ∀ m ∈ g.lanes, heldByte e m l k = none) →
        (heldView b lsid l old).v.extractLsb' (8 * k) 8 = v) ∧
      ((∀ h f, IsStore b h f → h.lsid < lsid → ∀ n ∈ h.lanes, heldByte f n l k = none) →
        (heldView b lsid l old).v.extractLsb' (8 * k) 8 = old.v.extractLsb' (8 * k) 8))

/-- R125, R127, R134 to R138: a store, a reduction or a cache operation completes: its operands are captured with the
addresses that it resolved, and memory is left as it is until the block commits. R127, R135, R138, R162, R363, R375:
`PREF`, `FENCE` and `INJ` complete; a prefetch takes its translation now, lists the bad page-table entries that it
meets, and never faults but on a remote page, which is the permission fault that names the lanes of remote pages; a
fence's acquire part acts now and its release part is held. The model's choices: a prefetch of a remote page faults
(log entry 20: two rules of the spec disagree), with the lowest such lane's address in the record (log entry 21);
`CWB`, `CINV` ask no permission of a page, and `INJ` asks W (log entry 22). -/
def Obligations.HeldMemoryNodes : Prop :=
  (∀ (i : Instr) (f : FmtM) (n : Nat) (need : Need) (acc : Access), heldMem? i = some (f, n, need, acc) →
      ∀ s w k x b rs, Fires s w k x b → GoodWords b k allWords →
        resolveLanes (idle s) w x f.space.toNat n need (laneAddrs b k f.ofs) = .ok rs →
        exec i s = .next (afterNode s w (holding b k f.lsid.toNat (captured b k rs)))) ∧
  ((∀ (f : FmtM) s w k x b, Fires s w k x b → GoodWords b k allWords →
      (∀ p ∈ laneAddrs b k f.ofs, s.remotePage (s.ctxOf w) p.2 = false) →
      exec (.pref f) s = .next ((listMisses (idle s) w ((laneAddrs b k f.ofs).map (·.2))).putBlk w
        (holding b k f.lsid.toNat ((performing b k).map fun p =>
          heldLane p.1 p.2 (effAddr p.2.a f.ofs) (prefLoc s w (effAddr p.2.a f.ofs)))))) ∧
    (∀ (f : FmtM) s w k x b l va r, Fires s w k x b → GoodWords b k allWords →
      (laneAddrs b k f.ofs).filter (fun p => s.remotePage (s.ctxOf w) p.2) = (l, va) :: r →
      exec (.pref f) s = .next ((idle s).addrFault w (some k) (maskOf (l :: r.map (·.1))) 0 va .read
        (.walk ⟨0x02, 0, 0, 0, none⟩))) ∧
    (∀ (f : FmtM) s w k x b, Fires s w k x b →
      exec (.fence f) s = .next ((if f.order.getLsbD 0 ∧ performing b k ≠ [] then (idle s).acquire w.bay f.scope.toNat
        else idle s).putBlk w (holding b k f.lsid.toNat
          (if f.order.getLsbD 1 then (performing b k).map fun p => ⟨p.1, [], [], [], 0, none⟩ else [])))) ∧
    (∀ (i : Instr) (f : FmtE), i = .injCode f ∨ i = .injData f → ∀ s w k x b rs, Fires s w k x b →
      GoodWords b k allWords →
      resolveLanes (idle s) w x (bitsOf f.imm 2 0) 4 ⟨2, false⟩ (laneAddrs b k 0) = .ok rs →
      exec i s = .next (afterNode s w (holding b k f.lsid.toNat (captured b k rs)))))

/-- R127, R132, R366: where an address of a load, a store, a reduction or a cache operation fails, its step is the
fault of that failure, which names the lanes, the space, the address and the access; nothing is captured. The model's
choices (log entry 21): the lowest failing lane gives the address, all lanes that fail alike are named, and a
reduction has access code 2. R127, R132, R141, R143, R149, R162: where the address of a warp-level node of a barrier,
an image load or a wait, or of an `INJ` lane, fails as the node fires, its step is the fault of that failure, with the
space, the address and the access; nothing is held. The model's choices: a warp-level node's record names all its
performing lanes (log entry 21); `BBIND` asks R, `BINIT` W, `BARV` and `BARX` R and W, and `INJ` W (log entry 22).
R143, R153, R158, R177: a node that names an unbound handle, another team's mailbox, an undeclared region, or the
matrix engine of another team takes the program fault with subcode 0x0B, 0x0C, 0x0F or 0x0D; it has no other effect.
That `TRYRECV`, whose operation is performed at commit, has its mailbox's owner tested as it fires is the model's
choice (log entry 24). -/
def Obligations.FaultsAtFiring : Prop :=
  ((∀ (i : Instr) (f : FmtM) (n : Nat) (need : Need) (acc : Access), heldMem? i = some (f, n, need, acc) →
      ∀ s w k x b ls va e, Fires s w k x b → GoodWords b k allWords →
        resolveLanes (idle s) w x f.space.toNat n need (laneAddrs b k f.ofs) = .error (ls, va, e) →
        exec i s = .next ((idle s).addrFault w (some k) (maskOf ls) f.space.toNat va acc e)) ∧
    (∀ (f : FmtM) s w k x b ls va e, Fires s w k x b → GoodWords b k allWords →
        resolveLanes (idle s) w x f.space.toNat (2 ^ bitsOf f.mod 3 0) (accNeed .read) (laneAddrs b k f.ofs) =
          .error (ls, va, e) →
        exec (.ld f) s = .next ((idle s).addrFault w (some k) (maskOf ls) f.space.toNat va .read e))) ∧
  ((∀ (i : Instr) s w k x b l o r sp va n need acc e, Fires s w k x b → performing b k = (l, o) :: r →
      GoodWords b k allWords → warpAddr? i ((idle s).teamD w x) o = some (sp, va, n, need, acc) →
      (∀ f, i = .tload f → ((s.bay w.bay).teamRegion x.key (bitsOf f.imm 3 0)).isSome) →
      (idle s).resolve w ((idle s).teamD w x) x 0 sp va n need = .error e →
      exec i s = .next ((idle s).addrFault w (some k) (maskOf ((performing b k).map (·.1))) sp va acc e)) ∧
    (∀ (i : Instr) (f : FmtE), i = .injCode f ∨ i = .injData f → ∀ s w k x b ls va e, Fires s w k x b →
      GoodWords b k allWords →
      resolveLanes (idle s) w x (bitsOf f.imm 2 0) 4 ⟨2, false⟩ (laneAddrs b k 0) = .error (ls, va, e) →
      exec i s = .next ((idle s).addrFault w (some k) (maskOf ls) (bitsOf f.imm 2 0) va .write e))) ∧
  (∀ (i : Instr) s w k x b l o r, Fires s w k x b → performing b k = (l, o) :: r → (∀ v ∈ allWords o, good v = true) →
      let m := maskOf ((performing b k).map (·.1))
      let bay := s.bay w.bay
      (∀ f, i = .bret f ∨ i = .barv f ∨ i = .barx f → (handleOf ((idle s).teamD w x) f.res.toNat).getLsbD 63 = false →
        exec i s = .next ((idle s).progFault w 0x0B (some k) m)) ∧
      (∀ f, i = .bgen f ∨ i = .bpar f ∨ i = .bstat f → GoodWords b k allWords →
        (handleOf ((idle s).teamD w x) f.res.toNat).getLsbD 63 = false →
        exec i s = .next ((idle s).progFault w 0x0B (some k) m)) ∧
      (∀ f, i = .tryrecv f ∨ i = .mbstat f → (agetD bay.mbox f.res.toNat .reset).owner ≠ some x.key →
        exec i s = .next ((idle s).progFault w 0x0C (some k) m)) ∧
      (∀ f, i = .strbind f ∨ i = .tstart f ∨ i = .tstop f ∨ i = .tload f ∨ i = .tstat f →
        bay.teamRegion x.key (bitsOf f.imm 3 0) = none → exec i s = .next ((idle s).progFault w 0x0F (some k) m)) ∧
      (∀ f, i = .ldstat f ∨ i = .swapst f ∨ i = .mms f ∨ i = .accz f ∨ i = .accrd f ∨ i = .accsc f ∨ i = .accld f ∨
          i = .mestat f →
        bay.mx.owner ≠ some x.key → exec i s = .next ((idle s).progFault w 0x0D (some k) m)))

/-- R39, R136, R152, R153, R159: `ATOM`, `SEND`, `TRYRECV` and `LAUNCH` complete: the operands are captured, and the
operation itself is left to the block's commit. That `TRYRECV` fires only where its mailbox is the team's is the
model's choice (log entry 24). R150, R152, R361, R378, R404, R411: a message offered to a mailbox is taken by its
hardware with status 0, by its spill slice with status 1, the four words standing in the next slot, also while the
owner is saved or its bay is being retired, refused with status 2, MBSTAT[17], an occurrence at the owner's `.mbox`
slots and a notice of subcode 0x10 to the driver, or answered 3 where there is no such mailbox; and `SEND` releases
and offers for each of its lanes in turn. R153, R361: `TRYRECV` gives its lanes, in rising order, the oldest messages,
the hardware's before the spilled ones, and takes them out of the mailbox; from an empty mailbox a lane gets word 0 =
0xFF00_0000 and zeros. That spilled messages are read where they lie, and never moved into the hardware's room, is the
model's choice (log entry 24). R54, R55, R159: `LAUNCH` of the team leader answers 2 at depth 16 and 1 without an
entry to draw, with nothing launched, and else the child handle, its entry used and, for a descriptor that passes
R358, its grid waiting; another lane's takes the fault 0x0A. An entry is drawn only where R55 allows it. The launch
waits for the sub-word stores of every warp of the team. That the role fault comes before the descriptor's address is
translated is the model's choice (log entry 26). -/
def Obligations.CommitOperationsAreCaptured : Prop :=
  ((∀ (i : Instr) (f : FmtM), atom? i = some f → ∀ s w k x b, Fires s w k x b → GoodWords b k allWords →
      exec i s = .next (afterNode s w (committing b k f.lsid.toNat
        ((performing b k).map fun p => heldLane p.1 p.2 (effAddr p.2.a f.ofs) none)))) ∧
    (∀ (i : Instr) (f : FmtE), i = .send f ∨ i = .launch f → ∀ s w k x b, Fires s w k x b → GoodWords b k allWords →
      exec i s = .next (afterNode s w (committing b k f.lsid.toNat
        ((performing b k).map fun p => heldLane p.1 p.2 (effAddr p.2.a 0) none)))) ∧
    (∀ (f : FmtE) s w k x b, Fires s w k x b → GoodWords b k allWords →
      (performing b k = [] ∨ (agetD (s.bay w.bay).mbox f.res.toNat .reset).owner = some x.key) →
      exec (.tryrecv f) s = .next (afterNode s w (committing b k f.lsid.toNat
        ((performing b k).map fun p => heldLane p.1 p.2 (effAddr p.2.a 0) none))))) ∧
  ((∀ (s : State) (dest : Word) (m : Tok), (192 ≤ dest.toNat / 2 ^ 24 ∨ dest.toNat / 2 ^ 4 % 2 ^ 20 ≠ 0 ∨
        (mailboxAt s (dest.toNat / 2 ^ 24) (dest.toNat % 2 ^ 4)).owner = none) → offerMessage s dest m = (s, 3)) ∧
    (∀ (s : State) (bay k : Nat) (m : Tok) (key : TeamKey), bay < 192 → k < 16 →
      let dest : Word := BitVec.ofNat 32 (bay * 2 ^ 24 + k)
      let b := mailboxAt s bay k
      b.owner = some key →
      (HardwareTakes s bay k key → ∃ t, offerMessage s dest m = (t, 0) ∧
        mailboxAt t bay k = { b with msgs := b.msgs ++ [m] } ∧ t.mem = s.mem) ∧
      (∀ g, s.grid? key.gid = some g → ¬ HardwareTakes s bay k key → (spillSlice s key k = none ∨
          ∃ ctx base n, spillSlice s key k = some (ctx, base, n) ∧ n ≤ b.spillCount) →
        ∃ u : State, offerMessage s dest m = (u.notice g.ctx 0x10 bay 0 0 0 0 0 (BitVec.ofNat 64 k) 0
            (BitVec.ofNat 64 ((b.msgs.length + b.spillCount) % 2 ^ 16)), 2) ∧
          mailboxAt (offerMessage s dest m).1 bay k = { b with refused := true } ∧ u.mem = s.mem ∧
          ∀ v x, v.bay = bay → s.warp? v = some x → ∃ y, u.warp? v = some y ∧ y = { x with evpend := y.evpend } ∧
            (x.key ≠ key → y = x) ∧ ∀ j e, (j, e) ∈ x.binds → j < 16 → x.key = key → e.kind = 2 → e.sel = k →
              y.evpend.getLsbD j = true) ∧
      (∀ ctx base n l, ¬ HardwareTakes s bay k key → spillSlice s key k = some (ctx, base, n) → b.spillCount < n →
        let a := base + BitVec.ofNat 64 (16 * ((b.spillHead + b.spillCount) % n))
        canonical a = true → s.translate ctx a ⟨2, false⟩ = .ok l →
        ∃ t, offerMessage s dest m = (t, 1) ∧ mailboxAt t bay k = { b with spillCount := b.spillCount + 1 } ∧
          (m.length = 4 → l.align = l → (∀ p q, l ≠ .remote p q) → t.homeWords l 4 = m))) ∧
    (∀ (s : State) (w : WarpId) (x : Warp) (f : FmtE) (h : HeldOp),
      (∀ m ∈ s.merges, m.warp ≠ w) → releaseWaits s w (bitsOf f.imm 2 0) = false →
      performSend s w x f h = .done (offers s w x (bitsOf f.imm 2 0) h.lanes).1 (offers s w x (bitsOf f.imm 2 0) h.lanes).2)) ∧
  (∀ (s : State) (w : WarpId) (f : FmtE) (h : HeldOp),
      let k := f.res.toNat
      let b := mailboxAt s w.bay k
      (b.spillCount = 0 ∨ h.lanes.length ≤ b.msgs.length → ∃ t, performTryrecv s w f h = .done t
          ((h.lanes.map (·.lane)).zip (b.msgs ++ List.replicate h.lanes.length
            [fresh 0xFF000000, fresh 0, fresh 0, fresh 0])) ∧
        mailboxAt t w.bay k = { b with msgs := b.msgs.drop h.lanes.length }) ∧
      (∀ l key ctx base n p, h.lanes = [l] → b.msgs = [] → b.spillCount ≠ 0 → b.owner = some key → spillSlice s key k = some (ctx, base, n) →
        s.translate ctx (base + BitVec.ofNat 64 (16 * (b.spillHead % n))) (accNeed .read) = .ok p →
        ∃ t, performTryrecv s w f h = .done t [(l.lane, (s.toHome w.bay p).homeWords p 4)] ∧
          mailboxAt t w.bay k = { b with spillHead := (b.spillHead + 1) % n, spillCount := b.spillCount - 1 })) ∧
  ((∀ (s : State) (w : WarpId) (x : Warp) (h : HeldOp) (l : HeldLane) (g : Grid) (loc : Loc), h.lanes = [l] →
      s.grid? x.key.gid = some g → x.wid = 0 → l.lane = 0 →
      s.resolve w (s.teamD w x) x 0 0 l.va 128 (accNeed .read) = .ok loc →
      (∀ m ∈ s.merges, ∀ y, s.warp? m.warp = some y → y.key ≠ x.key) →
      let s1 := s.release w.bay 4
      (16 ≤ g.depth → performLaunch s w x h = .done s1 [(0, tokOf 1 2)]) ∧
      (g.depth < 16 → drawEntry s1 x.key g.depth = none → ∃ t, performLaunch s w x h = .done t [(0, tokOf 1 1)] ∧
        t.nextGid = s.nextGid ∧ t.devQueue = s.devQueue ∧ t.mem = s1.mem) ∧
      (∀ i args images, g.depth < 16 → drawEntry s1 x.key g.depth = some i →
        checkPacket (takeEntry s1 x.key i s1.nextGid) g.ctx (s1.homeWords loc 32) false = .ok (args, images) →
        ∃ t, performLaunch s w x h =
            .done t [(0, tokOf 1 (i % 2 ^ 13 * 2 ^ 16 + ((s.poolEntry i).uses + 1) % 2 ^ 3 * 2 ^ 29))] ∧
          t.devQueue = s.devQueue ++ [s.nextGid] ∧ (t.poolEntry i).used = true ∧ (t.poolEntry i).launcher = some x.key)) ∧
    (∀ (s : State) (w : WarpId) (x : Warp) (h : HeldOp) (l : HeldLane) (g : Grid), h.lanes = [l] →
      s.grid? x.key.gid = some g → x.wid ≠ 0 ∨ l.lane ≠ 0 →
      performLaunch s w x h = .stop (s.progFault w 0x0A (some h.node) (maskOf [l.lane]))) ∧
    (∀ (s : State) key d i, drawEntry s key d = some i → (s.poolEntry i).used = false ∧ ((s.poolEntry i).held = some key ∨
      (s.poolEntry i).held = none ∧ (i < 7168 ∨ 7168 + 64 * d ≤ i ∧ i < 7168 + 64 * d + 64))))

/-- R125, R141 to R145, R156 to R162, R177, R186: a warp-level held node whose test at firing passes completes: every
performing lane is held with the lowest lane's operands. R147, R149: the waits complete; they only note what the warp
will wait for at the block's boundary. R144, R145, R148: the event instructions at their release: `EVBIND` replaces
the slot's binding and clears its pending bit, or gives it its mailbox's level; `EVUNB` removes it; `EVMASK` sets,
clears or writes the mask; `EVPOST` marks the target's slot that is bound `.post`; `EVCLR` clears pending bits, of
which a mailbox's level comes back. A warp that is resumed keeps its pending bits, and a `.bar` slot whose record's
GEN has changed is set. -/
def Obligations.WarpLevelNodesAndWaits : Prop :=
  (∀ (i : Instr) (f : FmtE) (va : Double) (loc : Option Loc) s w k x b l o r, Fires s w k x b →
      performing b k = (l, o) :: r → (∀ v ∈ allWords o, good v = true) →
      heldTest i (idle s) w x o = some (f, va, loc) →
      exec i s = .next (afterNode s w (holding b k f.lsid.toNat (warpLanes b k o va loc)))) ∧
  ((∀ (f : FmtE) s w k x b, Fires s w k x b → exec (.waitany f) s = .next (afterNode s w
      (({ b with waits := b.waits ++ [⟨k, f.lsid.toNat, (performing b k).map fun p => ⟨p.1, [], [], [], 0, none⟩⟩] } :
        Blk).fire k))) ∧
    (∀ (f : FmtE) s w k x b lane o r l, Fires s w k x b → performing b k = (lane, o) :: r →
      (∀ v ∈ allWords o, good v = true) →
      (idle s).resolve w ((idle s).teamD w x) x 0 (bitsOf f.imm 2 0) (BitVec.ofNat 64 (tokVal o.a)) 4 (accNeed .read) =
        .ok l →
      exec (.waitaddr f) s = .next (afterNode s w (({ b with waits := b.waits ++ [⟨k, f.lsid.toNat,
        warpLanes b k o (BitVec.ofNat 64 (tokVal o.a)) (some l)⟩] } : Blk).fire k)))) ∧
  ((∀ s w x b h f l, Releases s w x b h 0x170 f l → ∃ t y e, releaseOp s w b h = some t ∧ t.warp? w = some y ∧
      aget y.binds f.res.toNat = some e ∧ e.kind = f.mod.toNat ∧ e.sel = f.imm.toNat ∧ e.handler = l.va ∧
      (∀ k, k ≠ f.res.toNat → aget y.binds k = aget x.binds k) ∧ y.evmask = x.evmask ∧
      (f.mod ≠ 2 → y.evpend = x.evpend &&& ~~~((1 : BitVec 16) <<< f.res.toNat)) ∧
      (f.mod = 2 → (mailboxAt s w.bay (bitsOf f.imm 3 0)).owner = some x.key → f.imm.toNat < 16 →
        y.evpend.getLsbD f.res.toNat = decide ((mailboxAt s w.bay (bitsOf f.imm 3 0)).msgs ≠ [] ∨
          (mailboxAt s w.bay (bitsOf f.imm 3 0)).spillCount ≠ 0))) ∧
    (∀ s w x b h f l, Releases s w x b h 0x171 f l → ∃ t y, releaseOp s w b h = some t ∧ t.warp? w = some y ∧
      y = { x with binds := y.binds, evpend := x.evpend &&& ~~~((1 : BitVec 16) <<< f.res.toNat) } ∧ aget y.binds f.res.toNat = none ∧
      ∀ k, k ≠ f.res.toNat → aget y.binds k = aget x.binds k) ∧
    (∀ s w x b h f l, Releases s w x b h 0x172 f l →
      let bits : BitVec 16 := f.imm.extractLsb' 0 16
      ∃ t, releaseOp s w b h = some t ∧ t.warp? w = some { x with evmask :=
        if f.mod = 0 then x.evmask ||| bits else if f.mod = 1 then x.evmask &&& ~~~bits else bits }) ∧
    (∀ s w x b h f l, Releases s w x b h 0x173 f l → ∃ t, releaseOp s w b h = some t ∧
      ∀ v y, v.bay = w.bay → s.warp? v = some y → t.warp? v = some
        (if y.key = x.key ∧ y.wid = tokVal l.a ∧ y.retired = false ∧ (aget y.binds f.res.toNat).any (·.kind == 8) = true
         then { y with evpend := y.evpend ||| ((1 : BitVec 16) <<< f.res.toNat) } else y)) ∧
    (∀ s w x b h f l, Releases s w x b h 0x174 f l →
      ((∀ p ∈ x.binds, p.2.kind ≠ 2) → ∃ t, releaseOp s w b h = some t ∧
        t.warp? w = some { x with evpend := x.evpend &&& ~~~(f.imm.extractLsb' 0 16) }) ∧
      (∀ k e, x.binds = [(k, e)] → k < 16 → e.kind = 2 → (mailboxAt s w.bay e.sel).owner = some x.key →
        ∃ t y, releaseOp s w b h = some t ∧ t.warp? w = some y ∧ y.evpend.getLsbD k =
          decide ((mailboxAt s w.bay e.sel).msgs ≠ [] ∨ (mailboxAt s w.bay e.sel).spillCount ≠ 0))) ∧
    (∀ s w x, s.warp? w = some x → (∀ p ∈ x.binds, p.2.kind ≠ 2) → ∃ y, (resumeEvents s w).warp? w = some y ∧
      y = { x with evpend := y.evpend } ∧ x.evpend &&& y.evpend = x.evpend ∧
      ∀ k e, (k, e) ∈ x.binds → k < 16 → (barBindLoc s w x e).isSome → (bindGen s w x e).v ≠ e.gen →
        y.evpend.getLsbD k = true))

/-- R126, R141, R142: `BGEN` and `BPAR` complete and deliver 1 where the record's generation differs from the operand,
in the whole word or in its low bit, and an answer 1 acquires; `BSTAT` delivers the record with its stored codes. The
record is read at its home, after what the bay's L1 holds dirty of its line has gone there. That the record is read
there, after those bytes, is the model's choice (log entry 22). -/
def Obligations.BarrierReads : Prop :=
  (∀ (i : Instr) (f : FmtE) (p : Word → Nat → Bool), barTest? i = some (f, p) →
    ∀ s w k x b l v b1, Fires s w k x b → GoodWords b k (·.a) → performing b k ≠ [] →
      ReadsRecord (idle s) w x (handleOf ((idle s).teamD w x) f.res.toNat) l → RecordReady s w l →
      recordView (barHome (idle s) w l) b f.lsid.toNat l 1 = [v] → good v = true →
      deliverAll ((readBlk b l 1).fire k) (toTargets b k [f.t0] fun _ o => tokOf 1 (p v.v (tokVal o.a)).toNat) =
        .ok b1 →
      exec i s = .next (if (performing b k).any fun q => p v.v (tokVal q.2.a)
        then ((barHome (idle s) w l).putBlk w b1).acquire w.bay (bitsOf f.imm 2 0)
        else (barHome (idle s) w l).putBlk w b1)) ∧
  (∀ (f : FmtE) s w k x b l b1, Fires s w k x b → GoodWords b k (·.a) → performing b k ≠ [] →
      ReadsRecord (idle s) w x (handleOf ((idle s).teamD w x) f.res.toNat) l → RecordReady s w l →
      (recordView (barHome (idle s) w l) b f.lsid.toNat l 4).all good →
      deliverAll ((readBlk b l 4).fire k)
        (sameForAll b k f.t0 (recordView (barHome (idle s) w l) b f.lsid.toNat l 4)) = .ok b1 →
      exec (.bstat f) s = .next ((barHome (idle s) w l).putBlk w b1))

/-- R41, R151, R156, R158, R160, R194: the status reads complete; `MBSTAT`, `CPSTAT` and `MESTAT` clear the error bit
that they deliver, and the block notes that it found the bit set, so that its discard sets it again. The model's
choices: the bit comes back on a discard (log entry 24), and `LSTAT` answers 2 for an entry that another grid launched
(log entry 20). -/
def Obligations.StatusReads : Prop :=
  (∀ (f : FmtE) s w k x b b1 mb, Fires s w k x b → performing b k ≠ [] →
    mb = agetD (s.bay w.bay).mbox f.res.toNat .reset → mb.owner = some x.key →
    deliverAll ((b.clears mb.refused (.mbox f.res.toNat)).fire k) (sameForAll b k f.t0 (tokOf 1 ((mb.msgs.length + mb.spillCount) % 2 ^ 16 +
      (if mb.spillCount = 0 then 0 else 2 ^ 16) + mb.refused.toNat * 2 ^ 17))) = .ok b1 →
    exec (.mbstat f) s = .next ((((idle s).modBay w.bay fun y =>
      { y with mbox := aset y.mbox f.res.toNat { mb with refused := false } }).putBlk w
        (b.clears mb.refused (.mbox f.res.toNat))).putBlk w b1)) ∧
  (∀ (f : FmtE) s w k x b b1, Fires s w k x b → performing b k ≠ [] →
    deliverAll ((b.clears (s.teamD w x).cpErr .copy).fire k) (sameForAll b k f.t0 (tokOf 1
      (min ((s.bay w.bay).kicks.filter fun c => c.key = x.key && !c.started).length 255 +
        min ((s.bay w.bay).copies.filter fun c => c.kick.key = x.key).length 255 * 2 ^ 8 +
        (s.teamD w x).cpErr.toNat * 2 ^ 16))) = .ok b1 →
    exec (.cpstat f) s = .next ((((idle s).modTeam w.bay x.key fun t => { t with cpErr := false }).putBlk w
      (b.clears (s.teamD w x).cpErr .copy)).putBlk w b1)) ∧
  (∀ (f : FmtE) s w k x b b1 g, Fires s w k x b → performing b k ≠ [] →
    (s.bay w.bay).teamRegion x.key (bitsOf f.imm 3 0) = some g →
    deliverAll (b.fire k) (sameForAll b k f.t0 (tokOf 1 (g.loaded.toNat + g.running.toNat * 2 + g.quiet.toNat * 4 +
      g.faulted.toNat * 8 + min g.errs 255 * 2 ^ 8))) = .ok b1 →
    exec (.tstat f) s = .next (afterNode s w b1)) ∧
  (∀ (f : FmtE) s w k x b b1, Fires s w k x b → performing b k ≠ [] → (s.bay w.bay).mx.owner = some x.key →
    let m := (s.bay w.bay).mx
    deliverAll ((b.clears m.err (.matrix m.cause)).fire k) (sameForAll b k f.t0 (tokOf 1 (m.queue.length +
      m.cur.isSome.toNat * 2 ^ 6 + m.act.toNat * 2 ^ 7 + m.pa.loaded.toNat * 2 ^ 8 + m.pb.loaded.toNat * 2 ^ 9 +
      m.err.toNat * 2 ^ 10 + m.cause * 2 ^ 11 + m.rows * 2 ^ 16))) = .ok b1 →
    exec (.mestat f) s = .next ((((idle s).modBay w.bay fun y =>
      { y with mx := { y.mx with err := false, cause := 0 } }).putBlk w (b.clears m.err (.matrix m.cause))).putBlk w
        b1)) ∧
  (∀ (f : FmtE) s w k x b, Fires s w k x b → GoodWords b k (·.a) →
    DeliversTo (.lstat f) s w k b [f.t0] fun _ o => tokOf 1 (
      let e := s.poolEntry (tokVal o.a / 2 ^ 16 % 2 ^ 13)
      childStatus e (s.grid? e.gid) x.key.gid (tokVal o.a / 2 ^ 29)))

/-- R38, R129 to R131: the exits complete by the votes of their performing lanes; an indirect exit keeps each lane's
target, and a lane whose target is misaligned or not canonical makes it the fault 0x09. That the lowest lane's target
is the record's, which names all misaligned lanes, is the model's choice (log entry 21). R321, R322: an escape opcode
takes the unimplemented-opcode trap, a record of kind 0x06 that names the node. That its record has CAUSE as the
subcode and the warp's mask as its lanes is the model's choice (log entry 21). -/
def Obligations.ExitsVoteAndEscapesTrap : Prop :=
  ((∀ (i : Instr) (f : FmtX), directExit? i = some f → ∀ s w k x b, Fires s w k x b →
      exec i s = .next (afterNode s w (voting b k []))) ∧
    (∀ (i : Instr) (f : FmtX), indirectExit? i = some f → ∀ s w k x b, Fires s w k x b → GoodWords b k (·.a) →
      (∀ p ∈ laneTargets b k, p.2.extractLsb' 0 3 = 0 ∧ canonical p.2) →
      exec i s = .next (afterNode s w (voting b k (laneTargets b k)))) ∧
    (∀ (i : Instr) (f : FmtX), indirectExit? i = some f → ∀ s w k x b l a r, Fires s w k x b → GoodWords b k (·.a) →
      (laneTargets b k).filter (fun p => !targetAddrOk p.2) = (l, a) :: r →
      exec i s = .next ((idle s).takeFault w
        { kind := 0x05, sub := 0x09, node := some k, lanes := maskOf (l :: r.map (·.1)), va := a } none))) ∧
  (∀ (e : BitVec 4) (f : FmtA) s w k x b, Fires s w k x b →
      exec (.esc e f) s = .next ((idle s).takeFault w
        { kind := 0x06, sub := captureCause b.words k, node := some k, lanes := b.m } none))

/-- R36: a compute node, integer, data, floating-point or cross-lane, that would give a slot a second token for a lane
takes the dataflow-conflict fault, which names the node, the lanes and, by its target code, the slot. That the slot is
named by its target code, with node and lanes, is the model's choice (log entry 21). R95, R258: a compute node, of
whichever of these classes, that consumes a word which fails its check delivers nothing; the first such word is
served, for the lanes whose first failing word it is. What a node passes on it does not consume. The model's choices:
which bad word is the first and which lanes it is served for (log entry 21), and that a `SHFL` consumes the value of a
lane whose token it does not pass on (log entry 20). -/
def Obligations.ConflictsAndBadWords : Prop :=
  (∀ (i : Instr) (r : Row), row? i = some r → ∀ s w k x b key m, Fires s w k x b → GoodUses r x b k →
      deliverAll (b.fire k) (r.outs (idle s) w x b k) = .error (key, m) → exec i s = .next (conflictFault s w k key m)) ∧
  (∀ (i : Instr) (r : Row), row? i = some r → ∀ s w k x b l v, Fires s w k x b →
      badWord (usedWords r x b k) = some (l, v) →
      exec i s = .next ((idle s).consumed w (identOf x b k l v.1) v.2 (some k)
        (lanesHolding r x b k (identOf x b k l v.1))))

/-- R35, R40, R94, R105, R121 (frame): a compute node, a shuffle or a move that completes changes nothing but its
warp's block: its slots and its fired mark; else its step is a fault of its warp. -/
def Obligations.ComputeNodesChangeOnlyTheirBlock : Prop :=
  ∀ (i : Instr) s w k x b t, Fires s w k x b → (∃ r, row? i = some r ∧ GoodUses r x b k) ∨ (∃ f, i = .null f) →
    exec i s = .next t →
      (∃ slots, OnlyBlock s t w x { b.fire k with slots := slots }) ∨ (∃ key m, t = conflictFault s w k key m)

/-- R39, R125 (frame): a held or commit operation that fires changes nothing but its warp's block: no byte of memory
changes before the block commits. -/
def Obligations.HeldNodesChangeOnlyTheirBlock : Prop :=
  (∀ (i : Instr) f n need acc, heldMem? i = some (f, n, need, acc) → ∀ s w k x b rs t, Fires s w k x b →
    GoodWords b k allWords →
    resolveLanes (idle s) w x f.space.toNat n need (laneAddrs b k f.ofs) = .ok rs → exec i s = .next t →
    OnlyBlock s t w x (holding b k f.lsid.toNat (captured b k rs))) ∧
  (∀ (i : Instr) f va loc s w k x b l o r t, Fires s w k x b → performing b k = (l, o) :: r →
    (∀ v ∈ allWords o, good v = true) → heldTest i (idle s) w x o = some (f, va, loc) → exec i s = .next t →
    OnlyBlock s t w x (holding b k f.lsid.toNat (warpLanes b k o va loc))) ∧
  (∀ (i : Instr) f, atom? i = some f → ∀ s w k x b t, Fires s w k x b → GoodWords b k allWords → exec i s = .next t →
    OnlyBlock s t w x (committing b k f.lsid.toNat
      ((performing b k).map fun p => heldLane p.1 p.2 (effAddr p.2.a f.ofs) none)))

/-- R41, R366 to R368: a warp that takes a precise fault has its block discarded and is parked until the record is
served; its address, mask, mode, registers and stack are as they were; the record is kept with the warp's words. R365
to R367: where the ring of the context cannot take a record, the record is held and memory is left unchanged. -/
def Obligations.TakingAFault : Prop :=
  (∀ s w x (i : RecInfo) next, s.warp? w = some x → i.kind ≠ 0x20 →
      (∃ y, (s.takeFault w i next).warp? w = some y ∧ SameContext x y ∧ y.blk = none ∧
        y.park = .service s.recNum next) ∧
      (s.takeFault w i next).recNum = s.recNum + 1 ∧
      (∃ r ∈ (s.takeFault w i next).recs, r.num = s.recNum ∧ r.ctx = s.ctxOf w ∧ r.kind = i.kind ∧ r.agent = .warp w ∧
        r.words = warpRecord s w x i) ∧
      (∀ n a, ((s.takeFault w i next).bay n).pad.byte a = (s.bay n).pad.byte a)) ∧
  (∀ s (r : Record), r.kind ≠ 0x20 → canWrite s r.ctx = false →
      s.addRecord r = { s with recs := s.recs ++ [r], recNum := s.recNum + 1 })

/-- R369 (`TRET`, RESUME): the return of an address that names no pending record has no effect; a warp parked on the
record with no group to continue runs again from its block's address, with its registers as they were; one that has no
lane of its own (the split-overflow fault of an exported lane that comes back, log entry 21) waits for its exported
lanes again. -/
def Obligations.ReturnFromAnException : Prop :=
  (∀ s issuer a, namedRecord s issuer a = none → s.serve issuer a = s) ∧
  (∀ s issuer a r w x, namedRecord s issuer a = some r → r.agent = .warp w → r.kind ≠ 0x06 → r.kind ≠ 0x20 →
    s.warp? w = some x → x.park = .service r.num none → x.stop = false → x.stepRec = none →
    ∃ y, (s.serve issuer a).warp? w = some y ∧ SameContext x y ∧ y.blk = x.blk ∧
      y.park = (if x.mask = 0 then .exportReturn else .running) ∧ ∀ q ∈ (s.serve issuer a).recs, q.num ≠ r.num)

/-- R45, R56: a rollback discards the block and takes the warp back to its region's entry: the split stack is cut back
to the recorded depth, its oldest entries, of which the 16 most recent lie in hardware, staying; the registers are as
the region's committed blocks left them; and it counts. -/
def Obligations.RollbackReturnsToTheRegionEntry : Prop :=
  ∀ (s : State) w x r, s.warp? w = some x → x.region = some r →
    let es := (allEntries s w).drop ((allEntries s w).length - r.depth)
    (∃ y, (s.rollback w).warp? w = some y ∧ y.pc = r.addr ∧ y.mask = r.mask ∧ y.blk = none ∧ y.regs = x.regs ∧
      y.uregs = x.uregs ∧ y.mode = x.mode ∧ y.stack = es.take 16 ∧ y.spilled = (es.drop 16).length) ∧
    ((s.rollback w).bay w.bay).roll = (s.bay w.bay).roll + 1

/-- R258: a consumed mismatch outside a region, or a second one on the same word, is a fault of kind 0x04 that holds
the word; one that names no word is the program fault 0x12; a first one inside a region ends in the region's entry. -/
def Obligations.ConsumedMismatch : Prop :=
  (∀ (s : State) w x i v node lanes access, s.warp? w = some x → (x.region = none ∨ x.check = some i) → i ≠ .engine →
    s.consumed w i v node lanes access = s.takeFault w (mismatchInfo i v node lanes access (identPhys s w i)) none) ∧
  (∀ (s : State) w x v node lanes access, s.warp? w = some x → (x.region = none ∨ x.check = some .engine) →
    s.consumed w .engine v node lanes access = s.progFault w 0x12 node lanes) ∧
  (∀ (s : State) w x r i v node lanes access, s.warp? w = some x → x.region = some r → x.check ≠ some i →
    ∃ y, (s.consumed w i v node lanes access).warp? w = some y ∧ y.pc = r.addr ∧ y.mask = r.mask ∧ y.blk = none ∧
      y.check = some i)

/-- R33, R44, R83 to R85, R341, R346: the dispatch of a warp that can dispatch completes: it arrives at a join, stops
at a safe point that was asked for, takes the fault of a failed fetch, or has its fetched words checked and placed,
which the bay keeps as fetched. That the bay keeps the words is the model's choice (log entry 32). R34, R68, R69: a
block whose words pass every check of R83 and whose read entries meet no conflict stands in its warp's window, with no
node fired and every entry's token delivered, and the warp's registers are as they were. -/
def Obligations.BlockDispatch : Prop :=
  (∀ s w x, s.warp? w = some x → canDispatch s w x = true →
      (∀ i, matchedJoin (allEntries s w) x.pc = some i → exec (.blockDispatch w) s = .next (s.arrive w i x.mask)) ∧
      (matchedJoin (allEntries s w) x.pc = none →
        ((s.ctx (s.ctxOf w)).safeReq = false ∨ ∀ h, fetchWord s w x.pc = .ok h → (hdrOf h).safe = false) →
        (∀ ws, fetchBlock s w x.pc = .ok ws →
          exec (.blockDispatch w) s = .next (checkAndPlace (keepFetched s w x.pc ws) w x ws)) ∧
        (∀ e, fetchBlock s w x.pc = .error e → exec (.blockDispatch w) s = .next (fetchFault s w e))) ∧
      (∀ h, matchedJoin (allEntries s w) x.pc = none → (s.ctx (s.ctxOf w)).safeReq = true →
        fetchWord s w x.pc = .ok h → (hdrOf h).safe = true →
        exec (.blockDispatch w) s = .next (s.parkWarp w .safePoint))) ∧
  (∀ s w x ws b1, s.warp? w = some x → blockOk ws (((s.teamOf w).map (·.regs)).getD 0) = true →
      firstUnimplemented ws = none → privilegeFail ws (s.ctx (s.ctxOf w)) = none →
      readEntries (entering s w x ws).1 w (entering s w x ws).2
        ⟨x.pc, ws, x.mask, x.mode, emptySlots ws, 0, [], [], none, [], none, none, s.now, none, [], [], [], []⟩ = .ok b1 →
      ∃ y, (checkAndPlace s w x ws).warp? w = some y ∧ y.blk = some b1 ∧ y.regs = x.regs ∧ y.uregs = x.uregs ∧
        y.pc = x.pc ∧ y.mask = x.mask ∧ y.mode = x.mode)

/-- R322 to R324: the capture of an unimplemented node whose slots are complete and good completes: its record is
raised and the warp parks with its block in the window. -/
def Obligations.CaptureComplete : Prop :=
  ∀ s w x b c, s.warp? w = some x → x.blk = some b → b.capture = some c → captureReady b c.node = true →
    x.park = .running → badWord (slotWords b c.node) = none →
    exec (.captureComplete w) s = .next ((s.parkWarp w (.service s.recNum none)).addRecord
      ⟨s.recNum, s.ctxOf w, 0x06, .warp w, captureWords s w x b c.node, none⟩)

/-- R36, R38 to R41, R45, R46, R130, R131, R147: BLOCK_COMMIT completes for a complete block: what the votes or the
stack forbid is a fault and writes nothing; otherwise a block without a commit operation writes its registers and
releases; one with a commit operation whose results would meet a conflict takes that fault and does nothing of it, and
one whose operation is done delivers its results, then writes its registers and releases, its region at an end. What
the block will export is settled as the commit begins. The model's choices: the boundary's checks come before the
commit operation (log entry 21), a conflict of its results is found before it is performed (log entry 24), and a
region ends only where the block has lanes (log entry 23). R42 to R44, R130, R131: what follows a block whose votes
form these groups. One group goes on at its target with the stack as it is; several push the join entry, which holds
the lanes that go straight to the join, and a pending entry for each group but the first, which runs. A call pushes
its return address; returning lanes reach the call entry on top. A group that ends takes the entry on top of the
stack, or the warp retires; one that comes to the address of a join entry above the nearest call entry adds its lanes
to the highest such entry and ends. -/
def Obligations.BlockCommit : Prop :=
  (∀ s w x b0, Completes s w x b0 →
      let b : Blk := { b0 with exporting := exportsOf s w x b0 }
      (∀ sub lanes many, boundaryFault s w b = some (sub, lanes, many) →
        exec (.blockCommit w) s = .next (voteFault s w sub lanes many)) ∧
      (boundaryFault s w b = none → b.cop = none →
        ∃ t, exec (.blockCommit w) s = .next t ∧ writeAndRelease s w b = some t) ∧
      (boundaryFault s w b = none → b.cop = none → b.held = [] → b.wait = none →
        exec (.blockCommit w) s = .next (finishCommit
          (s.modWarp w fun y => { writeRegisters b y with blk := some { b with
            releasing := some []
            evtest := if (writeRegisters b y).evmask = y.evmask then none else some y.evmask } }) w b)) ∧
      (∀ h key m, boundaryFault s w b = none → b.cop = some h → copConflict b h = some (key, m) →
        exec (.blockCommit w) s = .next (s.takeFault w
          { kind := 0x05, sub := 0x03, node := some h.node, lanes := m, va := BitVec.ofNat 64 key } none)) ∧
      (∀ h s1 r b1, boundaryFault s w b = none → b.cop = some h → copConflict b h = none →
        performCop s w x b h = .done s1 r → deliverCop b h r = .ok b1 →
        ∃ t, exec (.blockCommit w) s = .next t ∧
          writeAndRelease (if h.lanes.isEmpty then s1 else endRegion s1 w) w { b1 with cop := some h } = some t)) ∧
  ((∀ s w x b g, s.warp? w = some x → x.spilled = 0 → PlainFlow b [g] → x.stack.length ≤ 16 →
      RunsAt (successors s w b) w x g.addr g.mask x.stack) ∧
    (∀ s w x b gs g more, s.warp? w = some x → x.spilled = 0 → PlainFlow b gs → 2 ≤ gs.length →
      let j := joinAddr b.addr b.words
      gs.filter (fun h => !(j != 0 && h.addr == j)) = g :: more → x.stack.length + more.length + 1 ≤ 16 →
      let a := (gs.filter fun h => h.addr = j).foldl (fun m h => m ||| h.mask) 0
      RunsAt (successors s w b) w x g.addr g.mask
        (more.map pendingOf ++ (if j = 0 then [] else [⟨.join, j, a, 0⟩]) ++ x.stack)) ∧
    (∀ s w x b gs, s.warp? w = some x → x.spilled = 0 → PlainFlow b gs → 2 ≤ gs.length → x.stack.length ≤ 16 →
      let j := joinAddr b.addr b.words
      j ≠ 0 → (∀ h ∈ gs, h.addr = j) → gs.foldl (fun m h => m ||| h.mask) 0 ≠ 0 →
      RunsAt (successors s w b) w x j (gs.foldl (fun m h => m ||| h.mask) 0) x.stack) ∧
    (∀ s w x b g ret, s.warp? w = some x → x.spilled = 0 → flowGroups b = [g] → g.act = .call ret → kindLanes b 4 = 0 →
      b.exporting = [] → x.stack.length < 16 →
      RunsAt (successors s w b) w x g.addr g.mask (⟨.call, ret, 0, 0⟩ :: x.stack)) ∧
    (∀ s w x b e r, s.warp? w = some x → x.spilled = 0 → flowGroups b = [] → kindLanes b 4 ≠ 0 → b.exporting = [] →
      x.stack = e :: r → e.kind = .call → e.out = 0 → x.stack.length ≤ 16 →
      RunsAt (successors s w b) w x e.addr (e.mask ||| kindLanes b 4) r) ∧
    (∀ s w x, s.warp? w = some x → x.spilled = 0 → x.stack.length ≤ 16 →
      (x.stack = [] → ∃ y, (s.endGroup w).warp? w = some y ∧ y.retired = true) ∧
      (∀ e r, x.stack = e :: r → e.kind = .pending → x.acts = [] → RunsAt (s.endGroup w) w x e.addr e.mask r) ∧
      (∀ e r, x.stack = e :: r → e.kind ≠ .pending → e.out = 0 → e.mask ≠ 0 → RunsAt (s.endGroup w) w x e.addr e.mask r) ∧
      (∀ e r, x.stack = e :: r → e.kind ≠ .pending → e.out = 0 → e.mask = 0 →
        s.endGroup w = (setEntries s w r).endGroup w) ∧
      (∀ e r, x.stack = e :: r → e.kind ≠ .pending → e.out ≠ 0 → ∃ y, (s.endGroup w).warp? w = some y ∧
        y.park = .exportReturn ∧ y.stack = x.stack ∧ y.mask = 0) ∧
      (∀ i m, ∃ (u : State) (y : Warp), s.arrive w i m = u.endGroup w ∧ u.warp? w = some y ∧ y.spilled = 0 ∧
        ∀ k, y.stack[k]? = (x.stack[k]?).map fun e => if k = i then { e with mask := e.mask ||| m } else e)) ∧
    (∀ es a i, matchedJoin es a = some i → (∃ e, es[i]? = some e ∧ e.kind = .join ∧ e.addr = a) ∧
      ∀ j < i, ∀ e, es[j]? = some e → e.kind ≠ .call ∧ ¬ (e.kind = .join ∧ e.addr = a)))

/-- R40, R62, R66: at commit a lane register write writes exactly the lanes of M that have a token: word i of the
token to the register i above the entry's; every other register of the warp, its uniform registers and `MODE` are
unchanged. R62, R64, R65, R66, R106 (register writes of a commit): a write slot of a special register takes the lowest
lane's token, as a uniform one does; a uniform register takes it word by word; a `MODE` or `EVMASK` write, by a write
entry or by `SWR`, changes that register by its rule and nothing else of the warp; a slot that no lane of M gave a
token writes nothing. -/
def Obligations.LaneRegisterWrites : Prop :=
  (∀ (b : Blk) (x : Warp) (j r l : Nat), bitsOf (writeEntry b.words j) 15 14 = 0 → l < 64 →
      let y := writeSlotReg b x j
      y.reg r l =
        (match slotTok b.slots (writeKey j) l with
         | some t => if l ∈ lanesOf b.m then written t (bitsOf (writeEntry b.words j) 13 6) r (x.reg r l) else x.reg r l
         | none => x.reg r l) ∧
      y = { x with regs := y.regs }) ∧
  ((∀ (b : Blk) (x : Warp) (j r : Nat) (t : Tok), bitsOf (writeEntry b.words j) 15 14 = 1 →
      LowestToken b (writeKey j) t →
      let y := writeSlotReg b x j
      y.ureg r = written t (bitsOf (writeEntry b.words j) 13 6) r (x.ureg r) ∧ y = { x with uregs := y.uregs }) ∧
    (∀ (b : Blk) (x : Warp) (j : Nat) (t : Tok), bitsOf (writeEntry b.words j) 15 14 = 2 → LowestToken b (writeKey j) t →
      writeSlotReg b x j = specialWritten x (bitsOf (writeEntry b.words j) 13 6) (wordAt t 0)) ∧
    (∀ (b : Blk) (x : Warp) (j : Nat), (∀ l ∈ lanesOf b.m, slotTok b.slots (writeKey j) l = none) →
      writeSlotReg b x j = x) ∧
    (∀ (b : Blk) (x : Warp) (h : HeldOp) (f : FmtA) (l : HeldLane), nodeAt b.words h.node = (0x33, .a f) → h.lsid = 64 →
      h.lanes.head? = some l → writeSwr b x h = specialWritten x (bitsOf f.ext 7 0) (wordAt l.a 0)))

/-- R157, R181, R258, R259: ENGINE_ERROR completes at a block boundary: the oldest error that this boundary serves is
taken from the list and served, a command error as the program fault 0x0E. The model's choices: the record's access
code 2 (log entry 22), the warp's whole mask as its lanes (log entry 21), and the boundary as its moment (log entry
24). R256, R259: SUBWORD_MERGE and HOME_CHECK_FAILURE complete whenever a merge or a report waits, the oldest first. A
report that comes while a block of its warp runs is served at that block's end. The model's reading (log entry 24):
one that comes while the warp's block commits or between two blocks is served at the end of the next block. R51, R270,
R326: a block that has not completed 4,096 clocks after a pre-emption request is discarded, unless its commit has
begun, and it fires and begins to commit no more; its warp's registers, address and mask are as they were, and the
record of a captured block is pending no longer. R147, R149: a parked wait wakes when its context asks for no
safe-point stop and it is not being saved: WAITANY at the handler of its lowest pending slot, WAITADDR at its target.
-/
def Obligations.WarpAndHomeEvents : Prop :=
  ((∀ s w x i v, ErrorAtBoundary s w x (.cause i v) → exec (.engineError w) s =
      .next ((s.modWarp w fun y => { y with errs := x.errs.erase (.cause i v) }).consumed w i v none x.mask 2)) ∧
    (∀ s w x opc c, ErrorAtBoundary s w x (.command opc c) → exec (.engineError w) s =
      .next ((s.modWarp w fun y => { y with errs := x.errs.erase (.command opc c) }).progFault w 0x0E none x.mask)) ∧
    (∀ s w x, s.warp? w = some x → (∀ e ∈ x.errs, ∃ i v, e = .home i v) → ∀ t, exec (.engineError w) s ≠ .next t)) ∧
  ((∀ s m r, s.merges = m :: r → exec .subwordMerge s = .next (({ s with merges := r } : State).mergeAt m)) ∧
    (∀ s h r, s.reports = h :: r → ∃ t, exec .homeCheckFailure s = .next t ∧ t.reports = r ∧ t.mem = s.mem ∧
      ∀ x, s.warp? h.warp = some x → t.warp? h.warp = some { x with errs := x.errs ++
        [if ∃ b, x.blk = some b ∧ b.releasing = none then .cause h.ident h.w else .home h.ident h.w] })) ∧
  (∀ s w x b t, s.warp? w = some x → x.preempt = some t → x.blk = some b → t + 4096 ≤ s.now → b.releasing = none →
      (∃ u y, exec (.preemptBlockTimeout w) s = .next u ∧ u.warp? w = some y ∧ SameContext x y ∧ y.blk = none ∧
        (b.capture = none → y = { x with blk := none } ∧ u.mem = s.mem) ∧
        (∀ r, b.capture ≠ none → (s.recs.find? fun r => r.kind = 0x06 && r.agent = .warp w) = some r →
          y.park = .running ∧ ∀ q ∈ u.recs, q.num = r.num → q.kind = 0x20)) ∧
      (∀ u, exec (.blockCommit w) s ≠ .next u) ∧
      ∀ k i, s.cur = .node w k → (encodeNode i).isSome → ∀ u, exec i s ≠ .next u) ∧
  ((∀ s w x set mask, s.warp? w = some x → x.park = .waitAny set mask → x.evpend &&& set ≠ 0 → mayWake s w x = true →
      ∃ t y, exec (.waitanyWake w) s = .next t ∧ t.warp? w = some y ∧ y.mask = mask ∧
        y.pc = ((aget x.binds (lowestSlot (x.evpend &&& set))).map (·.handler)).getD 0) ∧
    (∀ s w x loc va sp val target mask, s.warp? w = some x → x.park = .waitAddr loc va sp val target mask →
      x.woken = true → mayWake s w x = true →
      ∃ t y, exec (.waitaddrWake w) s = .next t ∧ t.warp? w = some y ∧ y.mask = mask ∧ y.pc = target))

/-- R253, R256: a merge of bytes inside its mask with the code of those bytes leaves the word's syndrome as it was, so
a word that passed its check passes it afterwards, and replaces exactly the bytes of the mask. R92, R253: a word
written with its code passes its check, and a word that differs from it in one bit, or in a burst of at most eight
neighbouring bits, does not pass with that code. -/
def Obligations.CheckCodes : Prop :=
  (∀ (h : W40) (m : BitVec 4) (n : Word), n &&& ~~~(byteMask m) = 0 →
      syndromeOf (mergeWord h m n (lcc n)) = syndromeOf h ∧ (mergeWord h m n (lcc n)).p = h.p ∧
      (mergeWord h m n (lcc n)).v &&& byteMask m = n ∧
      (mergeWord h m n (lcc n)).v &&& ~~~(byteMask m) = h.v &&& ~~~(byteMask m)) ∧
  ((∀ x : Word, good (fresh x) = true) ∧
    (∀ (x : Word) (b : Byte) (i : Nat), b ≠ 0 → i ≤ 24 → good ⟨x ^^^ (b.setWidth 32 <<< i), lcc x, false⟩ = false))

/-- R202 to R205: an element operation that computes, tests or passes a token completes when it is ready: its effects
are those of its row, and an operand that is an error token makes it pass that token on. R204 to R208: the counting,
generating, steering, joining and predicate operations complete with the effects of their rows, for operands that are
no error tokens and locals that pass their checks. -/
def Obligations.ElementOperations : Prop :=
  (∀ (i : Instr) (e : ElemId) (s : State) (g : Region), ((s.bay e.bay).elem e.row e.col).glitch = false →
      (∀ op x f, elemValue? i = some (op, x, f) → ElemFires s e g op x →
        exec i s = .next (afterFiring s e g x (value2 f (reading s e g op x)))) ∧
      (∀ op x f, elemTest? i = some (op, x, f) → ElemFires s e g op x →
        exec i s = .next (afterFiring s e g x (test2 (fun a b => f a b = true) (reading s e g op x)))) ∧
      (∀ op x tok tag, elemPass? i = some (op, x, tok, tag) → ElemFires s e g op x → (reading s e g op x).err = none →
        let r := reading s e g op x
        exec i s = .next (afterFiring s e g x { r.sends ⟨(tok r).w, tag r⟩ with dst := some (tok r).w }))) ∧
  (∀ (i : Instr) op x f, elemOther? i = some (op, x, f) → ∀ s e g, ElemFires s e g op x →
      ((s.bay e.bay).elem e.row e.col).glitch = false → (reading s e g op x).err = none →
      good (reading s e g op x).cur = true → good ((reading s e g op x).e.local? 3) = true →
      exec i s = .next (afterFiring s e g x (f (reading s e g op x))))

/-- R198, R207, R208: the SRAM operations and MERGE complete with the effects of their rows; an index of 1,024 or more
sends an error token with CAUSE 0x01, the element's number and the low 16 bits of the index, for `TAS` of the bit
index, and writes nothing. R209: an operation of a value, a passed token or the SRAM with an error token among its
operands sends that token on and dequeues; it writes no local and no SRAM, and a `TAS` gives its predicates t = 0. -/
def Obligations.ElementMemoryAndErrors : Prop :=
  ((∀ (i : Instr) op x idx f, elemSram? i = some (op, x, idx, f) → ∀ s e g, ElemFires s e g op x →
      ((s.bay e.bay).elem e.row e.col).glitch = false → (reading s e g op x).err = none →
      let r := reading s e g op x
      (idx r < 1024 → (op = 24 ∨ (sramWord r (idx r)).p = false) → (op < 25 ∨ good (sramWord r (idx r)) = true) →
        exec i s = .next (afterFiring s e g x (f r))) ∧
      (1024 ≤ idx r → exec i s = .next (afterFiring s e g x
        { r.sends ⟨fresh (BitVec.ofNat 32 (2 ^ 24 + r.num % 2 ^ 8 * 2 ^ 16 +
            (if op = 25 then r.a.w.v.toNat else idx r) % 2 ^ 16)), 3⟩ with
          test := if op = 25 then some false else none }))) ∧
    (∀ x s e g, ElemFires s e g 29 x → ((s.bay e.bay).elem e.row e.col).glitch = false →
      (reading s e g 29 x).a.tag ≠ 3 → (reading s e g 29 x).b.tag ≠ 3 →
      exec (.elemMerge x) s = .next (afterFiring s e g x (mergeRow x (reading s e g 29 x))))) ∧
  ((∀ (i : Instr) op x, elemRow? i = some (op, x) → ∀ s e g t, ElemFires s e g op x →
      ((s.bay e.bay).elem e.row e.col).glitch = false → (reading s e g op x).err = some t →
      exec i s = .next (afterFiring s e g x { out := some t, mask := x.omask, deq := x.deq })) ∧
    (∀ x s e g t, ElemFires s e g 25 x → ((s.bay e.bay).elem e.row e.col).glitch = false →
      (reading s e g 25 x).err = some t →
      exec (.elemTas x) s = .next (afterFiring s e g x { out := some t, mask := x.omask, deq := x.deq, test := some false })))

/-- R203, R205, R222 (frame): a firing without an uncorrectable SRAM word changes only elements and its own region,
whose firing count grows by one and which is quiescent no more: no byte of memory, no warp, and no other bay. -/
def Obligations.FiringsChangeOnlyTheirTruss : Prop :=
  ∀ (s : State) (e : ElemId) (g : Region) (x : ElemWord) (r : Firing),
    let t := afterFiring s e g x r
    t = { idle s with bays := t.bays } ∧ (∀ n, n ≠ e.bay → t.bay n = s.bay n) ∧
    t.bay e.bay = { s.bay e.bay with
      elems := (t.bay e.bay).elems
      regions := (s.bay e.bay).regions.map fun q =>
        if q.key = g.key ∧ q.idx = g.idx then { q with fires := q.fires + 1, quiet := false } else q } ∧
    (∀ n a, (t.bay n).pad.byte a = (s.bay n).pad.byte a) ∧ (∀ w, t.warp? w = s.warp? w) ∧
    (∀ row col, ekey row col ≠ ekey e.row e.col → (t.bay e.bay).elem row col = (s.bay e.bay).elem row col)

/-- R205: after a firing a predicate bit is the test's truth where PSETF has it, the test's opposite where PCLRF has
it (PCLRF wins), and as it was elsewhere; an operation without a test sets the bits of PSETF that it gives and clears
those of PCLRF. -/
def Obligations.PredicatesAfterAFiring : Prop :=
  ∀ (q : Byte) (x : ElemWord) (r : Firing) (k : Nat), k < 8 →
    (predsAfter q x r).getLsbD k =
      (if x.pclrf.getLsbD k then (match r.test with | some t => !t | none => false)
       else if x.psetf.getLsbD k then (match r.test with | some t => t | none => r.bits.getLsbD k)
       else q.getLsbD k)

/-- R180, R212, R247, R290: PORT_LOAD_REQUEST and PORT_LOAD_REPLY complete: a request takes a place, a token that is
no data token passes in its place, a word inside LIMIT on whose line no engine holds a destination is read and sent on
`o2`, and one outside LIMIT gives an error token. The model's choices: the error token of a request that fails has
DETAIL 0 (log entry 15), and the load is evaluated when its reply is due (log entry 27). R213: SINK_DEQUEUE and
SINK_RECHECK complete: a token with room is written as the next entry and leaves `i3`, a sink of no capacity drops it,
and a full sink waits for a write to its count word. -/
def Obligations.PortsAndSinks : Prop :=
  ((∀ s p g t, PortHas s p g 2 t → ((s.bay p.bay).port p.row).reqs.length < 16 →
      exec (.portLoadRequest p) s = .next ((portPop s p 2).modPort p fun q => { q with reqs := q.reqs ++
        [if t.tag ≠ 0 then ⟨0, some t⟩ else if good t.w then ⟨t.w.v, none⟩
         else ⟨0, some (errTok 0x02 (g.elemNum p.row 0) 0)⟩] })) ∧
    (∀ s p g t rest, portRegion s p = some g → ((s.bay p.bay).port p.row).reqs = ⟨0, some t⟩ :: rest →
      portCredit s p 2 = true → ((s.bay p.bay).port p.row).stalled = none →
      exec (.portLoadReply p) s = .next (portReply s p g t)) ∧
    (∀ s p g (ofs : Word) rest, portRegion s p = some g → ((s.bay p.bay).port p.row).reqs = ⟨ofs, none⟩ :: rest →
      portCredit s p 2 = true → ((s.bay p.bay).port p.row).stalled = none →
      let cfg := portCfg ((s.bay p.bay).port p.row)
      (ofs.toNat % 4 ≠ 0 ∨ (wordAt cfg 2).toNat < ofs.toNat + 4 →
        exec (.portLoadReply p) s = .next (portReply s p g (errTok 0x01 (g.elemNum p.row 0) ofs.toNat))) ∧
      (∀ l, ofs.toNat % 4 = 0 → ofs.toNat + 4 ≤ (wordAt cfg 2).toNat →
        portLoc s p g (bitsOf (wordAt cfg 3) 2 0) (doubleAt cfg 0 + ofs.setWidth 64) = .ok l →
        (∀ h ∈ s.holdsOn l, h.2.write = false) →
        exec (.portLoadReply p) s = .next (portReply s p g ⟨engineRead s p.bay l, 0⟩)))) ∧
  ((∀ s p g t, PortHas s p g 3 t → ((s.bay p.bay).port p.row).sinkWait = false →
      ((s.bay p.bay).port p.row).sinkStop = false →
      (∀ base n, sinkLook s p = .room base n →
        exec (.sinkDequeue p) s = .next (portPop (sinkWrite s p.bay g base n t) p 3)) ∧
      (sinkLook s p = .drop → exec (.sinkDequeue p) s = .next (portPop s p 3)) ∧
      (sinkLook s p = .full → exec (.sinkDequeue p) s =
        .next (s.modPort p fun q => { q with sinkWait := true, sinkKick := false }))) ∧
    (∀ s p g, portRegion s p = some g → ((s.bay p.bay).port p.row).sinkWait = true →
      ((s.bay p.bay).port p.row).sinkKick = true →
      sinkLook s p ≠ .held → ∃ t, exec (.sinkRecheck p) s = .next t ∧
        (portHead s p 3 = none → t = s.modPort p fun q => { q with sinkWait := false, sinkKick := false })))

/-- R155, R211, R214: STREAM_IN_WORD and STREAM_OUT_WORD complete: a word of the pattern leaves `o0` as a data token,
a finished DIR 0 pattern sends an end token, a data token at `i0` is stored, a marker is dropped. One word in a
stream's step is the model's choice (log entry 25). R224, R225: EXPORT_RETURN completes for every token at `i1` of a
port that runs: a good marker names the lane whose tokens follow, its last token returns the lane, and a token without
a marker is discarded. That a token without a marker is discarded is the model's choice (log entry 27). -/
def Obligations.StreamsAndExportReturns : Prop :=
  ((∀ s p g c x l, StreamsAt s p false g c x → portCredit s p 0 = true → bindLoc s c x false = .ok l →
      ctlBit c.req 21 = false →
      (bindHolds s p false c x l).engineWaits p.bay (streamEngine p.row false) c.seq l = false →
      exec (.streamInWord p) s = .next (bindMoved (portSend (bindHolds s p false c x l) p g 0
        ⟨engineRead (bindHolds s p false c x l) p.bay l, 0⟩) p false c x).1) ∧
    (∀ s p g c x, portRegion s p = some g → liveBind s p false = some (c, x) → c.ending = false →
      portCredit s p 0 = true → reqTotal c.req ≤ c.moved →
      exec (.streamInWord p) s = .next (bindEnd (portSend s p g 0 endTok) p g false c x)) ∧
    (∀ s p g c x t l, StreamsAt s p true g c x → ((s.bay p.bay).port p.row).endOut = false → portHead s p 0 = some t →
      t.tag = 0 → bindLoc s c x true = .ok l →
      (bindHolds s p true c x l).engineWaits p.bay (streamEngine p.row true) c.seq l = false →
      bindWaits (bindHolds s p true c x l) p true c = false →
      exec (.streamOutWord p) s = .next (streamStore (bindHolds s p true c x l) p g c x l t)) ∧
    (∀ s p g c x t, StreamsAt s p true g c x → ((s.bay p.bay).port p.row).endOut = false → portHead s p 0 = some t →
      t.tag = 1 → exec (.streamOutWord p) s = .next (portPop s p 0))) ∧
  ((∀ s p g t, PortHas s p g 1 t → ∃ u, exec (.exportReturn p) s = .next u) ∧
    (∀ s p g t, PortHas s p g 1 t → t.tag ≠ 1 → ((s.bay p.bay).port p.row).retMark = none →
      exec (.exportReturn p) s = .next (portPop s p 1)) ∧
    (∀ s p g t m, PortHas s p g 1 t → t.tag = 0 → good t.w = true → ((s.bay p.bay).port p.row).retMark = some m →
      let toks := (((s.bay p.bay).port p.row).retToks ++ [t]).map (·.w)
      returnCount s p g m.w.v ≤ toks.length →
      exec (.exportReturn p) s = .next (finishReturn (portPop s p 1) p g m.w.v toks)))

/-- R199, R223: TOKEN_HOP completes: the oldest token in flight on an output arrives at the end of its destination's
queue; the next export token of a port sets out from `o1` and arrives. That export tokens leave `o1` by TOKEN_HOP is
the model's choice (log entry 27). R222: QUIESCENCE_SCAN completes on a region that is loaded and runs: where it is
found empty, a first clean scan notes the firing count, a second with the same count sets TSTAT[2] and the event; a
scan that finds a token forgets the first. The model's choices (log entry 27): a region is empty only where no slot of
it is ready and no export is buffered as well. R216 to R221: TRUSS_IMAGE_LOAD and CONFIG_PACKET_DELIVER complete
whenever a load waits with no packet before it, or a packet waits; a kind 0xF packet starts its element. -/
def Obligations.HopsQuiescenceAndLoading : Prop :=
  ((∀ s (e : ElemId) k r t rest, aget ((s.bay e.bay).elem e.row e.col).routes k = some r →
      ((s.bay e.bay).elem e.row e.col).flying k = t :: rest →
      ∃ u, exec (.tokenHop e k) s = .next u ∧
        ((u.bay e.bay).elem r.row r.col).queue r.inp = ((s.bay e.bay).elem r.row r.col).queue r.inp ++ [t] ∧
        ((u.bay e.bay).elem e.row e.col).flying k = rest ∧ u.mem = s.mem) ∧
    (∀ s (e : ElemId) r t, e.col = 0 → aget ((s.bay e.bay).elem e.row 0).routes 1 = some r →
      ((s.bay e.bay).elem e.row 0).flying 1 = [] → exportNext (s.bay e.bay) e.row = some t →
      ∃ u, exec (.tokenHop e 1) s = .next u ∧
        ((u.bay e.bay).elem r.row r.col).queue r.inp = ((s.bay e.bay).elem r.row r.col).queue r.inp ++ [t] ∧
        ((u.bay e.bay).port e.row).exports = ((s.bay e.bay).port e.row).exports.drop 1)) ∧
  (∀ s bay n g, (s.bay bay).regions[n]? = some g → g.clocked = true → g.loaded = true →
        g.quiet = false →
      (regionEmpty (s.bay bay) g = true → g.scan ≠ some g.fires →
        exec (.quiescenceScan bay n) s = .next (s.modRegion bay g.key g.idx fun r => { r with scan := some r.fires })) ∧
      (regionEmpty (s.bay bay) g = true → g.scan = some g.fires →
        exec (.quiescenceScan bay n) s = .next ((s.modRegion bay g.key g.idx fun r =>
          { r with quiet := true, scan := none }).occur bay (·.key = g.key) fun e => e.kind = 4 && e.sel = g.idx)) ∧
      (regionEmpty (s.bay bay) g = false → g.scan ≠ none →
        exec (.quiescenceScan bay n) s = .next (s.modRegion bay g.key g.idx fun r => { r with scan := none }))) ∧
  ((∀ s bay n g l rest, (s.bay bay).regions[n]? = some g → g.loads = l :: rest → g.packets = [] →
      exec (.trussImageLoad bay n) s =
        .next (loadImage (s.modRegion bay g.key g.idx fun r => { r with loads := rest }) bay g l)) ∧
    (∀ s bay n g p rest, (s.bay bay).regions[n]? = some g → g.packets = p :: rest →
      ∃ t, exec (.configPacketDeliver bay n) s = .next t ∧ t.mem = s.mem ∧
        (p.kind = 15 → ((t.bay bay).elem p.row p.col).started = true) ∧
        (p.kind = 3 → ((t.bay bay).elem p.row p.col).routes = placeRoutes g p.words) ∧
        (p.kind = 4 → portCfg ((t.bay bay).port p.row) = portCfg { (s.bay bay).port p.row with cfg := putKeys [] 0 p.words })))

/-- R154 to R157: the copy engine's events complete: a kick whose request is readable and well formed starts with its
holds while others are in progress, and the rest of its chain stands in front of the queue; of any request in progress
a chunk whose two places translate is moved, and a finished one completes. The reports of a chain's requests come in
order; a line that the request does not hold yet, because it did not translate before, is held from the chunk that
reaches it on, with those after it (R247). That fewer than 255 requests are in progress is the model's own bound (log
entry 25). R157: where a chunk's source or destination does not translate, the request stalls with a record or ends
with an engine error; nothing is moved. -/
def Obligations.CopyEngine : Prop :=
  ((∀ s bay k rest x t q, (s.bay bay).kicks = k :: rest → (s.bay bay).copies.length < 255 → s.warp? k.warp = some x →
      s.team? bay k.key = some t →
      let s0 : State := s.modBay bay fun y => { y with kicks := y.kicks.drop 1 }
      requestWaits s0.newSeq.2 bay 1 s0.newSeq.1 t k.ofs = false → requestWords s0.newSeq.2 bay t k.ofs = some q →
      q.all good = true → requestOk s0.newSeq.2 t q true true = true →
      exec (.copyRequestStart bay) s = .next (takeRequestHolds
        (s0.newSeq.2.modBay bay fun y => { y with
          copies := y.copies ++ [⟨{ k with started := true }, q, 0, none, s0.newSeq.1⟩]
          kicks := (if (wordAt q 15).toNat = 0 then [] else [{ k with ofs := (wordAt q 15).toNat, started := true }]) ++
            y.kicks })
        k.warp x q true true 1 s0.newSeq.1 0)) ∧
    (∀ s bay n c x l d, Copies s bay n c x → c.moved < reqTotal c.req → chunkWaits (s.bay bay) c = false →
      sideLoc s c.kick.warp x c.req false c.moved = .ok l → sideLoc s c.kick.warp x c.req true c.moved = .ok d →
      let s1 := if lacksHold s bay 1 c.seq (heldOf c.req l d) then
        takeRequestHolds s c.kick.warp x c.req true true 1 c.seq c.moved else s
      s1.engineWaits bay 1 c.seq l = false → s1.engineWaits bay 1 c.seq d = false →
      countWaits s1 c.kick.warp c.req 1 c.seq = false → exec (.copyChunkLand ⟨bay, n⟩) s = .next (landChunk s1 bay x c l d)) ∧
    (∀ s bay n c x, Copies s bay n c x → reqTotal c.req ≤ c.moved → chainWaits (s.bay bay) c = false →
      ctlBit c.req 20 = false →
      exec (.copyCompletion ⟨bay, n⟩) s = .next (copyDone s bay c)) ∧
    (∀ s bay n c x l, Copies s bay n c x → reqTotal c.req ≤ c.moved → chainWaits (s.bay bay) c = false →
      ctlBit c.req 20 = true → cwWaits s c.kick.warp c.req 1 c.seq = false → cwLoc s c.kick.warp x c.req = .ok l →
      exec (.copyCompletion ⟨bay, n⟩) s = .next (copyDone (completionWrite s c.kick.warp c.req l) bay c))) ∧
  (∀ s bay n c x f (dst : Bool), Copies s bay n c x → c.moved < reqTotal c.req → chunkWaits (s.bay bay) c = false →
      (dst = true → ∃ l, sideLoc s c.kick.warp x c.req false c.moved = .ok l) →
      sideLoc s c.kick.warp x c.req dst c.moved = .error f →
      let acc := if dst then .write else .read
      exec (.copyChunkLand ⟨bay, n⟩) s =
        .next (copyFail s bay x c (sideSpace c.req dst) (patternAddr c.req dst c.moved) acc f) ∧
      (stalls f = none → copyFail s bay x c (sideSpace c.req dst) (patternAddr c.req dst c.moved) acc f =
        copyError s bay c.kick c.seq .zero))

/-- R179 to R193: the matrix engine's events complete for the command in progress once its lines are free: a plane is
loaded or ends in a data error; every other command does its next group of rows, unless its team is being saved and
has no block left. The model's choices (log entry 34): the engine of a team that is being saved goes on until the team
has no block left, and a plane stays as it was after a data error. R164, R166 to R170, R173 to R175, R189 to R193:
what one row of a command leaves in the tile or writes. `ACCZ` clears; `ACCSC` multiplies by the row's factor; `ACCLD`
sets the converted source; `ACCRD` writes the converted elements with fresh codes and changes no other byte; a row of
`MMS` that completes adds the exact integer sum and wraps, or adds the exact sum, or for elements of 16 and 32 bits
the tree's, and rounds once. That a group sum of elements of 8 bits and less that is exactly zero is +0 is the model's
choice (log entry 34). -/
def Obligations.MatrixEngine : Prop :=
  ((∀ s bay c, (s.bay bay).mx.cur = some c → mxReady s bay = true → mxStopped s bay = false → c.opc ≠ 0x1B0 →
      exec (.matrixRowGroupComplete bay) s = .next (groupStep s bay c (s.bay bay).mx.rows)) ∧
    (∀ s bay c p, (s.bay bay).mx.cur = some c → mxReady s bay = true → c.opc = 0x1B0 → statPlane s bay c = .ok p →
      exec (.planeLoadComplete bay) s = .next (mxFinish (s.modBay bay fun y => { y with mx := loadPlane c p y.mx }) bay c)) ∧
    (∀ s bay c e, (s.bay bay).mx.cur = some c → mxReady s bay = true → c.opc = 0x1B0 → statPlane s bay c = .error e →
      exec (.planeLoadComplete bay) s = .next (mxNext (dataError s bay c e) bay))) ∧
  (∀ (s : State) (bay : Nat) (c : MxCmd) (i : Nat), bitsOf c.f.imm 11 6 + i < 64 →
      let size := accRowBytes (bitsOf c.f.imm 17 13) / 128
      let base := ((s.team? bay c.key).getD (noTeam c.key)).bspBase
      (c.opc = 0x1B3 → ∃ t, applyRow s bay c i = .ok t ∧ RowBecomes s t bay c i fun _ => 0) ∧
      (∀ v, c.opc = 0x1B5 → RowReads s bay c i 4 v → ∃ t, applyRow s bay c i = .ok t ∧ RowBecomes s t bay c i fun n =>
        roundFp fB128 .rne 0 (mulX (fB128.value (accElem s bay c i n)) (f32.value v))) ∧
      (∀ v, c.opc = 0x1B6 → bitsOf c.f.imm 17 13 ∈ accCodes → RowReads s bay c i (128 * size) v → ∃ t, applyRow s bay c i = .ok t ∧
        RowBecomes s t bay c i fun n => accIn c (v / 2 ^ (8 * size * n) % 2 ^ (8 * size))) ∧
      (c.opc = 0x1B4 → bitsOf c.f.imm 17 13 ∈ accCodes → (base + cmdRowAt c i) % 4 = 0 → ∃ t, applyRow s bay c i = .ok t ∧ t.mem = s.mem ∧
        (∀ n < 128, ∀ j < size, (t.bay bay).pad.byte (base + cmdRowAt c i + size * n + j) =
          BitVec.ofNat 8 (accOut c (accElem s bay c i n) / 2 ^ (8 * j))) ∧
        (∀ k < 32 * size, good ((t.bay bay).pad.word (base + cmdRowAt c i + 4 * k)) = true) ∧
        (∀ b a, (b ≠ bay ∨ a < base + cmdRowAt c i ∨ base + cmdRowAt c i + 128 * size ≤ a) →
          (t.bay b).pad.byte a = (s.bay b).pad.byte a) ∧ (t.bay bay).mx.acc = (s.bay bay).mx.acc) ∧
      (∀ t raw (col : Nat → Nat), c.opc = 0x1B2 → applyRow s bay c i = .ok t → RowReads s bay c i 64 raw →
        let p := (s.bay bay).mx.plane
        let fa := (recPair c false).1
        let ka := (recPair c false).2
        let w := procWidth fa
        let old (n : Nat) : Nat := if c.f.mod.getLsbD 2 then 0 else accElem s bay c i n
        procWidth p.fmt = w →
        (integerClass fa ka p.fmt p.kind = true → (∀ n < 128, planeColumn p n = .ok (col n)) →
          RowBecomes s t bay c i fun n => wrapI (sval (old n) 128 + ((List.range (512 / w)).map fun k =>
            elemInt fa (raw / 2 ^ (k * w)) * elemInt p.fmt (col n / 2 ^ (k * w))).sum) 128) ∧
        (∀ set band (b : Nat → List XVal), integerClass fa ka p.fmt p.kind = false →
          readBytes s bay base (scaleAt c false i) (scaleSetBytes fa ka) = .ok set →
          readBytes s bay base (recField c 95 64) (if ka = 1 then 2 else 0) = .ok band →
          (∀ n < 128, planeValues p n = .ok (b n)) →
          let a := rowValues fa ka (flushRow fa (modeDN c.mode) raw) (bytesOf (scaleSetBytes fa ka) set) band
          RowBecomes s t bay c i fun n =>
            let prods := (a.zip (b n)).map fun q => mulX q.1 q.2
            roundFp fB128 .rne 0 (addX .rne (fB128.value (old n))
              (if w ≤ 8 then sumX prods else treeAt prods (if w = 16 then 5 else 4) 0)))) ∧
      (∀ fmt kind row set band k, k < 512 / procWidth fmt → kind < 4 →
        (rowValues fmt kind row set band)[k]? = some (mulX (mulX
          (elemExact fmt kind (row / 2 ^ (k * procWidth fmt) % 2 ^ procWidth fmt)) (scaleOf kind set k))
          (if kind = 1 then fBF.value band else .fin false 1 0))))

/-- R50, R53, R262, R263, R280: the kingpost's events complete: a round that has something to do, a reservation of a
level that is due, the notice of a grid passed over, the retirement of a quiet team and of a finished grid. The
model's choices: a reservation of a bent counts the resources that its four bays lack together (log entry 26, a
reading of R263), a retirement cleans the bay's L1 (log entry 26), and a stalled copy keeps its team busy (log entry
22). -/
def Obligations.Kingpost : Prop :=
  (∀ s, roundNeeded s = true →
    exec .kingpostRound s = .next (rounds (allHeads (launchHandlers s)) [0, 1, 2, 3, 4, 5, 6, 7])) ∧
  (∀ s level gid g, aget s.resv level = none →
    (levelWaiting s level).find? (fun k => (s.grid? k).any fun g => overdue s g.passed) = some gid →
    s.grid? gid = some g → packetField g.packet 112 1 = 1 →
    let f := bentLack s (packetNeed g.packet)
    ∃ u, exec (.reservation level) s = .next { s with resv := aset s.resv level ⟨true, u, g.gid⟩ } ∧ u < 48 ∧
      (∀ v < 48, f u ≤ f v) ∧ ∀ v < u, f u < f v) ∧
  (∀ s level gid g k, aget s.resv level = none →
    (levelWaiting s level).find? (fun k => (s.grid? k).any fun g => overdue s g.passed) = some gid →
    s.grid? gid = some g → packetField g.packet 112 1 = 0 → k < Config.bays → (s.bay k).closed = false →
    let f := lackCount s (packetNeed g.packet)
    ∃ u, exec (.reservation level) s = .next { s with resv := aset s.resv level ⟨false, u, g.gid⟩ } ∧
      u < Config.bays ∧ (s.bay u).closed = false ∧
      ∀ v < Config.bays, (s.bay v).closed = false → f u ≤ f v ∧ (v < u → f u < f v)) ∧
  (∀ s gid g, s.grid? gid = some g → gid ∈ s.devQueue → g.named = false → overdue s g.passed = true →
    exec (.deviceGridPassedOver gid) s = .next ((s.modGrid gid fun h => { h with named := true }).notice g.ctx 0x30
      0 0 0 0 gid 0 0 0 (BitVec.ofNat 64 (g.depth % 32)))) ∧
  (∀ s bay gid tid t, s.team? bay ⟨gid, tid⟩ = some t → t.retired = false → teamBusy s bay t.key = false →
    ∃ u, exec (.teamRetire bay gid tid) s = .next u) ∧
  (∀ s bay gid tid t, s.team? bay ⟨gid, tid⟩ = some t → t.retired = false → teamBusy s bay t.key = false →
    t.clustered = false → exec (.teamRetire bay gid tid) s = .next
      (((removeTeam (freeTeam (s.cleanAll bay) bay t) bay t).modGrid gid fun g =>
        { g with retired := g.retired + 1 }).admission bay)) ∧
  (∀ s gid g, s.grid? gid = some g → g.nteam ≤ g.retired → g.children = 0 → ∃ t, exec (.gridRetire gid) s = .next t)

/-- R272, R273: at the end of an interval of 1,024 misses the tightening grows by 8 up to TMAX when 64 or more
interference events were counted, falls by 8 down to 0 below 16, and stays otherwise; the controller decides anew, so
that no warp changes but one that is admitted. The model's choices (log entry 26): the interval's end is a step later
than its 1,024th miss, so that the misses since then, and the interference among them, already belong to the next
interval. R274: a lease turn ends after 4,096 blocks of a window; with nobody waiting no warp is demoted or stopped,
and a new turn begins. -/
def Obligations.Leases : Prop :=
  (∀ s bay, 1024 ≤ (s.bay bay).misses → ∃ t, exec (.leaseIntervalEnd bay) s = .next t ∧
      (t.bay bay).tight = (if 64 ≤ (s.bay bay).intf then min ((s.bay bay).tight + 8) (s.bay bay).tmax
        else if (s.bay bay).intf < 16 then (s.bay bay).tight - 8 else (s.bay bay).tight) ∧
      (t.bay bay).misses = (s.bay bay).misses - 1024 ∧ (t.bay bay).intf = (s.bay bay).intfNext.headD 0 ∧
      (t.bay bay).intfNext = (s.bay bay).intfNext.drop 1 ∧
      (∀ k x, aget (s.bay bay).warps k = some x → ∃ y, aget (t.bay bay).warps k = some y ∧
        y = { x with active := y.active, demote := y.demote } ∧ (admitted x = true → admitted y = true)) ∧
      (∀ n, n ≠ bay → t.bay n = s.bay n) ∧ t = { s with bays := t.bays }) ∧
  ((∀ s bay win, 4096 ≤ agetD (s.bay bay).turn win 0 → ∃ t, exec (.leaseTurnEnd bay win) s = .next t) ∧
    (∀ s bay win, 4096 ≤ agetD (s.bay bay).turn win 0 →
      ((s.bay bay).waiting.filter fun p => windowOf p.1 = win) = [] →
      ∃ t, exec (.leaseTurnEnd bay win) s = .next t ∧ agetD (t.bay bay).turn win 0 = agetD (s.bay bay).turn win 0 - 4096 ∧
        ∀ k x, aget (s.bay bay).warps k = some x → ∃ y, aget (t.bay bay).warps k = some y ∧
          y = { x with unbroken := y.unbroken }))

/-- R345, R346, R367, R371, R373, R374, R377: the events of a context complete: a miss starts a walk of its page or
joins the one that is on its way; a walk ends with its translation cached or with the fault of each miss that waits on
it and is still there, at most 64 walks being under way; a held record is written, an invalidation is done, a save is
finished, a late safe point is noted. The model's choices (log entry 9): a walk takes two steps, its translation stays
cached until an invalidation, and a miss whose warp no longer needs the walk takes no fault. R363, R370, R371, Table
16.7: what a walk of a given table yields. From a valid root it goes down the entries that the address selects; a leaf
gives the page of 4 KiB that holds the address, in one of 64 KiB by the base and the place in the group, with its
permissions; an access to a local page in DRAM that has them is translated, and one without is the permission fault.
An entry that is listed as poisoned or fails its check is the fault of kind 0x03 with its address, one that is not
valid, or breaks Table 16.7, the fault of kind 0x01 with subcode 0 or 1 and its level; a page outside DRAM gives
subcode 2 and an invalid root 3. -/
def Obligations.ContextEvents : Prop :=
  ((∀ s q, (s.cached q.ctx q.va).isNone → canonical q.va → walkOf s q = none →
      exec (.pageWalk q) s = .next { s with walks := s.walks ++ [⟨q.ctx, q.va.toNat / 4096, [q]⟩] }) ∧
    (∀ s q k, (s.cached q.ctx q.va).isNone → canonical q.va → walkOf s q = some k → q ∉ k.waiting →
      exec (.pageWalk q) s = .next (joinWalk s q)) ∧
    (∀ s q k p r l, (s.cached q.ctx q.va).isNone → canonical q.va → walkOf s q = some k → k ∈ s.walks.take 64 →
      k.waiting = p :: r → q ∈ k.waiting → walk (walkGone s k) k.ctx p.va = .ok l →
      exec (.pageWalk q) s = .next ((walkGone s k).cacheLeaf k.ctx p.va l)) ∧
    (∀ s q k p r f, (s.cached q.ctx q.va).isNone → canonical q.va → walkOf s q = some k → k ∈ s.walks.take 64 →
      k.waiting = p :: r → q ∈ k.waiting → walk (walkGone s k) k.ctx p.va = .error f →
      exec (.pageWalk q) s = .next ((k.waiting.filter (stillWaits (walkGone s k))).foldl (fun t m => walkFault t m f)
        ((walkGone s k).listPoison f))) ∧
    (∀ s c r, heldRecord s c = some r → canWrite s c = true →
      exec (.recordDeferredWrite c) s = .next (writeRecord s r)) ∧
    (∀ s c v rest, (s.ctx c).tlbQueue = v :: rest →
      (∀ p ∈ s.allWarps, s.ctxOf p.1 = c → ∀ b, p.2.blk = some b → holdsOld b (s.ctx c) v = false) →
      loadHoldsOld s c v = false → (∀ p ∈ s.vl.outs, ∀ u ∈ p.2.unacked, s.ctxOf u.warp = c → u.old = false) →
      (∀ m ∈ s.merges, s.ctxOf m.warp ≠ c) →
      exec (.tlbInvalidationDone c) s = .next (startInv (s.modCtx c fun x => { x with tlbQueue := rest }) c)) ∧
    (∀ s c, (s.ctx c).saving = true → ((stoppedTeams s c).all fun p => teamQuiet s p.1 p.2) = true →
      ∃ t, exec (.ctxSaveDone c) s = .next t ∧ (t.ctx c).done = true ∧ (t.ctx c).saving = false) ∧
    (∀ s c w n, (s.ctx c).safeReq = true → (s.ctx c).safeLate = false → (s.ctx c).safeLim ≠ 0 →
      (w, n) ∈ (s.ctx c).safeCounts → (s.ctx c).safeLim * 256 < n →
      exec (.safeLate c) s = .next (s.modCtx c fun x => { x with safeLate := true }))) ∧
  (∀ (s : State) (c : Nat) (va : Double),
      let root := (s.ctx c).root
      (root.getLsbD 0 = false → ∃ f, walk s c va = .error f ∧ f.kind = 0x01 ∧ f.sub = 3) ∧
      (∀ n p, root.getLsbD 0 = true → Selects s va.toNat 4 (field root 51 12 * 4096) n p →
        (∀ q, s.poisoned.find? (·.pa == p) = some q → ∃ f, walk s c va = .error f ∧ f.kind = 0x03 ∧ f.pa = p ∧
          f.bad = some q.bad) ∧
        ((∀ q ∈ s.poisoned, q.pa ≠ p) → good (s.mem.word p) = false ∨ good (s.mem.word (p + 4)) = false →
          ∃ f, walk s c va = .error f ∧ f.kind = 0x03 ∧ f.pa = p ∧
            f.bad = some (if good (s.mem.word p) = false then s.mem.word p else s.mem.word (p + 4))) ∧
        (∀ e, EntryIs s p e → e.getLsbD 0 = false →
          ∃ f, walk s c va = .error f ∧ f.kind = 0x01 ∧ f.sub = 0 ∧ f.level = n) ∧
        (∀ e, EntryIs s p e → e.getLsbD 0 = true → ¬ TableEntry e n → ¬ LeafEntry e n →
          ∃ f, walk s c va = .error f ∧ f.kind = 0x01 ∧ f.sub = 1 ∧ f.level = n) ∧
        (∀ e, EntryIs s p e → LeafEntry e n →
          let base := pageOfLeaf e n va.toNat
          (e.getLsbD 6 = false → Config.dramBytes < base + 4096 →
            ∃ f, walk s c va = .error f ∧ f.kind = 0x01 ∧ f.sub = 2) ∧
          (e.getLsbD 6 = true ∨ base + 4096 ≤ Config.dramBytes →
            ∃ l, walk s c va = .ok l ∧ l.base = base ∧ l.perm = e.extractLsb' 3 3 ∧ l.rem = e.getLsbD 6 ∧
              l.peer = field e 63 52) ∧
          (∀ acc, e.getLsbD 6 = false → base + 4096 ≤ Config.dramBytes → s.cached c va = none →
            (permits e acc = true → s.translate c va (accNeed acc) = .ok (.phys (base + va.toNat % 4096))) ∧
            (permits e acc = false → ∃ f, s.translate c va (accNeed acc) = .error f ∧ f.kind = 0x02)))))

/-- R10, R390, R396, R399, R400, R401, R403, R406: the events of service and repair complete: a report that was asked
for, a component switch, which of the bays' microcode happens bay by bay, each where no block of it runs, a line of a
drift, the end of a bank's 2^24 accesses, after which a bank over the threshold is dropped, a bay whose count is due.
When the last component has switched, the service registers without "(kept)" have their reset values; no grid, queue,
record or context is lost. The model's choices: that moment, and bays that switch one after another (log entry 30);
the end of a bank's interval asks nothing of the state, since an input counts the accesses (log entry 11). -/
def Obligations.ServiceEvents : Prop :=
  (∀ s, s.fw.attBusy = true → ∃ t, exec .attReportDone s = .next t ∧ t.fw.attBusy = false ∧ t.fw.attDone = true) ∧
  (∀ s c svn d rest, s.fw.fwTodo = (c, svn, d) :: rest → (c = 2 → ∀ b ∈ s.fw.fwUnits, bayBusy s b = false) →
    ∃ t, exec .fwComponentSwitch s = .next t ∧ t.fw.fwTodo = rest ∧ aget t.fw.svns c = some svn ∧
      (rest = [] → t.fw.fwBusy = false ∧ t.fw.fwDone = true ∧ t.poisoned = [] ∧ t.power.err = false ∧
        (∀ st, (t.sill st).total = 0) ∧ t.grids = s.grids ∧ t.queues = s.queues ∧ t.recs = s.recs ∧ t.ctxs = s.ctxs ∧
        ∀ w, t.warp? w = s.warp? w)) ∧
  (∀ s svn d rest, s.fw.fwTodo = (2, svn, d) :: rest →
    let left := s.fw.fwUnits.filter (bayBusy s)
    left ≠ [] → left ≠ s.fw.fwUnits →
    exec .fwComponentSwitch s = .next { s with fw := { s.fw with fwUnits := left } }) ∧
  (∀ s st, (s.sill st).act = true → (s.sill st).ptr + 1 < regionLines (s.sill st).reg →
    exec (.driftLineMove st) s = .next (s.modSill st fun y => { y with ptr := y.ptr + 1 })) ∧
  (∀ s st b, let u : State := s.modSill st fun y =>
        { y with corr := adel y.corr b, ends := aset y.ends b (agetD y.ends b 0 + 1) }
      exec (.bankCountInterval st b) s =
        .next (if s.rel.autoD = true ∧ s.rel.thr < agetD (s.sill st).corr b 0 then dropBank u st b else u)) ∧
  (∀ s b, s.rel.autoB = true → (s.bay b).closed = false → b < Config.bays → retireDue (s.bay b) = true →
    exec (.autoBayRetire b) s = .next (askRetire s b))

/-- R9, R352: a BAR0 write completes in the row of the register that it hits, whichever of the twenty rows that is; a
write that hits none has no effect or an answer. -/
def Obligations.RegisterWritesComplete : Prop :=
  (∀ s r h i, writeAsk s r = .one h → rowOf s r h = i → ∃ t, exec i s = .next t) ∧
  (∀ s r, writeAsk s r = .bad → exec (.registerWrite r) s = .next (s.reply .unsupported)) ∧
  (∀ s r, writeAsk s r = .ignored → exec (.registerWrite r) s = .next s) ∧
  (∀ s r h, writeAsk s r = .one h → rowOf s r h = .registerWrite r → exec (.registerWrite r) s = .next (putReg s h))

/-- R345, R346, R353, R369, R374, R376, R399, R407: what the writes of RESUME, TLB_INV, POIS_CLR, SAFE_CTL, KPQ_BASE,
KPQ_CTX, SILL_DROP and SNAP_CTL do. The model's choices: ARM clears VALID (log entry 30), and a new REQ clears LATE
(log entry 28). -/
def Obligations.RegisterWriteEffects : Prop :=
  ∀ s r h i t, writeAsk s r = .one h → registerEffect s r h = some (i, t) → exec i s = .next t

/-- R354: a doorbell write of t is accepted when neither t − HEAD nor t − TAIL, mod 2^32, exceeds 2^SIZE, whatever EN
is: TAIL becomes t. A refused one leaves TAIL, sets ERR, clears EN and sends a record to the driver. -/
def Obligations.Doorbell : Prop :=
  ∀ (s : State) (r : RegWrite) (h : RegHit) (k : Nat), writeAsk s r = .one h → h.reg = .kpqTail k →
    let t := vword h
    let q := s.queue k
    ((t.toNat + (2 ^ 32 - q.head.toNat)) % 2 ^ 32 ≤ 2 ^ q.size ∧ (t.toNat + (2 ^ 32 - q.tail.toNat)) % 2 ^ 32 ≤ 2 ^ q.size →
      exec (.queueDoorbell r) s = .next (s.modQueue k fun x => { x with tail := t })) ∧
    (¬ ((t.toNat + (2 ^ 32 - q.head.toNat)) % 2 ^ 32 ≤ 2 ^ q.size ∧
        (t.toNat + (2 ^ 32 - q.tail.toNat)) % 2 ^ 32 ≤ 2 ^ q.size) →
      ∃ u : State, exec (.queueDoorbell r) s = .next (u.notice q.ctx 0x21 0 0 0 0 0 0 (BitVec.ofNat 64 k) 0 (t.setWidth 64)) ∧
        u.queue k = { q with err := true, en := false } ∧ u = { s with queues := u.queues })

/-- R395: a write of PWR_LIMIT or PWR_DOM that would make CAP[4] + CAP[5] + Σ FLOOR[0..3] exceed LIM changes no field,
sets ERR and raises vector 2; an accepted one sets its fields and leaves the grants of the interval as they are; and
the worked example's grants come out. -/
def Obligations.PowerWrites : Prop :=
  ∀ (s : State) (r : RegWrite) (h : RegHit) (p : Power), writeAsk s r = .one h → powerWrite s.power h = some p →
    (p.lim < powerCap p 4 + powerCap p 5 + (powerFloor p 0 + powerFloor p 1 + powerFloor p 2 + powerFloor p 3) →
      exec (.powerRegisterWrite r) s = .next (({ s with power := { s.power with err := true } } : State).raise 2)) ∧
    (powerCap p 4 + powerCap p 5 + (powerFloor p 0 + powerFloor p 1 + powerFloor p 2 + powerFloor p 3) ≤ p.lim →
      exec (.powerRegisterWrite r) s = .next { s with power := p } ∧ p.grant = s.power.grant) ∧
    domainGrants { Power.reset with lim := 2000 } [400, 400, 300, 100, 550, 480] = [290, 290, 290, 100, 550, 480]

/-- R393, R394: the grants of an interval: the ridge and memory get the least of request and CAP; no core die gets
more than the least of its request and CAP, nor less than its floor within that; the dies together get what is left at
most. POWER_INTERVAL completes whenever an interval of 4,096 nominal clocks is over: it gives those grants, and the
next interval ends 4,096 clocks later; DRAW, the mean over a window, does not exceed LIM. That the draw is even within
an interval, so that a window of 3 × 10^6 clocks is 732 intervals and a part of one more, and that the arbiter draws
nothing until that mean is within a LIM that was lowered, are the model's choices (log entry 17). -/
def Obligations.PowerGrants : Prop :=
  (∀ s d, s.power.next ≤ s.now → ∃ t, exec (.powerInterval d) s = .next t ∧
    t.power.grant = ((domainGrants s.power d.req).zipIdx.map fun p => (p.2, p.1)) ∧
    t.power.next = s.power.next + 4096 ∧ t.mem = s.mem ∧ (∀ w, t.warp? w = s.warp? w) ∧
    t.power.draw = windowDraw t.power.draws / windowClocks ∧ t.power.draws.tail = s.power.draws.take 732 ∧
    (windowDraw (0 :: s.power.draws) ≤ windowClocks * s.power.lim → t.power.draw ≤ s.power.lim)) ∧
  (∀ (p : Power) (req : List Nat), powerCap p 4 + powerCap p 5 + (powerFloor p 0 + powerFloor p 1 + powerFloor p 2 +
      powerFloor p 3) ≤ p.lim →
    ∃ a b c d, domainGrants p req = [a, b, c, d, min (req[4]?.getD 0) (powerCap p 4), min (req[5]?.getD 0) (powerCap p 5)] ∧
      (∀ i g, [a, b, c, d][i]? = some g → g ≤ min (req[i]?.getD 0) (powerCap p i) ∧
        min (min (req[i]?.getD 0) (powerCap p i)) (powerFloor p i) ≤ g) ∧
      a + b + c + d ≤ p.lim - min (req[4]?.getD 0) (powerCap p 4) - min (req[5]?.getD 0) (powerCap p 5))

/-- R10, R251, R254, R333, R350, R384, R389, R399, R405, R407: every input of the outside world that is no BAR0 write
completes in every state. That it completes also where its unit is in no state for it, without effect then, is the
model's choice (log entry 1). R251, R364: what a write with a sequence number does at the receiver. One below the
expected number is acknowledged again and not performed. One above it is held while fewer than 64 are, unless it is
held already, and otherwise discarded, unacknowledged. The expected one is performed at its home inside the window,
and acknowledged, and a held one that is then in sequence follows. -/
def Obligations.OutsideInputsComplete : Prop :=
  (∀ (i : Instr) (s : State), isOutside i = true → ∃ t, exec i s = .next t) ∧
  (∀ (s : State) (m : VolingWrite),
      let x := agetD s.vl.ins (m.src * 4096 + m.stream) ⟨0, []⟩
      let at_ (t : State) : VolingIn := agetD t.vl.ins (m.src * 4096 + m.stream) ⟨0, []⟩
      (m.seq < x.expected → exec (.volingWriteReceive m) s =
        .next { s with vl := { s.vl with acks := s.vl.acks ++ [(m.src, m.stream, m.seq)] } }) ∧
      (x.expected < m.seq → (∃ h ∈ x.held, h.seq = m.seq) ∨ 64 ≤ x.held.length →
        exec (.volingWriteReceive m) s = .next s) ∧
      (x.expected < m.seq → (∀ h ∈ x.held, h.seq ≠ m.seq) → x.held.length < 64 →
        ∃ t, exec (.volingWriteReceive m) s = .next t ∧ at_ t = ⟨x.expected, x.held ++ [m]⟩ ∧ t.mem = s.mem ∧
          t.vl.acks = s.vl.acks) ∧
      (m.seq = x.expected → (∀ h ∈ x.held, h.seq ≠ (x.expected + 1) % 2 ^ 48) →
        ∃ t, exec (.volingWriteReceive m) s = .next t ∧ at_ t = ⟨(x.expected + 1) % 2 ^ 48, x.held⟩ ∧
          t.vl.acks = s.vl.acks ++ [(m.src, m.stream, m.seq)] ∧
          (m.addr + m.len ≤ s.vl.winSize → rangePopulated (s.vl.winBase + m.addr) m.len = true → m.len % 4 = 0 →
            (s.vl.winBase + m.addr) % 4 = 0 → m.words.length = m.len / 4 →
            ∀ i v, m.words[i]? = some v → t.mem.word (s.vl.winBase + m.addr + 4 * i) = v)) ∧
      (∀ n, m.seq = x.expected → x.held = [n] → n.seq = (x.expected + 1) % 2 ^ 48 →
        ∃ t, exec (.volingWriteReceive m) s = .next t ∧ at_ t = ⟨(n.seq + 1) % 2 ^ 48, []⟩ ∧
          t.vl.acks = s.vl.acks ++ [(m.src, m.stream, m.seq), (n.src, n.stream, n.seq)]))

/-- R253, R350: a whole word that the host writes through BAR2 stands at its home with a fresh code; no other byte of
device memory changes. R134, R245: the release of a word store of one lane into the scratchpad writes the word with a
fresh code at the location that it resolved, and no other byte of any memory. R1, R229, R253: a word written at an
aligned address is read back with its code, every byte outside it is as it was, and the memory keeps its canonical
form. R24, R136, R137, R230, Table 5.4: an atomic operation on words that pass their checks answers the old value,
writes the new one with fresh codes at its home and no other word there; a bad old word is answered and nothing is
written; lanes of an `ATOM` follow one another; and a `RED` leaves the same new value. That bytes which the bay's own
L1 holds dirty go home first, their line marked stale, is the model's choice (log entry 22). -/
def Obligations.StoredWords : Prop :=
  (∀ (s : State) (ofs : Nat) (a b c d : Byte), (s.bar2 + ofs) % 4 = 0 → rangePopulated (s.bar2 + ofs) 4 = true →
      ∃ t, exec (.bar2Write ofs [a, b, c, d]) s = .next t ∧ t.mem.word (s.bar2 + ofs) = fresh (d ++ c ++ b ++ a) ∧
        ∀ k, (k < s.bar2 + ofs ∨ s.bar2 + ofs + 4 ≤ k) → t.mem.byte k = s.mem.byte k) ∧
  (∀ (s : State) (w : WarpId) (b : Blk) (f : FmtM) (k n bay o : Nat) (h : HeldLane), bitsOf f.mod 3 0 = 2 →
      f.space ≠ 0 → f.order = 0 → h.loc = some (.pad bay o) → o % 4 = 0 → s.storeHeld (.pad bay o) = false →
      ∃ t, releaseSt s w b f ⟨k, n, [h]⟩ = some t ∧ (t.bay bay).pad.word o = fresh (wordAt h.b 0) ∧ t.mem = s.mem ∧
        ∀ m a, (m ≠ bay ∨ a < o ∨ o + 4 ≤ a) → (t.bay m).pad.byte a = (s.bay m).pad.byte a) ∧
  (∀ (m : Memory) (a k : Nat) (v : W40), a % 4 = 0 → k % 4 = 0 → m.wf = true →
      (m.setWord a v).word a = v ∧ (k ≠ a → (m.setWord a v).word k = m.word k) ∧ (m.setWord a v).wf = true ∧
      ∀ j, (j < a ∨ a + 4 ≤ j) → (m.setWord a v).byte j = m.byte j) ∧
  (∀ (r : AtomRow) (s : State) (w : WarpId) (ty space n : Nat) (l : Loc) (v c : Nat), typeWidth ty = 32 * n → n ≠ 0 →
      l.align = l → (∀ p a, l ≠ .remote p a) →
      let ls := valueLocs space n l
      let s1 := (homeOld s w l ls).1
      let old := ls.map s1.homeWord
      let new (o : Tok) (v c : Nat) : Tok := tokOf n (r.value (typeSigned ty) (32 * n) (tokVal o) v c)
      v < 2 ^ (32 * n) → c < 2 ^ (32 * n) →
      (old.all good = true → ∃ u, performAtomic s w (atomOp r.atomOpc) ty space l v c = .ok (u, old) ∧
        ls.map u.homeWord = new old v c ∧ ∀ q, q.align = q → q ∉ ls → u.homeWord q = s1.homeWord q) ∧
      (∀ i x, old[i]? = some x → good x = false → (∀ j < i, ∀ y, old[j]? = some y → good y = true) →
        performAtomic s w (atomOp r.atomOpc) ty space l v c = .error (i, x)) ∧
      (∀ bay o (p q : HeldLane), l = .pad bay o → old.all good = true → tokVal p.b = v → tokVal p.c = c →
        tokVal q.b < 2 ^ (32 * n) → tokVal q.c < 2 ^ (32 * n) →
        ∃ u, atomLanes s w (atomOp r.atomOpc) ty space [(p, l), (q, l)] [] = .ok (u, [(p.lane, old), (q.lane, new old v c)]) ∧
          ls.map u.homeWord = new (new old v c) (tokVal q.b) (tokVal q.c)) ∧
      (∀ opc (f : FmtM) (h : HeldOp) (p : HeldLane), r.redOpc = some opc → f.mod.toNat = ty → f.space.toNat = space →
        f.order = 0 → h.lanes = [p] → p.loc = some l → tokVal p.b = v → tokVal p.c = c → old.all good = true →
        (ls.any s.storeHeld) = false →
        ∃ u, releaseRed s w opc f h = some u ∧ ls.map u.homeWord = new old v c))

/-- R139, R140: an update of a barrier record in a scratchpad adds to OUT and ARR; when then ARR reaches EXP and OUT
is 0 the phase completes: GEN grows by 1 and ARR is 0. -/
def Obligations.BarrierUpdates : Prop :=
  ∀ (s : State) (bay pb o : Nat) (gen exp arr out dout : Word) (n : Nat), o % 16 = 0 →
    s.homeWords (.pad pb o) 4 = [fresh gen, fresh exp, fresh arr, fresh out] →
    ∃ t, updateRecord s bay (.pad pb o) dout n = .ok t ∧
      t.homeWords (.pad pb o) 4 =
        (if exp.toNat ≤ (arr + BitVec.ofNat 32 n).toNat ∧ out + dout = 0 then
          [fresh (gen + 1), fresh exp, fresh 0, fresh 0]
         else [fresh gen, fresh exp, fresh (arr + BitVec.ofNat 32 n), fresh (out + dout)]) ∧ t.mem = s.mem

/-- R385, Tables 9.3, 15.2, 15.3, 17.7: after reset device memory and every scratchpad read as zero, no queue is
enabled, the caps and floors of power have their reset values, and so have the registers of the kingpost and of the
leases. R10, R386, R401: a warm reset keeps device memory, the links' streams and each bay's lease settings and
physical place; it leaves no grid, no warp and no register of a warp, and BOOT_STAT at its reset value, 0 (Table
17.2). All of it but the last is the model's reading (log entry 30). -/
def Obligations.ResetValues : Prop :=
  ((∀ a, State.reset.mem.byte a = 0) ∧ (∀ b a, (State.reset.bay b).pad.byte a = 0) ∧
    (∀ q, (State.reset.queue q).en = false) ∧ (∀ w, State.reset.warp? w = none) ∧
    (∀ d, powerCap State.reset.power d = if d ≤ 3 then 2400 else if d = 4 then 600 else 500) ∧
    (∀ d, powerFloor State.reset.power d = if d ≤ 3 then 100 else 0) ∧
    (∀ b, (State.reset.bay b).cap = 128 ∧ (State.reset.bay b).tmax = 64 ∧ (State.reset.bay b).tight = 0) ∧
    State.reset.resvInt = 64 ∧ State.reset.bfill = true ∧ State.reset.bar2 = 0 ∧ State.reset.poisoned = []) ∧
  (∀ s, ∃ t, exec .warmReset s = .next t ∧ t.mem = s.mem ∧ t.vl = s.vl ∧ t.grids = [] ∧ t.ctxs = [] ∧
      (∀ w, t.warp? w = none) ∧ t.fw.phase = 0 ∧ t.fw.fail = 0 ∧ t.fw.failComp = 0 ∧ t.fw.svn = 0 ∧
      ∀ b x, aget s.bays b = some x →
        (t.bay b).cap = x.cap ∧ (t.bay b).tmax = x.tmax ∧ (t.bay b).phys = x.phys)

/-- R21, R392: over 12 nominal clocks a bay at step f counts 12 − f of its own, one that the model does not list and
that stands at step 0 counts every clock since the cold reset, and clocks that pass in two parts pass as they do in
one. That an unlisted bay counts from the cold reset is the model's choice (log entry 16). -/
def Obligations.ClocksPass : Prop :=
  (∀ s m b x, aget s.bays b = some x → x.frac < 12 →
    ((tick (12 * m) s).bay b).clk = x.clk + m * (12 - x.fstep) ∧ ((tick (12 * m) s).bay b).frac = x.frac) ∧
  (∀ s n b, aget s.bays b = none → ((tick n s).bay b).clk = s.now + n - s.coldAt) ∧
  (∀ s m n, tick n (tick m s) = tick (m + n) s)

/-- Words written out from the encodings of R79 to R81 and Table 7.2 decode to the instructions they stand for. -/
def Obligations.SpecWordsDecode : Prop :=
  decodeNode 0x0001_C07F_F000_0000 = .ok (.add ⟨0, 1, 0x301, 0x3FF, 0, 0⟩) ∧
  decodeNode 0xE02E_0000_0000_F001 = .ok (.trap ⟨1, 1, 0xF001⟩) ∧
  decodeNode 0x9002_0100_0000_0000 = .ok (.ld ⟨0, 2, 4, 0, 0, 0, 0, 0, 0, 0⟩) ∧
  decodeNode 0xD900_FFC0_0100_1000 = .ok (.mms ⟨0, 0, 0x3FF, 0, 1, 0x1000⟩) ∧
  decodeNode 0xFA80_0000_0000_0000 = .ok (.esc 5 ⟨0, 0, 0, 0, 0, 0⟩) ∧
  decodeNode 0x1B00_0000_0000_0000 = .error .unassignedOpc

/-- R35, R83, R277: when the oldest block of a window has a ready node, and its first ready node k needs no walk, a
step whose turn is that window's issue runs exactly the instruction that the node's word decodes to; likewise a slot
of an element. The power interval is not due, which would come first. The model's choices: whose turn it is comes from
the agenda (log entry 2), and a power interval that is due comes first (log entry 17). -/
def Obligations.StepRunsTheDecodedInstruction : Prop :=
  (∀ s n bay win r key x b rest k i u, s.agenda = (n, .issue bay win) :: r → NoIntervalDue (turned s n r) →
    firedNow ((turned s n r).bay bay) win = false →
    issueOrder ((turned s n r).bay bay) win = (key, x, b) :: rest →
    k < (hdr b.words).n → (∀ j, j < k → mayFireNode b j = false) → mayFireNode b k = true →
    nodeWalk (turned s n r) (warpIdOf bay key) x b k = none → decodeNode (nodeWord b.words k) = .ok i →
    exec i ((turned s n r).firing (warpIdOf bay key) k) = .next u → step s = .next u) ∧
  (∀ s n e r k i u, s.agenda = (n, .elem e) :: r → NoIntervalDue (turned s n r) → k < 16 →
    (∀ j, j < k → ∀ v, execSlot e j (turned s n r) ≠ .next v) →
    decodeElem ((((turned s n r).bay e.bay).elem e.row e.col).slotWord
      (((turned s n r).bay e.bay).elem e.row e.col).act k) = .ok i →
    exec i { turned s n r with cur := .elem e } = .next u → step s = .next u)

/-- R5, R352, R393: a step whose turn is another agent's runs the first of that agent's rows that completes; the
outside world's turn performs the oldest input, in the row of its register; a power interval that is due comes first,
whoever's turn it is; a step of an agent with nothing to do only passes its clocks; and every step goes on. The
model's choices: the order of the agents, the oldest input first, every step going on (log entries 1 and 2), and the
power interval first (log entry 17). -/
def Obligations.StepRunsTheAgentsRow : Prop :=
  (∀ s n a i rest r u, s.agenda = (n, a) :: r → NoIntervalDue (turned s n r) → a ≠ .env →
    agentWork (turned s n r) a = .instr i :: rest → exec i (turned s n r) = .next u → step s = .next u) ∧
  (∀ s n i j rest r u, s.agenda = (n, .env) :: r → NoIntervalDue (turned s n r) → (turned s n r).inbox = i :: rest →
    inputRow { turned s n r with inbox := rest } i = some j → exec j { turned s n r with inbox := rest } = .next u →
    step s = .next u) ∧
  (∀ s i j rest u, s.agenda = [] → NoIntervalDue (tick 1 s) → s.inbox = i :: rest →
    inputRow { tick 1 s with inbox := rest } i = some j →
    exec j { tick 1 s with inbox := rest } = .next u → step s = .next u) ∧
  (∀ s n a r u, s.agenda = (n, a) :: r → (turned s n r).power.next ≤ (turned s n r).now →
    exec (.powerInterval (demandNow (turned s n r))) (turned s n r) = .next u → step s = .next u) ∧
  (∀ s n a r, s.agenda = (n, a) :: r → act (turned s n r) a = none → step s = .next (turned s n r)) ∧
  (∀ s, Goes s)

/-- R78 to R82, R220 (decode and encode agree): the word of every well-formed instruction, with every field at every
value that its encoding admits, decodes to that instruction. -/
def Obligations.DecodeOfEncodeIsIdentity : Prop :=
  ∀ i : Instr, i.wf = true → ∀ n w, encode i = some (n, w) → decodeTableWord n w = some i

/-- R78 to R82, R220: a word that decodes is the word of the instruction that it decodes to: no two words mean the
same instruction, and no bit of a word is ignored. -/
def Obligations.EncodeOfDecodeIsIdentity : Prop :=
  (∀ w i, decodeNode w = .ok i → encodeNode i = some w) ∧ (∀ w i, decodeElem w = .ok i → encodeElem i = some w)

/-- The model's memories are in canonical form after reset (notes/assumptions/19.md). -/
def Obligations.CanonicalAtReset : Prop := Canonical State.reset

/-- Every step keeps every memory of the model in canonical form (notes/assumptions/19.md): keys rise, and nothing is
listed that an unlisted address reads as. -/
def Obligations.StepKeepsCanonical : Prop := ∀ s t, Canonical s → step s = .next t → Canonical t
end

