-- ==== Sys2Proof/Laws/Store.lean ====
section
/-! SUPPORT. The laws of finite maps and memories: a read after a write, writes elsewhere, and the canonical form that
every memory operation keeps. -/

namespace Sys2Proof.Machine

/-! ## Finite maps -/

theorem aget_aset_same {α : Type} (m : Assoc α) (k : Nat) (v : α) : aget (aset m k v) k = some v := by
  induction m with
  | nil => simp [aset, aget]
  | cons p r ih =>
    obtain ⟨j, u⟩ := p
    simp only [aset]
    split
    · simp [aget]
    · split
      · simp [aget]
      · simp [aget, *]

theorem aget_aset_other {α : Type} (m : Assoc α) (k j : Nat) (v : α) (h : j ≠ k) :
    aget (aset m k v) j = aget m j := by
  induction m with
  | nil => simp [aset, aget, Ne.symm h]
  | cons p r ih =>
    obtain ⟨i, u⟩ := p
    simp only [aset]
    split
    · simp [aget, Ne.symm h]
    · split
      · subst_vars; simp [aget, Ne.symm h]
      · simp [aget, ih]

theorem aget_adel_same {α : Type} (m : Assoc α) (k : Nat) : aget (adel m k) k = none := by
  induction m with
  | nil => rfl
  | cons p r ih =>
    obtain ⟨i, u⟩ := p
    by_cases h : i = k
    · subst h; simpa [adel] using ih
    · simpa [adel, aget, h] using ih

theorem aget_adel_other {α : Type} (m : Assoc α) (k j : Nat) (h : j ≠ k) : aget (adel m k) j = aget m j := by
  induction m with
  | nil => rfl
  | cons p r ih =>
    obtain ⟨i, u⟩ := p
    by_cases hi : i = k
    · subst hi
      have : ¬ i = j := fun e => h e.symm
      simpa [adel, aget, this] using ih
    · by_cases hj : i = j
      · subst hj; simp [adel, aget, hi]
      · simpa [adel, aget, hi, hj] using ih

/-- A map set to a value reads that value there and what it read before elsewhere. -/
theorem agetD_aset {α : Type} (m : Assoc α) (k j : Nat) (d v : α) :
    agetD (aset m k v) j d = if j = k then v else agetD m j d := by
  unfold agetD
  split
  · subst_vars; rw [aget_aset_same]; rfl
  · rw [aget_aset_other _ _ _ _ ‹_›]

/-- The same for `aput`, which lists no default. -/
theorem agetD_aput {α : Type} [DecidableEq α] (m : Assoc α) (k j : Nat) (d v : α) :
    agetD (aput m k d v) j d = if j = k then v else agetD m j d := by
  unfold aput
  split
  · subst_vars
    unfold agetD
    split
    · subst_vars; rw [aget_adel_same]; rfl
    · rw [aget_adel_other _ _ _ ‹_›]
  · exact agetD_aset m k j d v

/-- `amod` reads the rewritten value at its key. -/
theorem agetD_amod {α : Type} (m : Assoc α) (k j : Nat) (d : α) (f : α → α) :
    agetD (amod m k d f) j d = if j = k then f (agetD m k d) else agetD m j d := agetD_aset _ _ _ _ _

/-! ## Rising keys -/

theorem risingFrom_mono {α : Type} {j k : Nat} {m : Assoc α} (h : j ≤ k) (hm : risingFrom k m = true) :
    risingFrom j m = true := by
  cases m with
  | nil => rfl
  | cons p r =>
    simp only [risingFrom, Bool.and_eq_true, decide_eq_true_eq] at hm ⊢
    exact ⟨by omega, hm.2⟩

theorem risingFrom_filter {α : Type} (p : Nat × α → Bool) {k : Nat} {m : Assoc α} (hm : risingFrom k m = true) :
    risingFrom k (m.filter p) = true := by
  induction m generalizing k with
  | nil => rfl
  | cons q r ih =>
    simp only [risingFrom, Bool.and_eq_true, decide_eq_true_eq] at hm
    rw [List.filter_cons]
    split
    · simpa [risingFrom, hm.1] using ih hm.2
    · exact risingFrom_mono (by omega) (ih hm.2)

theorem risingFrom_aset {α : Type} {k n : Nat} {m : Assoc α} (v : α) (h : k ≤ n) (hm : risingFrom k m = true) :
    risingFrom k (aset m n v) = true := by
  induction m generalizing k with
  | nil => simp [aset, risingFrom, h]
  | cons q r ih =>
    obtain ⟨j, u⟩ := q
    simp only [risingFrom, Bool.and_eq_true, decide_eq_true_eq] at hm
    simp only [aset]
    split
    · simp only [risingFrom, Bool.and_eq_true, decide_eq_true_eq]; exact ⟨h, by omega, hm.2⟩
    · split
      · subst_vars; simp [risingFrom, hm.1, hm.2]
      · simp only [risingFrom, Bool.and_eq_true, decide_eq_true_eq]; exact ⟨hm.1, ih (by omega) hm.2⟩

theorem risingFrom_aput {α : Type} [DecidableEq α] {n : Nat} {m : Assoc α} (d v : α) (hm : risingFrom 0 m = true) :
    risingFrom 0 (aput m n d v) = true := by
  unfold aput
  split
  · exact risingFrom_filter _ hm
  · exact risingFrom_aset v (Nat.zero_le _) hm

theorem mem_aset {α : Type} {m : Assoc α} {k : Nat} {v : α} {p : Nat × α} (h : p ∈ aset m k v) : p ∈ m ∨ p = (k, v) := by
  induction m with
  | nil => simp [aset] at h; exact .inr h
  | cons q r ih =>
    obtain ⟨j, u⟩ := q
    simp only [aset] at h
    split at h
    · rcases List.mem_cons.1 h with h | h
      · exact .inr h
      · exact .inl h
    · split at h
      · rcases List.mem_cons.1 h with h | h
        · exact .inr h
        · exact .inl (List.mem_cons_of_mem _ h)
      · rcases List.mem_cons.1 h with h | h
        · exact .inl (h ▸ List.mem_cons_self ..)
        · exact (ih h).imp (List.mem_cons_of_mem _) id

theorem all_aput {n : Nat} {m : List Host.Cell} (v : Byte) (hm : m.all (fun p => p.2 != 0) = true) :
    (aput m n 0 v).all (fun p => p.2 != 0) = true := by
  unfold aput
  split
  · rw [List.all_eq_true] at hm ⊢
    intro p hp
    exact hm p (List.mem_filter.1 hp).1
  · rw [List.all_eq_true] at hm ⊢
    intro p hp
    rcases mem_aset hp with h | h
    · exact hm p h
    · subst h; simpa using ‹¬ v = 0›

theorem risingNats_mono {j k : Nat} {m : List Nat} (h : j ≤ k) (hm : risingNats k m = true) : risingNats j m = true := by
  cases m with
  | nil => rfl
  | cons p r =>
    simp only [risingNats, Bool.and_eq_true, decide_eq_true_eq] at hm ⊢
    exact ⟨by omega, hm.2⟩

theorem risingNats_filter (p : Nat → Bool) {k : Nat} {m : List Nat} (hm : risingNats k m = true) :
    risingNats k (m.filter p) = true := by
  induction m generalizing k with
  | nil => rfl
  | cons q r ih =>
    simp only [risingNats, Bool.and_eq_true, decide_eq_true_eq] at hm
    rw [List.filter_cons]
    split
    · simpa [risingNats, hm.1] using ih hm.2
    · exact risingNats_mono (by omega) (ih hm.2)

theorem risingNats_insert {k n : Nat} {m : List Nat} (h : k ≤ n) (hm : risingNats k m = true) (hn : n ∉ m) :
    risingNats k (Memory.setWord.insertNat n m) = true := by
  induction m generalizing k with
  | nil => simp [Memory.setWord.insertNat, risingNats, h]
  | cons q r ih =>
    simp only [risingNats, Bool.and_eq_true, decide_eq_true_eq] at hm
    simp only [Memory.setWord.insertNat]
    simp only [List.mem_cons, not_or] at hn
    split
    · simp only [risingNats, Bool.and_eq_true, decide_eq_true_eq]; exact ⟨h, by omega, hm.2⟩
    · simp only [risingNats, Bool.and_eq_true, decide_eq_true_eq]; exact ⟨hm.1, ih (by omega) hm.2 hn.2⟩

theorem mem_insertNat {n j : Nat} {m : List Nat} : j ∈ Memory.setWord.insertNat n m ↔ j = n ∨ j ∈ m := by
  induction m with
  | nil => simp [Memory.setWord.insertNat]
  | cons q r ih =>
    simp only [Memory.setWord.insertNat]
    split
    · simp
    · simp only [List.mem_cons, ih]; exact or_left_comm

/-! ## The canonical form of a memory -/

theorem wf_parts {m : Memory} : m.wf = true ↔ (risingFrom 0 m.bytes = true ∧ m.bytes.all (fun p => p.2 != 0) = true) ∧
    (risingFrom 0 m.codes = true ∧ m.codes.all (fun p => p.2 != 0) = true) ∧ risingNats 0 m.poison = true := by
  simp only [Memory.wf, Bool.and_eq_true, and_assoc]

theorem empty_wf : Memory.empty.wf = true := rfl

theorem setByte_wf {m : Memory} (a : Nat) (b : Byte) (h : m.wf = true) : (m.setByte a b).wf = true := by
  rw [wf_parts] at h ⊢
  exact ⟨⟨risingFrom_aput _ _ h.1.1, all_aput _ h.1.2⟩, h.2⟩

/-- A word written leaves the memory in canonical form. -/
theorem setWord_wf {m : Memory} (a : Nat) (w : W40) (h : m.wf = true) : (m.setWord a w).wf = true := by
  have h4 := setByte_wf (a + 3) (w.v.extractLsb' 24 8) (setByte_wf (a + 2) (w.v.extractLsb' 16 8)
    (setByte_wf (a + 1) (w.v.extractLsb' 8 8) (setByte_wf a (w.v.extractLsb' 0 8) h)))
  rw [wf_parts] at h4
  rw [wf_parts]
  refine ⟨h4.1, ⟨risingFrom_aput _ _ h4.2.1.1, all_aput _ h4.2.1.2⟩, ?_⟩
  simp only [Memory.setWord]
  split
  · split
    · exact h4.2.2
    · rename_i hc
      exact risingNats_insert (Nat.zero_le _) h4.2.2 (by simpa using hc)
  · exact risingNats_filter _ h4.2.2

/-- Words written leave the memory in canonical form. -/
theorem setWords_wf {m : Memory} (a : Nat) (ws : List W40) (h : m.wf = true) : (m.setWords a ws).wf = true := by
  induction ws generalizing m a with
  | nil => exact h
  | cons w r ih => exact ih _ (setWord_wf a w h)

/-- A range zeroed leaves the memory in canonical form. -/
theorem clear_wf {m : Memory} (lo hi : Nat) (h : m.wf = true) : (m.clear lo hi).wf = true := by
  rw [wf_parts] at h ⊢
  refine ⟨⟨risingFrom_filter _ h.1.1, ?_⟩, ⟨risingFrom_filter _ h.2.1.1, ?_⟩, risingNats_filter _ h.2.2⟩
  · have := h.1.2
    rw [List.all_eq_true] at this ⊢
    exact fun p hp => this p (List.mem_filter.1 hp).1
  · have := h.2.1.2
    rw [List.all_eq_true] at this ⊢
    exact fun p hp => this p (List.mem_filter.1 hp).1

/-! ## Reads after writes -/

theorem byte_setByte (m : Memory) (a c : Nat) (b : Byte) : (m.setByte a b).byte c = if c = a then b else m.byte c :=
  agetD_aput _ _ _ _ _

theorem byte_setWord (m : Memory) (a c : Nat) (w : W40) :
    (m.setWord a w).byte c =
      if c = a + 3 then w.v.extractLsb' 24 8 else if c = a + 2 then w.v.extractLsb' 16 8
      else if c = a + 1 then w.v.extractLsb' 8 8 else if c = a then w.v.extractLsb' 0 8 else m.byte c := by
  have : (m.setWord a w).byte c = ((((m.setByte a (w.v.extractLsb' 0 8)).setByte (a + 1)
    (w.v.extractLsb' 8 8)).setByte (a + 2) (w.v.extractLsb' 16 8)).setByte (a + 3) (w.v.extractLsb' 24 8)).byte c := rfl
  rw [this]
  simp only [byte_setByte]

/-- A write of a word leaves every byte outside it alone. -/
theorem byte_setWord_other (m : Memory) (a c : Nat) (w : W40) (h : c < a ∨ a + 4 ≤ c) :
    (m.setWord a w).byte c = m.byte c := by
  rw [byte_setWord]
  rw [if_neg (by omega), if_neg (by omega), if_neg (by omega), if_neg (by omega)]

theorem bytes_of_word (v : Word) :
    v.extractLsb' 24 8 ++ v.extractLsb' 16 8 ++ v.extractLsb' 8 8 ++ v.extractLsb' 0 8 = v := by
  ext i hi
  simp only [BitVec.getElem_append, BitVec.getElem_extractLsb']
  have e : ∀ j, j = i → v.getLsbD j = v[i] := by intro j hj; subst hj; simp [BitVec.getLsbD_eq_getElem hi]
  split
  · exact e _ (by omega)
  · split
    · exact e _ (by omega)
    · split
      · exact e _ (by omega)
      · exact e _ (by omega)

/-- A word read after it was written is the word that was written, with its code and mark. -/
theorem word_setWord (m : Memory) (a : Nat) (w : W40) : (m.setWord a w).word a = w := by
  have hc : (m.setWord a w).code a = w.c := by
    simp only [Memory.code, Memory.setWord]
    rw [agetD_aput, if_pos rfl]
  have hp : (m.setWord a w).poison.contains (a / 4) = w.p := by
    simp only [Memory.setWord]
    cases hw : w.p
    · simp [List.mem_filter]
    · simp only [if_true]
      split
      · assumption
      · simp [mem_insertNat]
  simp only [Memory.word, hc, hp, byte_setWord]
  simp [bytes_of_word]

end Sys2Proof.Machine
end

