-- ==== Sys2Proof/Laws/Access.lean ====
section
/-! SUPPORT. Bays, warps and blocks read after they are written. -/

namespace Sys2Proof.Machine

/-- A bay read after a bay is replaced. -/
theorem bay_setBay (s : State) (b c : Nat) (x : Bay) : (s.setBay b x).bay c = if c = b then x else s.bay c :=
  agetD_aset _ _ _ _ _

theorem bay_modBay (s : State) (b c : Nat) (f : Bay → Bay) :
    (s.modBay b f).bay c = if c = b then f (s.bay b) else s.bay c := bay_setBay _ _ _ _

/-- The warp that was written is there. -/
theorem warp_setWarp_same (s : State) (w : WarpId) (x : Warp) : (s.setWarp w x).warp? w = some x := by
  simp only [State.warp?, State.setWarp, bay_modBay, if_true, aget_aset_same]

/-- Every other warp is as it was. -/
theorem warp_setWarp_other (s : State) (w v : WarpId) (x : Warp) (h : v.bay ≠ w.bay ∨ wkey v ≠ wkey w) :
    (s.setWarp w x).warp? v = s.warp? v := by
  simp only [State.warp?, State.setWarp, bay_modBay]
  split
  · rename_i hb
    rw [aget_aset_other _ _ _ _ (h.resolve_left (fun n => n hb)), hb]
  · rfl

/-- A bay's fields other than its warps after a warp is replaced. -/
theorem bay_setWarp (s : State) (w : WarpId) (x : Warp) (c : Nat) :
    (s.setWarp w x).bay c =
      if c = w.bay then { s.bay w.bay with warps := aset (s.bay w.bay).warps (wkey w) x } else s.bay c :=
  bay_modBay _ _ _ _

theorem modWarp_some {s : State} {w : WarpId} {x : Warp} (h : s.warp? w = some x) (f : Warp → Warp) :
    s.modWarp w f = s.setWarp w (f x) := by
  simp only [State.modWarp, h]

theorem modWarp_none {s : State} {w : WarpId} (h : s.warp? w = none) (f : Warp → Warp) : s.modWarp w f = s := by
  simp only [State.modWarp, h]

theorem putBlk_some {s : State} {w : WarpId} {x : Warp} (h : s.warp? w = some x) (b : Blk) :
    s.putBlk w b = s.setWarp w { x with blk := some b } := modWarp_some h _

/-- The block that was put is there, and nothing else of the warp changed. -/
theorem warp_putBlk {s : State} {w : WarpId} {x : Warp} (h : s.warp? w = some x) (b : Blk) :
    (s.putBlk w b).warp? w = some { x with blk := some b } := by
  rw [putBlk_some h, warp_setWarp_same]

/-- Putting a block changes no bay but its warps. -/
theorem pad_putBlk (s : State) (w : WarpId) (b : Blk) (c : Nat) : ((s.putBlk w b).bay c).pad = (s.bay c).pad := by
  unfold State.putBlk State.modWarp
  split
  · rw [bay_setWarp]; split <;> simp [*]
  · rfl

theorem mem_putBlk (s : State) (w : WarpId) (b : Blk) : (s.putBlk w b).mem = s.mem := by
  unfold State.putBlk State.modWarp
  split <;> rfl

/-- Dropping a clean copy at an address changes nothing of a bay but its L1. -/
theorem warps_dropCleanAt (b : Bay) (pa : Nat) : (b.dropCleanAt pa).warps = b.warps := by
  unfold Bay.dropCleanAt
  split
  · split <;> rfl
  · rfl

/-- Dropping a clean copy touches no warp, no record and no home: only the L1 of the warp's bay (R258). -/
theorem dropClean_frame (s : State) (w v : WarpId) (i : WordIdent) :
    (dropClean s w i).warp? v = s.warp? v ∧ (dropClean s w i).recs = s.recs ∧ (dropClean s w i).mem = s.mem := by
  unfold dropClean
  split
  · split
    · refine ⟨?_, rfl, rfl⟩
      simp only [State.warp?, bay_modBay]
      split
      · rename_i h
        rw [h, warps_dropCleanAt]
      · rfl
    · exact ⟨rfl, rfl, rfl⟩
  · exact ⟨rfl, rfl, rfl⟩

/-- The same of a served check-code fault (R309). -/
theorem dropRepaired_frame (s : State) (w v : WarpId) (r : Record) :
    (dropRepaired s w r).warp? v = s.warp? v ∧ (dropRepaired s w r).recs = s.recs ∧
      (dropRepaired s w r).mem = s.mem := by
  unfold dropRepaired
  split
  · exact dropClean_frame ..
  · exact ⟨rfl, rfl, rfl⟩
end Sys2Proof.Machine
end

