-- ==== Sys2Proof/Laws/Encoding.lean ====
section
/-! SUPPORT. The fields of a packed word are the fields that were packed (Tables 3.10 and 7.2). -/

namespace Sys2Proof

theorem opc_pack (opc : BitVec 9) (f : NodeFmt) : (packNode opc f).extractLsb' 55 9 = opc := by
  cases f <;>
  · apply BitVec.eq_of_getLsbD_eq
    intro i hi
    simp only [packNode, BitVec.getLsbD_extractLsb', BitVec.getLsbD_setWidth, BitVec.getLsbD_append, hi, decide_true,
      Bool.true_and]
    have h64 : 55 + i < 64 := by omega
    simp only [h64, decide_true, Bool.true_and]
    repeat rw [if_neg (by omega)]
    exact congrArg _ (by omega)

/-- A field of an appended word, bit by bit: the bound of the field, then the pieces below it skipped. -/
theorem unpackA_pack (opc : BitVec 9) (f : FmtA) : unpackA (packNode opc (.a f)) = f := by
  obtain ⟨p, m, t0, t1, l, e⟩ := f
  simp only [unpackA, packNode, FmtA.mk.injEq]
  refine ⟨?_, ?_, ?_, ?_, ?_, ?_⟩ <;>
  · apply BitVec.eq_of_getLsbD_eq
    intro i hi
    simp only [BitVec.getLsbD_extractLsb', BitVec.getLsbD_setWidth, BitVec.getLsbD_append, hi, decide_true,
      Bool.true_and]
    rw [decide_eq_true (by omega), Bool.true_and]
    repeat (first | rw [if_neg (by omega)] | rw [if_pos (by omega)])
    congr 1; omega

theorem unpackI_pack (opc : BitVec 9) (f : FmtI) : unpackI (packNode opc (.i f)) = f := by
  obtain ⟨p, m, t0, t1, l, e⟩ := f
  simp only [unpackI, packNode, FmtI.mk.injEq]
  refine ⟨?_, ?_, ?_, ?_, ?_, ?_⟩ <;>
  · apply BitVec.eq_of_getLsbD_eq
    intro i hi
    simp only [BitVec.getLsbD_extractLsb', BitVec.getLsbD_setWidth, BitVec.getLsbD_append, hi, decide_true,
      Bool.true_and]
    rw [decide_eq_true (by omega), Bool.true_and]
    repeat (first | rw [if_neg (by omega)] | rw [if_pos (by omega)])
    congr 1; omega

theorem unpackK_pack (opc : BitVec 9) (f : FmtK) : unpackK (packNode opc (.k f)) = f := by
  obtain ⟨p, m, t0, l, e⟩ := f
  simp only [unpackK, packNode, FmtK.mk.injEq]
  refine ⟨?_, ?_, ?_, ?_, ?_⟩ <;>
  · apply BitVec.eq_of_getLsbD_eq
    intro i hi
    simp only [BitVec.getLsbD_extractLsb', BitVec.getLsbD_setWidth, BitVec.getLsbD_append, hi, decide_true,
      Bool.true_and]
    rw [decide_eq_true (by omega), Bool.true_and]
    repeat (first | rw [if_neg (by omega)] | rw [if_pos (by omega)])
    congr 1; omega

theorem unpackM_pack (opc : BitVec 9) (f : FmtM) : unpackM (packNode opc (.m f)) = f := by
  obtain ⟨p, m, t0, ls, sp, o, sc, c, l, ofs⟩ := f
  simp only [unpackM, packNode, FmtM.mk.injEq]
  refine ⟨?_, ?_, ?_, ?_, ?_, ?_, ?_, ?_, ?_, ?_⟩ <;>
  · apply BitVec.eq_of_getLsbD_eq
    intro i hi
    simp only [BitVec.getLsbD_extractLsb', BitVec.getLsbD_setWidth, BitVec.getLsbD_append, hi, decide_true,
      Bool.true_and]
    rw [decide_eq_true (by omega), Bool.true_and]
    repeat (first | rw [if_neg (by omega)] | rw [if_pos (by omega)])
    congr 1; omega

theorem unpackX_pack (opc : BitVec 9) (k : BitVec 3) (f : FmtX) :
    unpackX (packNode opc (.x k f)) = f ∧ (packNode opc (.x k f)).extractLsb' 48 3 = k := by
  obtain ⟨p, e, o⟩ := f
  simp only [unpackX, packNode, FmtX.mk.injEq]
  refine ⟨⟨?_, ?_, ?_⟩, ?_⟩ <;>
  · apply BitVec.eq_of_getLsbD_eq
    intro i hi
    simp only [BitVec.getLsbD_extractLsb', BitVec.getLsbD_setWidth, BitVec.getLsbD_append, hi, decide_true,
      Bool.true_and]
    rw [decide_eq_true (by omega), Bool.true_and]
    repeat (first | rw [if_neg (by omega)] | rw [if_pos (by omega)])
    congr 1; omega

theorem unpackE_pack (opc : BitVec 9) (f : FmtE) : unpackE (packNode opc (.e f)) = f := by
  obtain ⟨p, m, t0, ls, r, e⟩ := f
  simp only [unpackE, packNode, FmtE.mk.injEq]
  refine ⟨?_, ?_, ?_, ?_, ?_, ?_⟩ <;>
  · apply BitVec.eq_of_getLsbD_eq
    intro i hi
    simp only [BitVec.getLsbD_extractLsb', BitVec.getLsbD_setWidth, BitVec.getLsbD_append, hi, decide_true,
      Bool.true_and]
    rw [decide_eq_true (by omega), Bool.true_and]
    repeat (first | rw [if_neg (by omega)] | rw [if_pos (by omega)])
    congr 1; omega

theorem unpackElem_pack (op : BitVec 5) (x : ElemWord) : unpackElem (packElem op x) = x ∧
    (packElem op x).extractLsb' 63 5 = op ∧ (packElem op x).extractLsb' 0 12 = 0 := by
  obtain ⟨a, b, c, d, e, f, g, h, i, j, k, l, m⟩ := x
  simp only [unpackElem, packElem, ElemWord.mk.injEq]
  refine ⟨⟨?_, ?_, ?_, ?_, ?_, ?_, ?_, ?_, ?_, ?_, ?_, ?_, ?_⟩, ?_, ?_⟩ <;>
  · apply BitVec.eq_of_getLsbD_eq
    intro i hi
    simp only [BitVec.getLsbD_extractLsb', BitVec.getLsbD_setWidth, BitVec.getLsbD_append, hi, decide_true,
      Bool.true_and]
    rw [decide_eq_true (by omega), Bool.true_and]
    repeat (first | rw [if_neg (by omega)] | rw [if_pos (by omega)])
    congr 1; omega

end Sys2Proof
end

