-- ==== Sys2Proof/Laws/Exec.lean ====
section
/-! SUPPORT. The meaning that each instruction runs: `exec` on a constructor is one direct call, true by unfolding its
arm. A proof about an instruction starts from the lemma of its constructor and never unfolds `exec`. -/

namespace Sys2Proof.Machine

theorem exec_blockDispatch w s : exec (Instr.blockDispatch w) s = execBlockDispatch w s := rfl
theorem exec_captureComplete w s : exec (Instr.captureComplete w) s = execCaptureComplete w s := rfl
theorem exec_blockCommit w s : exec (Instr.blockCommit w) s = execBlockCommit w s := rfl
theorem exec_subwordMerge s : exec (Instr.subwordMerge) s = execSubwordMerge s := rfl
theorem exec_homeCheckFailure s : exec (Instr.homeCheckFailure) s = execHomeCheckFailure s := rfl
theorem exec_engineError w s : exec (Instr.engineError w) s = execEngineError w s := rfl
theorem exec_preemptBlockTimeout w s : exec (Instr.preemptBlockTimeout w) s = execPreemptBlockTimeout w s := rfl
theorem exec_waitanyWake w s : exec (Instr.waitanyWake w) s = execWaitanyWake w s := rfl
theorem exec_waitaddrWake w s : exec (Instr.waitaddrWake w) s = execWaitaddrWake w s := rfl
theorem exec_exportReturn p s : exec (Instr.exportReturn p) s = execExportReturn p s := rfl
theorem exec_teamRetire bay gid tid s : exec (Instr.teamRetire bay gid tid) s = execTeamRetire bay gid tid s := rfl
theorem exec_gridRetire gid s : exec (Instr.gridRetire gid) s = execGridRetire gid s := rfl
theorem exec_kingpostRound s : exec (Instr.kingpostRound) s = execKingpostRound s := rfl
theorem exec_reservation level s : exec (Instr.reservation level) s = execReservation level s := rfl
theorem exec_deviceGridPassedOver gid s : exec (Instr.deviceGridPassedOver gid) s = execDeviceGridPassedOver gid s := rfl
theorem exec_leaseTurnEnd bay window s : exec (Instr.leaseTurnEnd bay window) s = execLeaseTurnEnd bay window s := rfl
theorem exec_leaseIntervalEnd bay s : exec (Instr.leaseIntervalEnd bay) s = execLeaseIntervalEnd bay s := rfl
theorem exec_copyRequestStart bay s : exec (Instr.copyRequestStart bay) s = execCopyRequestStart bay s := rfl
theorem exec_copyChunkLand c s : exec (Instr.copyChunkLand c) s = execCopyChunkLand c s := rfl
theorem exec_copyCompletion c s : exec (Instr.copyCompletion c) s = execCopyCompletion c s := rfl
theorem exec_matrixRowGroupComplete bay s : exec (Instr.matrixRowGroupComplete bay) s = execMatrixRowGroupComplete bay s := rfl
theorem exec_portLoadRequest p s : exec (Instr.portLoadRequest p) s = execPortLoadRequest p s := rfl
theorem exec_portLoadReply p s : exec (Instr.portLoadReply p) s = execPortLoadReply p s := rfl
theorem exec_sinkDequeue p s : exec (Instr.sinkDequeue p) s = execSinkDequeue p s := rfl
theorem exec_sinkRecheck p s : exec (Instr.sinkRecheck p) s = execSinkRecheck p s := rfl
theorem exec_streamInWord p s : exec (Instr.streamInWord p) s = execStreamInWord p s := rfl
theorem exec_streamOutWord p s : exec (Instr.streamOutWord p) s = execStreamOutWord p s := rfl
theorem exec_quiescenceScan bay region s : exec (Instr.quiescenceScan bay region) s = execQuiescenceScan bay region s := rfl
theorem exec_trussImageLoad bay region s : exec (Instr.trussImageLoad bay region) s = execTrussImageLoad bay region s := rfl
theorem exec_configPacketDeliver bay region s : exec (Instr.configPacketDeliver bay region) s = execConfigPacketDeliver bay region s := rfl
theorem exec_pageWalk q s : exec (Instr.pageWalk q) s = execPageWalk q s := rfl
theorem exec_recordDeferredWrite ctx s : exec (Instr.recordDeferredWrite ctx) s = execRecordDeferredWrite ctx s := rfl
theorem exec_resumeWrite r s : exec (Instr.resumeWrite r) s = execResumeWrite r s := rfl
theorem exec_tlbInvWrite r s : exec (Instr.tlbInvWrite r) s = execTlbInvWrite r s := rfl
theorem exec_tlbInvalidationDone ctx s : exec (Instr.tlbInvalidationDone ctx) s = execTlbInvalidationDone ctx s := rfl
theorem exec_poisClrEntry r s : exec (Instr.poisClrEntry r) s = execPoisClrEntry r s := rfl
theorem exec_poisClrAll r s : exec (Instr.poisClrAll r) s = execPoisClrAll r s := rfl
theorem exec_ctxSave r s : exec (Instr.ctxSave r) s = execCtxSave r s := rfl
theorem exec_ctxSaveDone ctx s : exec (Instr.ctxSaveDone ctx) s = execCtxSaveDone ctx s := rfl
theorem exec_ctxRestore r s : exec (Instr.ctxRestore r) s = execCtxRestore r s := rfl
theorem exec_brkallWrite r s : exec (Instr.brkallWrite r) s = execBrkallWrite r s := rfl
theorem exec_dbgStepWrite r s : exec (Instr.dbgStepWrite r) s = execDbgStepWrite r s := rfl
theorem exec_safeStopRequest r s : exec (Instr.safeStopRequest r) s = execSafeStopRequest r s := rfl
theorem exec_safeRelease r s : exec (Instr.safeRelease r) s = execSafeRelease r s := rfl
theorem exec_safeLate ctx s : exec (Instr.safeLate ctx) s = execSafeLate ctx s := rfl
theorem exec_queueDoorbell r s : exec (Instr.queueDoorbell r) s = execQueueDoorbell r s := rfl
theorem exec_queueSchedWrite r s : exec (Instr.queueSchedWrite r) s = execQueueSchedWrite r s := rfl
theorem exec_queueConfigWrite r s : exec (Instr.queueConfigWrite r) s = execQueueConfigWrite r s := rfl
theorem exec_registerWrite r s : exec (Instr.registerWrite r) s = execRegisterWrite r s := rfl
theorem exec_bar2Write ofs data s : exec (Instr.bar2Write ofs data) s = execBar2Write ofs data s := rfl
theorem exec_bar2Read ofs n s : exec (Instr.bar2Read ofs n) s = execBar2Read ofs n s := rfl
theorem exec_volingWriteReceive m s : exec (Instr.volingWriteReceive m) s = execVolingWriteReceive m s := rfl
theorem exec_volingAckReceive peer stream seq outside s : exec (Instr.volingAckReceive peer stream seq outside) s = execVolingAckReceive peer stream seq outside s := rfl
theorem exec_volingLinkFailure peer stream s : exec (Instr.volingLinkFailure peer stream) s = execVolingLinkFailure peer stream s := rfl
theorem exec_coldReset s : exec (Instr.coldReset) s = execColdReset s := rfl
theorem exec_warmReset s : exec (Instr.warmReset) s = execWarmReset s := rfl
theorem exec_attRequest r s : exec (Instr.attRequest r) s = execAttRequest r s := rfl
theorem exec_attReportDone s : exec (Instr.attReportDone) s = execAttReportDone s := rfl
theorem exec_powerInterval d s : exec (Instr.powerInterval d) s = execPowerInterval d s := rfl
theorem exec_powerRegisterWrite r s : exec (Instr.powerRegisterWrite r) s = execPowerRegisterWrite r s := rfl
theorem exec_bankCountInterval stack bank s : exec (Instr.bankCountInterval stack bank) s = execBankCountInterval stack bank s := rfl
theorem exec_sillDropWrite r s : exec (Instr.sillDropWrite r) s = execSillDropWrite r s := rfl
theorem exec_driftLineMove stack s : exec (Instr.driftLineMove stack) s = execDriftLineMove stack s := rfl
theorem exec_bayRetireWrite r s : exec (Instr.bayRetireWrite r) s = execBayRetireWrite r s := rfl
theorem exec_autoBayRetire bay s : exec (Instr.autoBayRetire bay) s = execAutoBayRetire bay s := rfl
theorem exec_linkLaneReplace l s : exec (Instr.linkLaneReplace l) s = execLinkLaneReplace l s := rfl
theorem exec_fwUpdWrite r s : exec (Instr.fwUpdWrite r) s = execFwUpdWrite r s := rfl
theorem exec_fwComponentSwitch s : exec (Instr.fwComponentSwitch) s = execFwComponentSwitch s := rfl
theorem exec_mgmtSnapTrigger s : exec (Instr.mgmtSnapTrigger) s = execMgmtSnapTrigger s := rfl
theorem exec_snapArmWrite r s : exec (Instr.snapArmWrite r) s = execSnapArmWrite r s := rfl
theorem exec_moduleLoad ctx base s : exec (Instr.moduleLoad ctx base) s = execModuleLoad ctx base s := rfl
theorem exec_handlerTranslate t s : exec (Instr.handlerTranslate t) s = execHandlerTranslate t s := rfl
theorem exec_add f s : exec (Instr.add f) s = execAdd f s := rfl
theorem exec_sub f s : exec (Instr.sub f) s = execSub f s := rfl
theorem exec_addsat f s : exec (Instr.addsat f) s = execAddsat f s := rfl
theorem exec_subsat f s : exec (Instr.subsat f) s = execSubsat f s := rfl
theorem exec_mul f s : exec (Instr.mul f) s = execMul f s := rfl
theorem exec_mulhi f s : exec (Instr.mulhi f) s = execMulhi f s := rfl
theorem exec_mad f s : exec (Instr.mad f) s = execMad f s := rfl
theorem exec_madhi f s : exec (Instr.madhi f) s = execMadhi f s := rfl
theorem exec_div f s : exec (Instr.div f) s = execDiv f s := rfl
theorem exec_rem f s : exec (Instr.rem f) s = execRem f s := rfl
theorem exec_min f s : exec (Instr.min f) s = execMin f s := rfl
theorem exec_max f s : exec (Instr.max f) s = execMax f s := rfl
theorem exec_sad f s : exec (Instr.sad f) s = execSad f s := rfl
theorem exec_lea f s : exec (Instr.lea f) s = execLea f s := rfl
theorem exec_neg f s : exec (Instr.neg f) s = execNeg f s := rfl
theorem exec_abs f s : exec (Instr.abs f) s = execAbs f s := rfl
theorem exec_and f s : exec (Instr.and f) s = execAnd f s := rfl
theorem exec_or f s : exec (Instr.or f) s = execOr f s := rfl
theorem exec_xor f s : exec (Instr.xor f) s = execXor f s := rfl
theorem exec_andn f s : exec (Instr.andn f) s = execAndn f s := rfl
theorem exec_orn f s : exec (Instr.orn f) s = execOrn f s := rfl
theorem exec_not f s : exec (Instr.not f) s = execNot f s := rfl
theorem exec_shl f s : exec (Instr.shl f) s = execShl f s := rfl
theorem exec_shr f s : exec (Instr.shr f) s = execShr f s := rfl
theorem exec_sar f s : exec (Instr.sar f) s = execSar f s := rfl
theorem exec_rol f s : exec (Instr.rol f) s = execRol f s := rfl
theorem exec_ror f s : exec (Instr.ror f) s = execRor f s := rfl
theorem exec_fshl f s : exec (Instr.fshl f) s = execFshl f s := rfl
theorem exec_popc f s : exec (Instr.popc f) s = execPopc f s := rfl
theorem exec_clz f s : exec (Instr.clz f) s = execClz f s := rfl
theorem exec_ctz f s : exec (Instr.ctz f) s = execCtz f s := rfl
theorem exec_brev f s : exec (Instr.brev f) s = execBrev f s := rfl
theorem exec_bfe f s : exec (Instr.bfe f) s = execBfe f s := rfl
theorem exec_bfi f s : exec (Instr.bfi f) s = execBfi f s := rfl
theorem exec_prmt f s : exec (Instr.prmt f) s = execPrmt f s := rfl
theorem exec_tst f s : exec (Instr.tst f) s = execTst f s := rfl
theorem exec_cmpEq f s : exec (Instr.cmpEq f) s = execCmpEq f s := rfl
theorem exec_cmpNe f s : exec (Instr.cmpNe f) s = execCmpNe f s := rfl
theorem exec_cmpLt f s : exec (Instr.cmpLt f) s = execCmpLt f s := rfl
theorem exec_cmpLe f s : exec (Instr.cmpLe f) s = execCmpLe f s := rfl
theorem exec_cmpGt f s : exec (Instr.cmpGt f) s = execCmpGt f s := rfl
theorem exec_cmpGe f s : exec (Instr.cmpGe f) s = execCmpGe f s := rfl
theorem exec_sel f s : exec (Instr.sel f) s = execSel f s := rfl
theorem exec_pand f s : exec (Instr.pand f) s = execPand f s := rfl
theorem exec_por f s : exec (Instr.por f) s = execPor f s := rfl
theorem exec_pxor f s : exec (Instr.pxor f) s = execPxor f s := rfl
theorem exec_pnot f s : exec (Instr.pnot f) s = execPnot f s := rfl
theorem exec_mov f s : exec (Instr.mov f) s = execMov f s := rfl
theorem exec_mov4 f s : exec (Instr.mov4 f) s = execMov4 f s := rfl
theorem exec_null f s : exec (Instr.null f) s = execNull f s := rfl
theorem exec_srd f s : exec (Instr.srd f) s = execSrd f s := rfl
theorem exec_swr f s : exec (Instr.swr f) s = execSwr f s := rfl
theorem exec_movi f s : exec (Instr.movi f) s = execMovi f s := rfl
theorem exec_movhi f s : exec (Instr.movhi f) s = execMovhi f s := rfl
theorem exec_addI f s : exec (Instr.addI f) s = execAddI f s := rfl
theorem exec_subI f s : exec (Instr.subI f) s = execSubI f s := rfl
theorem exec_addsatI f s : exec (Instr.addsatI f) s = execAddsatI f s := rfl
theorem exec_subsatI f s : exec (Instr.subsatI f) s = execSubsatI f s := rfl
theorem exec_mulI f s : exec (Instr.mulI f) s = execMulI f s := rfl
theorem exec_mulhiI f s : exec (Instr.mulhiI f) s = execMulhiI f s := rfl
theorem exec_madI f s : exec (Instr.madI f) s = execMadI f s := rfl
theorem exec_madhiI f s : exec (Instr.madhiI f) s = execMadhiI f s := rfl
theorem exec_divI f s : exec (Instr.divI f) s = execDivI f s := rfl
theorem exec_remI f s : exec (Instr.remI f) s = execRemI f s := rfl
theorem exec_minI f s : exec (Instr.minI f) s = execMinI f s := rfl
theorem exec_maxI f s : exec (Instr.maxI f) s = execMaxI f s := rfl
theorem exec_sadI f s : exec (Instr.sadI f) s = execSadI f s := rfl
theorem exec_leaI f s : exec (Instr.leaI f) s = execLeaI f s := rfl
theorem exec_andI f s : exec (Instr.andI f) s = execAndI f s := rfl
theorem exec_orI f s : exec (Instr.orI f) s = execOrI f s := rfl
theorem exec_xorI f s : exec (Instr.xorI f) s = execXorI f s := rfl
theorem exec_andnI f s : exec (Instr.andnI f) s = execAndnI f s := rfl
theorem exec_ornI f s : exec (Instr.ornI f) s = execOrnI f s := rfl
theorem exec_shlI f s : exec (Instr.shlI f) s = execShlI f s := rfl
theorem exec_shrI f s : exec (Instr.shrI f) s = execShrI f s := rfl
theorem exec_sarI f s : exec (Instr.sarI f) s = execSarI f s := rfl
theorem exec_rolI f s : exec (Instr.rolI f) s = execRolI f s := rfl
theorem exec_rorI f s : exec (Instr.rorI f) s = execRorI f s := rfl
theorem exec_fshlI f s : exec (Instr.fshlI f) s = execFshlI f s := rfl
theorem exec_bfeI f s : exec (Instr.bfeI f) s = execBfeI f s := rfl
theorem exec_bfiI f s : exec (Instr.bfiI f) s = execBfiI f s := rfl
theorem exec_prmtI f s : exec (Instr.prmtI f) s = execPrmtI f s := rfl
theorem exec_tstI f s : exec (Instr.tstI f) s = execTstI f s := rfl
theorem exec_cmpEqI f s : exec (Instr.cmpEqI f) s = execCmpEqI f s := rfl
theorem exec_cmpNeI f s : exec (Instr.cmpNeI f) s = execCmpNeI f s := rfl
theorem exec_cmpLtI f s : exec (Instr.cmpLtI f) s = execCmpLtI f s := rfl
theorem exec_cmpLeI f s : exec (Instr.cmpLeI f) s = execCmpLeI f s := rfl
theorem exec_cmpGtI f s : exec (Instr.cmpGtI f) s = execCmpGtI f s := rfl
theorem exec_cmpGeI f s : exec (Instr.cmpGeI f) s = execCmpGeI f s := rfl
theorem exec_selI f s : exec (Instr.selI f) s = execSelI f s := rfl
theorem exec_fadd f s : exec (Instr.fadd f) s = execFadd f s := rfl
theorem exec_fsub f s : exec (Instr.fsub f) s = execFsub f s := rfl
theorem exec_fmul f s : exec (Instr.fmul f) s = execFmul f s := rfl
theorem exec_ffma f s : exec (Instr.ffma f) s = execFfma f s := rfl
theorem exec_fmin f s : exec (Instr.fmin f) s = execFmin f s := rfl
theorem exec_fmax f s : exec (Instr.fmax f) s = execFmax f s := rfl
theorem exec_fclass f s : exec (Instr.fclass f) s = execFclass f s := rfl
theorem exec_frcp f s : exec (Instr.frcp f) s = execFrcp f s := rfl
theorem exec_frsq f s : exec (Instr.frsq f) s = execFrsq f s := rfl
theorem exec_fsqrt f s : exec (Instr.fsqrt f) s = execFsqrt f s := rfl
theorem exec_fdiv f s : exec (Instr.fdiv f) s = execFdiv f s := rfl
theorem exec_fexp2 f s : exec (Instr.fexp2 f) s = execFexp2 f s := rfl
theorem exec_flog2 f s : exec (Instr.flog2 f) s = execFlog2 f s := rfl
theorem exec_fsin f s : exec (Instr.fsin f) s = execFsin f s := rfl
theorem exec_fcos f s : exec (Instr.fcos f) s = execFcos f s := rfl
theorem exec_ftanh f s : exec (Instr.ftanh f) s = execFtanh f s := rfl
theorem exec_fcmpEq f s : exec (Instr.fcmpEq f) s = execFcmpEq f s := rfl
theorem exec_fcmpNe f s : exec (Instr.fcmpNe f) s = execFcmpNe f s := rfl
theorem exec_fcmpLt f s : exec (Instr.fcmpLt f) s = execFcmpLt f s := rfl
theorem exec_fcmpLe f s : exec (Instr.fcmpLe f) s = execFcmpLe f s := rfl
theorem exec_fcmpGt f s : exec (Instr.fcmpGt f) s = execFcmpGt f s := rfl
theorem exec_fcmpGe f s : exec (Instr.fcmpGe f) s = execFcmpGe f s := rfl
theorem exec_dadd f s : exec (Instr.dadd f) s = execDadd f s := rfl
theorem exec_dmul f s : exec (Instr.dmul f) s = execDmul f s := rfl
theorem exec_dfma f s : exec (Instr.dfma f) s = execDfma f s := rfl
theorem exec_dmin f s : exec (Instr.dmin f) s = execDmin f s := rfl
theorem exec_dmax f s : exec (Instr.dmax f) s = execDmax f s := rfl
theorem exec_ddiv f s : exec (Instr.ddiv f) s = execDdiv f s := rfl
theorem exec_dsqrt f s : exec (Instr.dsqrt f) s = execDsqrt f s := rfl
theorem exec_dcmpEq f s : exec (Instr.dcmpEq f) s = execDcmpEq f s := rfl
theorem exec_dcmpNe f s : exec (Instr.dcmpNe f) s = execDcmpNe f s := rfl
theorem exec_dcmpLt f s : exec (Instr.dcmpLt f) s = execDcmpLt f s := rfl
theorem exec_dcmpLe f s : exec (Instr.dcmpLe f) s = execDcmpLe f s := rfl
theorem exec_dcmpGt f s : exec (Instr.dcmpGt f) s = execDcmpGt f s := rfl
theorem exec_dcmpGe f s : exec (Instr.dcmpGe f) s = execDcmpGe f s := rfl
theorem exec_hadd2 f s : exec (Instr.hadd2 f) s = execHadd2 f s := rfl
theorem exec_hmul2 f s : exec (Instr.hmul2 f) s = execHmul2 f s := rfl
theorem exec_hfma2 f s : exec (Instr.hfma2 f) s = execHfma2 f s := rfl
theorem exec_hmin2 f s : exec (Instr.hmin2 f) s = execHmin2 f s := rfl
theorem exec_hmax2 f s : exec (Instr.hmax2 f) s = execHmax2 f s := rfl
theorem exec_hcmp2Eq f s : exec (Instr.hcmp2Eq f) s = execHcmp2Eq f s := rfl
theorem exec_hcmp2Ne f s : exec (Instr.hcmp2Ne f) s = execHcmp2Ne f s := rfl
theorem exec_hcmp2Lt f s : exec (Instr.hcmp2Lt f) s = execHcmp2Lt f s := rfl
theorem exec_hcmp2Le f s : exec (Instr.hcmp2Le f) s = execHcmp2Le f s := rfl
theorem exec_hcmp2Gt f s : exec (Instr.hcmp2Gt f) s = execHcmp2Gt f s := rfl
theorem exec_hcmp2Ge f s : exec (Instr.hcmp2Ge f) s = execHcmp2Ge f s := rfl
theorem exec_cvt f s : exec (Instr.cvt f) s = execCvt f s := rfl
theorem exec_cvtpk f s : exec (Instr.cvtpk f) s = execCvtpk f s := rfl
theorem exec_cvtsc f s : exec (Instr.cvtsc f) s = execCvtsc f s := rfl
theorem exec_shflIdx f s : exec (Instr.shflIdx f) s = execShflIdx f s := rfl
theorem exec_shflUp f s : exec (Instr.shflUp f) s = execShflUp f s := rfl
theorem exec_shflDown f s : exec (Instr.shflDown f) s = execShflDown f s := rfl
theorem exec_shflXor f s : exec (Instr.shflXor f) s = execShflXor f s := rfl
theorem exec_shflIdxI f s : exec (Instr.shflIdxI f) s = execShflIdxI f s := rfl
theorem exec_shflUpI f s : exec (Instr.shflUpI f) s = execShflUpI f s := rfl
theorem exec_shflDownI f s : exec (Instr.shflDownI f) s = execShflDownI f s := rfl
theorem exec_shflXorI f s : exec (Instr.shflXorI f) s = execShflXorI f s := rfl
theorem exec_ballot f s : exec (Instr.ballot f) s = execBallot f s := rfl
theorem exec_voteAny f s : exec (Instr.voteAny f) s = execVoteAny f s := rfl
theorem exec_voteAll f s : exec (Instr.voteAll f) s = execVoteAll f s := rfl
theorem exec_voteUni f s : exec (Instr.voteUni f) s = execVoteUni f s := rfl
theorem exec_redux f s : exec (Instr.redux f) s = execRedux f s := rfl
theorem exec_scan f s : exec (Instr.scan f) s = execScan f s := rfl
theorem exec_matchLanes f s : exec (Instr.matchLanes f) s = execMatchLanes f s := rfl
theorem exec_ld f s : exec (Instr.ld f) s = execLd f s := rfl
theorem exec_st f s : exec (Instr.st f) s = execSt f s := rfl
theorem exec_pref f s : exec (Instr.pref f) s = execPref f s := rfl
theorem exec_fence f s : exec (Instr.fence f) s = execFence f s := rfl
theorem exec_cinv f s : exec (Instr.cinv f) s = execCinv f s := rfl
theorem exec_cwb f s : exec (Instr.cwb f) s = execCwb f s := rfl
theorem exec_atomAdd f s : exec (Instr.atomAdd f) s = execAtomAdd f s := rfl
theorem exec_atomMin f s : exec (Instr.atomMin f) s = execAtomMin f s := rfl
theorem exec_atomMax f s : exec (Instr.atomMax f) s = execAtomMax f s := rfl
theorem exec_atomAnd f s : exec (Instr.atomAnd f) s = execAtomAnd f s := rfl
theorem exec_atomOr f s : exec (Instr.atomOr f) s = execAtomOr f s := rfl
theorem exec_atomXor f s : exec (Instr.atomXor f) s = execAtomXor f s := rfl
theorem exec_atomExch f s : exec (Instr.atomExch f) s = execAtomExch f s := rfl
theorem exec_atomCas f s : exec (Instr.atomCas f) s = execAtomCas f s := rfl
theorem exec_atomInc f s : exec (Instr.atomInc f) s = execAtomInc f s := rfl
theorem exec_atomDec f s : exec (Instr.atomDec f) s = execAtomDec f s := rfl
theorem exec_atomFadd f s : exec (Instr.atomFadd f) s = execAtomFadd f s := rfl
theorem exec_atomBfadd2 f s : exec (Instr.atomBfadd2 f) s = execAtomBfadd2 f s := rfl
theorem exec_redAdd f s : exec (Instr.redAdd f) s = execRedAdd f s := rfl
theorem exec_redMin f s : exec (Instr.redMin f) s = execRedMin f s := rfl
theorem exec_redMax f s : exec (Instr.redMax f) s = execRedMax f s := rfl
theorem exec_redAnd f s : exec (Instr.redAnd f) s = execRedAnd f s := rfl
theorem exec_redOr f s : exec (Instr.redOr f) s = execRedOr f s := rfl
theorem exec_redXor f s : exec (Instr.redXor f) s = execRedXor f s := rfl
theorem exec_redInc f s : exec (Instr.redInc f) s = execRedInc f s := rfl
theorem exec_redDec f s : exec (Instr.redDec f) s = execRedDec f s := rfl
theorem exec_redFadd f s : exec (Instr.redFadd f) s = execRedFadd f s := rfl
theorem exec_redBfadd2 f s : exec (Instr.redBfadd2 f) s = execRedBfadd2 f s := rfl
theorem exec_binit f s : exec (Instr.binit f) s = execBinit f s := rfl
theorem exec_bret f s : exec (Instr.bret f) s = execBret f s := rfl
theorem exec_bbind f s : exec (Instr.bbind f) s = execBbind f s := rfl
theorem exec_barv f s : exec (Instr.barv f) s = execBarv f s := rfl
theorem exec_barx f s : exec (Instr.barx f) s = execBarx f s := rfl
theorem exec_bgen f s : exec (Instr.bgen f) s = execBgen f s := rfl
theorem exec_bpar f s : exec (Instr.bpar f) s = execBpar f s := rfl
theorem exec_bstat f s : exec (Instr.bstat f) s = execBstat f s := rfl
theorem exec_evbind f s : exec (Instr.evbind f) s = execEvbind f s := rfl
theorem exec_evunb f s : exec (Instr.evunb f) s = execEvunb f s := rfl
theorem exec_evmaskSet f s : exec (Instr.evmaskSet f) s = execEvmaskSet f s := rfl
theorem exec_evmaskClr f s : exec (Instr.evmaskClr f) s = execEvmaskClr f s := rfl
theorem exec_evmaskWr f s : exec (Instr.evmaskWr f) s = execEvmaskWr f s := rfl
theorem exec_evpost f s : exec (Instr.evpost f) s = execEvpost f s := rfl
theorem exec_evclr f s : exec (Instr.evclr f) s = execEvclr f s := rfl
theorem exec_waitany f s : exec (Instr.waitany f) s = execWaitany f s := rfl
theorem exec_waitaddr f s : exec (Instr.waitaddr f) s = execWaitaddr f s := rfl
theorem exec_send f s : exec (Instr.send f) s = execSend f s := rfl
theorem exec_tryrecv f s : exec (Instr.tryrecv f) s = execTryrecv f s := rfl
theorem exec_mbstat f s : exec (Instr.mbstat f) s = execMbstat f s := rfl
theorem exec_cpkick f s : exec (Instr.cpkick f) s = execCpkick f s := rfl
theorem exec_cpstat f s : exec (Instr.cpstat f) s = execCpstat f s := rfl
theorem exec_strbind f s : exec (Instr.strbind f) s = execStrbind f s := rfl
theorem exec_tload f s : exec (Instr.tload f) s = execTload f s := rfl
theorem exec_tstart f s : exec (Instr.tstart f) s = execTstart f s := rfl
theorem exec_tstop f s : exec (Instr.tstop f) s = execTstop f s := rfl
theorem exec_tstat f s : exec (Instr.tstat f) s = execTstat f s := rfl
theorem exec_ldstat f s : exec (Instr.ldstat f) s = execLdstat f s := rfl
theorem exec_swapst f s : exec (Instr.swapst f) s = execSwapst f s := rfl
theorem exec_mms f s : exec (Instr.mms f) s = execMms f s := rfl
theorem exec_accz f s : exec (Instr.accz f) s = execAccz f s := rfl
theorem exec_accrd f s : exec (Instr.accrd f) s = execAccrd f s := rfl
theorem exec_accsc f s : exec (Instr.accsc f) s = execAccsc f s := rfl
theorem exec_accld f s : exec (Instr.accld f) s = execAccld f s := rfl
theorem exec_mestat f s : exec (Instr.mestat f) s = execMestat f s := rfl
theorem exec_br f s : exec (Instr.br f) s = execBr f s := rfl
theorem exec_bri f s : exec (Instr.bri f) s = execBri f s := rfl
theorem exec_call f s : exec (Instr.call f) s = execCall f s := rfl
theorem exec_calli f s : exec (Instr.calli f) s = execCalli f s := rfl
theorem exec_ret f s : exec (Instr.ret f) s = execRet f s := rfl
theorem exec_halt f s : exec (Instr.halt f) s = execHalt f s := rfl
theorem exec_trap f s : exec (Instr.trap f) s = execTrap f s := rfl
theorem exec_brk f s : exec (Instr.brk f) s = execBrk f s := rfl
theorem exec_launch f s : exec (Instr.launch f) s = execLaunch f s := rfl
theorem exec_lstat f s : exec (Instr.lstat f) s = execLstat f s := rfl
theorem exec_leaseSet f s : exec (Instr.leaseSet f) s = execLeaseSet f s := rfl
theorem exec_leaseMeas f s : exec (Instr.leaseMeas f) s = execLeaseMeas f s := rfl
theorem exec_snap f s : exec (Instr.snap f) s = execSnap f s := rfl
theorem exec_tret f s : exec (Instr.tret f) s = execTret f s := rfl
theorem exec_injCode f s : exec (Instr.injCode f) s = execInjCode f s := rfl
theorem exec_injData f s : exec (Instr.injData f) s = execInjData f s := rfl
theorem exec_esc k f s : exec (Instr.esc k f) s = execEsc k f s := rfl
theorem exec_elemAdd x s : exec (Instr.elemAdd x) s = execElemAdd x s := rfl
theorem exec_elemSub x s : exec (Instr.elemSub x) s = execElemSub x s := rfl
theorem exec_elemMul x s : exec (Instr.elemMul x) s = execElemMul x s := rfl
theorem exec_elemFadd x s : exec (Instr.elemFadd x) s = execElemFadd x s := rfl
theorem exec_elemFmul x s : exec (Instr.elemFmul x) s = execElemFmul x s := rfl
theorem exec_elemFfma x s : exec (Instr.elemFfma x) s = execElemFfma x s := rfl
theorem exec_elemAnd x s : exec (Instr.elemAnd x) s = execElemAnd x s := rfl
theorem exec_elemOr x s : exec (Instr.elemOr x) s = execElemOr x s := rfl
theorem exec_elemXor x s : exec (Instr.elemXor x) s = execElemXor x s := rfl
theorem exec_elemShl x s : exec (Instr.elemShl x) s = execElemShl x s := rfl
theorem exec_elemShr x s : exec (Instr.elemShr x) s = execElemShr x s := rfl
theorem exec_elemCmpeq x s : exec (Instr.elemCmpeq x) s = execElemCmpeq x s := rfl
theorem exec_elemCmplt x s : exec (Instr.elemCmplt x) s = execElemCmplt x s := rfl
theorem exec_elemCmpltn x s : exec (Instr.elemCmpltn x) s = execElemCmpltn x s := rfl
theorem exec_elemMin x s : exec (Instr.elemMin x) s = execElemMin x s := rfl
theorem exec_elemMax x s : exec (Instr.elemMax x) s = execElemMax x s := rfl
theorem exec_elemSel x s : exec (Instr.elemSel x) s = execElemSel x s := rfl
theorem exec_elemMov x s : exec (Instr.elemMov x) s = execElemMov x s := rfl
theorem exec_elemDeq x s : exec (Instr.elemDeq x) s = execElemDeq x s := rfl
theorem exec_elemTag x s : exec (Instr.elemTag x) s = execElemTag x s := rfl
theorem exec_elemPset x s : exec (Instr.elemPset x) s = execElemPset x s := rfl
theorem exec_elemPclr x s : exec (Instr.elemPclr x) s = execElemPclr x s := rfl
theorem exec_elemCnt x s : exec (Instr.elemCnt x) s = execElemCnt x s := rfl
theorem exec_elemLd x s : exec (Instr.elemLd x) s = execElemLd x s := rfl
theorem exec_elemSt x s : exec (Instr.elemSt x) s = execElemSt x s := rfl
theorem exec_elemTas x s : exec (Instr.elemTas x) s = execElemTas x s := rfl
theorem exec_elemUpd x s : exec (Instr.elemUpd x) s = execElemUpd x s := rfl
theorem exec_elemGen x s : exec (Instr.elemGen x) s = execElemGen x s := rfl
theorem exec_elemSteer x s : exec (Instr.elemSteer x) s = execElemSteer x s := rfl
theorem exec_elemMerge x s : exec (Instr.elemMerge x) s = execElemMerge x s := rfl
theorem exec_elemJoin x s : exec (Instr.elemJoin x) s = execElemJoin x s := rfl
theorem exec_elemErr x s : exec (Instr.elemErr x) s = execElemErr x s := rfl
theorem exec_tokenHop e k s : exec (Instr.tokenHop e k) s = execTokenHop e k s := rfl
theorem exec_planeLoadComplete bay s : exec (Instr.planeLoadComplete bay) s = execPlaneLoadComplete bay s := rfl
theorem exec_rcRegisterRead ofs size s : exec (Instr.rcRegisterRead ofs size) s = execRcRegisterRead ofs size s := rfl
theorem exec_fusedMinimumRaise comp value s : exec (Instr.fusedMinimumRaise comp value) s = execFusedMinimumRaise comp value s := rfl
theorem exec_softError e s : exec (Instr.softError e) s = execSoftError e s := rfl

end Sys2Proof.Machine
end

