-- ==== Sys2Proof/Laws/Node.lean ====
section
/-! SUPPORT. What the firing of a node does, once for each shared operation: a node that may fire runs, its words that
pass their checks let it go on, and its results are delivered. -/

namespace Sys2Proof.Machine

/-- A node that may fire runs: `cur` is cleared and the meaning's own function gives the next state. -/
theorem atNode_fires {s : State} {w : WarpId} {k : Nat} {x : Warp} {b : Blk} (h : Fires s w k x b)
    (g : State → WarpId → Nat → Warp → Blk → State) : atNode s g = .next (g { s with cur := .none } w k x b) := by
  simp only [atNode, h.cur, h.warp, h.blk, h.running, h.time, h.may, BEq.rfl, Bool.and_self, if_true]

/-- A node that runs was in a state to fire. -/
theorem atNode_next {s t : State} {g : State → WarpId → Nat → Warp → Blk → State} (h : atNode s g = .next t) :
    ∃ w k x b, Fires s w k x b ∧ t = g { s with cur := .none } w k x b := by
  unfold atNode at h
  split at h
  · rename_i w k hc
    split at h
    · exact nomatch h
    · rename_i x hw
      split at h
      · exact nomatch h
      · rename_i b hb
        split at h
        · rename_i hp
          rw [Bool.and_eq_true, Bool.and_eq_true, beq_iff_eq] at hp
          exact ⟨w, k, x, b, ⟨hc, hw, hb, hp.1.1, hp.1.2, hp.2⟩, (Host.Outcome.next.inj h).symm⟩
        · exact nomatch h
  · exact nomatch h

/-- Words that all pass their checks hold no bad one. -/
theorem badWord_none {ls : List (Nat × List Placed)} (h : ∀ p ∈ ls, ∀ v ∈ p.2, good v.2 = true) : badWord ls = none := by
  rw [badWord, List.findSome?_eq_none_iff]
  intro p hp
  have : p.2.find? (fun w => !good w.2) = none := List.find?_eq_none.2 fun v hv => by simp [h p hp v hv]
  simp [this]

theorem checked_good {s : State} {w : WarpId} {k : Nat} {x : Warp} {b : Blk} {ls : List (Nat × List Placed)} (go : State)
    (h : ∀ p ∈ ls, ∀ v ∈ p.2, good v.2 = true) : checked s w k x b ls go = go := by
  simp only [checked, badWord_none h]

/-- Good words of the performing lanes, as `checked` takes them. -/
theorem goodWords_map {b : Blk} {k : Nat} {sel : LaneOps → List Placed}
    (h : GoodWords b k fun o => (sel o).map (·.2)) :
    ∀ p ∈ (performing b k).map (fun q => (q.1, sel q.2)), ∀ v ∈ p.2, good v.2 = true := by
  intro p hp v hv
  obtain ⟨q, hq, rfl⟩ := List.mem_map.1 hp
  exact h q hq v.2 (List.mem_map_of_mem hv)

/-- A compute node whose words are good and whose tokens meet no conflict leaves its block delivered (R35, R94). -/
theorem fireLanes_good {s : State} {w : WarpId} {k : Nat} {x : Warp} {b b1 : Blk} {ts : List (BitVec 10)}
    {check : LaneOps → List Placed} {result : Nat → LaneOps → Tok} (hg : GoodWords b k fun o => (check o).map (·.2))
    (hd : deliverAll (b.fire k) (toTargets b k ts result) = .ok b1) :
    fireLanes s w k x b ts check result = s.putBlk w b1 := by
  unfold fireLanes
  rw [checked_good _ (goodWords_map hg)]
  simp only [finishNode, toTargets] at hd ⊢
  rw [hd]

/-- A node whose tokens conflict takes the dataflow-conflict fault (R36). -/
theorem finishNode_conflict {s : State} {w : WarpId} {k : Nat} {b : Blk}
    {outs : List (BitVec 10 × (Nat → Option Tok))} {key : Nat} {m : Mask}
    (hd : deliverAll (b.fire k) outs = .error (key, m)) :
    finishNode s w k b outs =
      s.takeFault w { kind := 0x05, sub := 0x03, node := some k, lanes := m, va := BitVec.ofNat 64 key } none := by
  simp only [finishNode, hd]

theorem finishNode_ok {s : State} {w : WarpId} {k : Nat} {b b1 : Blk} {outs : List (BitVec 10 × (Nat → Option Tok))}
    (hd : deliverAll (b.fire k) outs = .ok b1) : finishNode s w k b outs = s.putBlk w b1 := by
  simp only [finishNode, hd]

/-- A format A compute node (R94). -/
theorem computeA_fires {f : FmtA} {s : State} {n : Nat} {g : Word → Nat → Nat → Nat → Nat} {w : WarpId} {k : Nat}
    {x : Warp} {b b1 : Blk} (h : Fires s w k x b) (hg : GoodWords b k allWords)
    (hd : deliverAll (b.fire k) (toTargets b k [f.t0, f.t1] fun _ o =>
      tokOf (n / 32) (g b.mode (tokVal o.a) (tokVal o.b) (tokVal o.c) % 2 ^ n)) = .ok b1) :
    computeA f s n g = .next (afterNode s w b1) := by
  rw [computeA, atNode_fires h, fireLanes_good hg hd]; rfl

/-- A format I compute node (R94). -/
theorem computeI_fires {f : FmtI} {s : State} {n : Nat} {g : Word → Nat → Nat → Nat → Nat} {w : WarpId} {k : Nat}
    {x : Warp} {b b1 : Blk} (h : Fires s w k x b) (hg : GoodWords b k allWords)
    (hd : deliverAll (b.fire k) (toTargets b k [f.t0, f.t1] fun _ o =>
      tokOf (n / 32) (g b.mode (tokVal o.a) (tokVal o.b) (tokVal o.c) % 2 ^ n)) = .ok b1) :
    computeI f s n g = .next (afterNode s w b1) := by
  rw [computeI, atNode_fires h, fireLanes_good hg hd]; rfl

end Sys2Proof.Machine
end

