-- ==== Sys2Proof/Laws/PerInstr.lean ====
section
/-! SUPPORT. For every instruction: its encoding decodes to it (LAWS.json, family DecodesBack). -/

namespace Sys2Proof.Laws

/-! ## One lemma for each format -/

/-- A well-formed node whose word builds it is what the decoder reads. -/
theorem decode_built {i : Instr} {opc : BitVec 9} {f : NodeFmt} (hn : i.node = some (opc, f))
    (hb : buildNode (packNode opc f) = some i) (hz : wordZeroOk (packNode opc f) f = true) (hw : i.wf = true)
    (n w : Nat) (h : encode i = some (n, w)) : decodeTableWord n w = some i := by
  simp only [Instr.wf, hn, Bool.and_eq_true] at hw
  simp only [encode, encodeNode, hn, Option.map_some, Option.some.injEq, Prod.mk.injEq] at h
  obtain ⟨rfl, rfl⟩ := h
  simp only [decodeTableWord, Nat.le_refl, if_true, BitVec.ofNat_toNat, BitVec.setWidth_eq, decodeNode, hb, nodeZeroOk,
    nodeFieldOk, hn, hw.1.1, hw.1.2, hz, Bool.and_true, Bool.not_true, Bool.false_eq_true, if_false, Except.toOption]

theorem zero_a (opc : BitVec 9) (f : FmtA) : wordZeroOk (packNode opc (.a f)) (.a f) = true := rfl
theorem zero_i (opc : BitVec 9) (f : FmtI) : wordZeroOk (packNode opc (.i f)) (.i f) = true := rfl
theorem zero_m (opc : BitVec 9) (f : FmtM) : wordZeroOk (packNode opc (.m f)) (.m f) = true := rfl
theorem zero_x (opc : BitVec 9) (k : BitVec 3) (f : FmtX) : wordZeroOk (packNode opc (.x k f)) (.x k f) = true := rfl
theorem zero_e (opc : BitVec 9) (f : FmtE) : wordZeroOk (packNode opc (.e f)) (.e f) = true := rfl

theorem zero_k (opc : BitVec 9) (f : FmtK) : wordZeroOk (packNode opc (.k f)) (.k f) = true := by
  simp only [wordZeroOk, beq_iff_eq]
  apply BitVec.eq_of_getLsbD_eq
  intro i hi
  simp only [packNode, BitVec.getLsbD_extractLsb', BitVec.getLsbD_setWidth, BitVec.getLsbD_append, hi, decide_true,
    Bool.true_and]
  rw [decide_eq_true (by omega), Bool.true_and]
  repeat (first | rw [if_neg (by omega)] | rw [if_pos (by omega)])
  simp

theorem build_a (opc : BitVec 9) (f : FmtA) (k : FmtA → Instr) (h : opsA.lookup opc.toNat = some k) :
    buildNode (packNode opc (.a f)) = some (k f) := by
  simp only [buildNode, opc_pack, h, unpackA_pack]

theorem build_i (opc : BitVec 9) (f : FmtI) (k : FmtI → Instr) (ha : opsA.lookup opc.toNat = none)
    (h : opsI.lookup opc.toNat = some k) : buildNode (packNode opc (.i f)) = some (k f) := by
  simp only [buildNode, opc_pack, ha, h, unpackI_pack]

theorem build_m (opc : BitVec 9) (f : FmtM) (k : FmtM → Instr) (ha : opsA.lookup opc.toNat = none)
    (hi : opsI.lookup opc.toNat = none) (h : opsM.lookup opc.toNat = some k) :
    buildNode (packNode opc (.m f)) = some (k f) := by
  simp only [buildNode, opc_pack, ha, hi, h, unpackM_pack]

theorem build_e (opc : BitVec 9) (f : FmtE) (k : FmtE → Instr) (ha : opsA.lookup opc.toNat = none)
    (hi : opsI.lookup opc.toNat = none) (hm : opsM.lookup opc.toNat = none) (h : opsE.lookup opc.toNat = some k) :
    buildNode (packNode opc (.e f)) = some (k f) := by
  simp only [buildNode, opc_pack, ha, hi, hm, h, unpackE_pack]

theorem build_k (opc : BitVec 9) (f : FmtK) (k : FmtK → Instr) (ha : opsA.lookup opc.toNat = none)
    (hi : opsI.lookup opc.toNat = none) (hm : opsM.lookup opc.toNat = none) (he : opsE.lookup opc.toNat = none)
    (h : opsK.lookup opc.toNat = some k) : buildNode (packNode opc (.k f)) = some (k f) := by
  simp only [buildNode, opc_pack, ha, hi, hm, he, h, unpackK_pack]

/-- No table of a format other than X, and no row by MOD, has an opcode of KIND. -/
theorem build_x (kind : BitVec 3) (f : FmtX) (k : FmtX → Instr) (h : opsX.lookup kind.toNat = some k) :
    buildNode (packNode 0x1C0 (.x kind f)) = some (k f) := by
  have h1 : opsA.lookup 0x1C0 = none := rfl
  have h2 : opsI.lookup 0x1C0 = none := rfl
  have h3 : opsM.lookup 0x1C0 = none := rfl
  have h4 : opsE.lookup 0x1C0 = none := rfl
  have h5 : opsK.lookup 0x1C0 = none := rfl
  have h6 : (0x1C0 : BitVec 9).toNat = 0x1C0 := rfl
  simp only [buildNode, opc_pack, h6, h1, h2, h3, h4, h5, if_true, unpackX_pack, h, Option.map_some]

/-- The opcodes of `ESC` stand in no other table. -/
theorem esc_free (k : BitVec 4) :
    (opsA.lookup (0x1F0 + k.setWidth 9 : BitVec 9).toNat).isNone = true ∧
    (opsI.lookup (0x1F0 + k.setWidth 9 : BitVec 9).toNat).isNone = true ∧
    (opsM.lookup (0x1F0 + k.setWidth 9 : BitVec 9).toNat).isNone = true ∧
    (opsE.lookup (0x1F0 + k.setWidth 9 : BitVec 9).toNat).isNone = true ∧
    (opsK.lookup (0x1F0 + k.setWidth 9 : BitVec 9).toNat).isNone = true ∧
    ¬ (0x1F0 + k.setWidth 9 : BitVec 9).toNat = 0x1C0 ∧ 0x1F0 ≤ (0x1F0 + k.setWidth 9 : BitVec 9).toNat ∧
    (0x1F0 + k.setWidth 9 : BitVec 9).extractLsb' 0 4 = k := by
  revert k; decide

theorem build_esc (k : BitVec 4) (f : FmtA) : buildNode (packNode (0x1F0 + k.setWidth 9) (.a f)) = some (.esc k f) := by
  obtain ⟨ha, hi, hm, he, hk, hx, hs, hb⟩ := esc_free k
  rw [Option.isNone_iff_eq_none] at ha hi hm he hk
  have key (w : Double) : w.extractLsb' 55 4 = (w.extractLsb' 55 9).extractLsb' 0 4 := by
    apply BitVec.eq_of_getLsbD_eq
    intro i hi
    have h9 : i < 9 := by omega
    simp [hi, h9]
  have h4 : (packNode (0x1F0 + k.setWidth 9) (.a f)).extractLsb' 55 4 = k := by rw [key, opc_pack, hb]
  simp only [buildNode, opc_pack, ha, hi, hm, he, hk, hx, hs, if_true, if_false, unpackA_pack, h4]

theorem build_mod (opc : BitVec 9) (f : FmtE) (i : Instr) (ha : opsA.lookup opc.toNat = none)
    (hi : opsI.lookup opc.toNat = none) (hm : opsM.lookup opc.toNat = none) (he : opsE.lookup opc.toNat = none)
    (hk : opsK.lookup opc.toNat = none) (hx : ¬ opc.toNat = 0x1C0) (hs : ¬ 0x1F0 ≤ opc.toNat)
    (h : byMod opc.toNat f = some i) : buildNode (packNode opc (.e f)) = some i := by
  simp only [buildNode, opc_pack, ha, hi, hm, he, hk, hx, hs, if_false, unpackE_pack, h]

/-- An element operation that passes the checks is what the decoder reads. -/
theorem decode_elem {i : Instr} {op : BitVec 5} {x : ElemWord} (k : ElemWord → Instr) (hn : i.node = none)
    (he : i.elem = some (op, x)) (h : opsElem.lookup op.toNat = some k) (hk : k x = i) (hw : i.wf = true)
    (n w : Nat) (h : encode i = some (n, w)) : decodeTableWord n w = some i := by
  simp only [Instr.wf, hn, he] at hw
  simp only [encode, encodeNode, encodeElem, hn, he, Option.map_none, Option.map_some, Option.some.injEq,
    Prod.mk.injEq] at h
  obtain ⟨rfl, rfl⟩ := h
  have h0 : ((packElem op x).extractLsb' 0 12 == 0) = true := by rw [(unpackElem_pack op x).2.2]; rfl
  have h96 : ¬ (96 : Nat) ≤ 64 := by decide
  simp only [decodeTableWord, h96, if_false, BitVec.ofNat_toNat, BitVec.setWidth_eq, decodeElem, buildElem,
    (unpackElem_pack op x).2.1, (unpackElem_pack op x).1, ‹opsElem.lookup op.toNat = some k›, Option.map_some, hk, he,
    h0, hw, Bool.and_true, if_true, Except.toOption]

namespace DecodesBack

/-- The bits of a well-formed instruction decode to it, with every operand at every value that the encoding admits; an
event has no bits. -/
def Statement (i : Instr) : Prop := i.wf = true → ∀ n w, encode i = some (n, w) → decodeTableWord n w = some i

theorem blockDispatch (w : WarpId) : Statement (.blockDispatch w) :=
  fun _ _ _ h => nomatch h

theorem captureComplete (w : WarpId) : Statement (.captureComplete w) :=
  fun _ _ _ h => nomatch h

theorem blockCommit (w : WarpId) : Statement (.blockCommit w) :=
  fun _ _ _ h => nomatch h

theorem subwordMerge : Statement .subwordMerge :=
  fun _ _ _ h => nomatch h

theorem homeCheckFailure : Statement .homeCheckFailure :=
  fun _ _ _ h => nomatch h

theorem engineError (w : WarpId) : Statement (.engineError w) :=
  fun _ _ _ h => nomatch h

theorem preemptBlockTimeout (w : WarpId) : Statement (.preemptBlockTimeout w) :=
  fun _ _ _ h => nomatch h

theorem waitanyWake (w : WarpId) : Statement (.waitanyWake w) :=
  fun _ _ _ h => nomatch h

theorem waitaddrWake (w : WarpId) : Statement (.waitaddrWake w) :=
  fun _ _ _ h => nomatch h

theorem exportReturn (p : PortId) : Statement (.exportReturn p) :=
  fun _ _ _ h => nomatch h

theorem teamRetire (bay gid tid : Nat) : Statement (.teamRetire bay gid tid) :=
  fun _ _ _ h => nomatch h

theorem gridRetire (gid : Nat) : Statement (.gridRetire gid) :=
  fun _ _ _ h => nomatch h

theorem kingpostRound : Statement .kingpostRound :=
  fun _ _ _ h => nomatch h

theorem reservation (level : Nat) : Statement (.reservation level) :=
  fun _ _ _ h => nomatch h

theorem deviceGridPassedOver (gid : Nat) : Statement (.deviceGridPassedOver gid) :=
  fun _ _ _ h => nomatch h

theorem leaseTurnEnd (bay window : Nat) : Statement (.leaseTurnEnd bay window) :=
  fun _ _ _ h => nomatch h

theorem leaseIntervalEnd (bay : Nat) : Statement (.leaseIntervalEnd bay) :=
  fun _ _ _ h => nomatch h

theorem copyRequestStart (bay : Nat) : Statement (.copyRequestStart bay) :=
  fun _ _ _ h => nomatch h

theorem copyChunkLand (c : CopyId) : Statement (.copyChunkLand c) :=
  fun _ _ _ h => nomatch h

theorem copyCompletion (c : CopyId) : Statement (.copyCompletion c) :=
  fun _ _ _ h => nomatch h

theorem matrixRowGroupComplete (bay : Nat) : Statement (.matrixRowGroupComplete bay) :=
  fun _ _ _ h => nomatch h

theorem portLoadRequest (p : PortId) : Statement (.portLoadRequest p) :=
  fun _ _ _ h => nomatch h

theorem portLoadReply (p : PortId) : Statement (.portLoadReply p) :=
  fun _ _ _ h => nomatch h

theorem sinkDequeue (p : PortId) : Statement (.sinkDequeue p) :=
  fun _ _ _ h => nomatch h

theorem sinkRecheck (p : PortId) : Statement (.sinkRecheck p) :=
  fun _ _ _ h => nomatch h

theorem streamInWord (p : PortId) : Statement (.streamInWord p) :=
  fun _ _ _ h => nomatch h

theorem streamOutWord (p : PortId) : Statement (.streamOutWord p) :=
  fun _ _ _ h => nomatch h

theorem quiescenceScan (bay region : Nat) : Statement (.quiescenceScan bay region) :=
  fun _ _ _ h => nomatch h

theorem trussImageLoad (bay region : Nat) : Statement (.trussImageLoad bay region) :=
  fun _ _ _ h => nomatch h

theorem configPacketDeliver (bay region : Nat) : Statement (.configPacketDeliver bay region) :=
  fun _ _ _ h => nomatch h

theorem pageWalk (q : WalkReq) : Statement (.pageWalk q) :=
  fun _ _ _ h => nomatch h

theorem recordDeferredWrite (ctx : Nat) : Statement (.recordDeferredWrite ctx) :=
  fun _ _ _ h => nomatch h

theorem resumeWrite (r : RegWrite) : Statement (.resumeWrite r) :=
  fun _ _ _ h => nomatch h

theorem tlbInvWrite (r : RegWrite) : Statement (.tlbInvWrite r) :=
  fun _ _ _ h => nomatch h

theorem tlbInvalidationDone (ctx : Nat) : Statement (.tlbInvalidationDone ctx) :=
  fun _ _ _ h => nomatch h

theorem poisClrEntry (r : RegWrite) : Statement (.poisClrEntry r) :=
  fun _ _ _ h => nomatch h

theorem poisClrAll (r : RegWrite) : Statement (.poisClrAll r) :=
  fun _ _ _ h => nomatch h

theorem ctxSave (r : RegWrite) : Statement (.ctxSave r) :=
  fun _ _ _ h => nomatch h

theorem ctxSaveDone (ctx : Nat) : Statement (.ctxSaveDone ctx) :=
  fun _ _ _ h => nomatch h

theorem ctxRestore (r : RegWrite) : Statement (.ctxRestore r) :=
  fun _ _ _ h => nomatch h

theorem brkallWrite (r : RegWrite) : Statement (.brkallWrite r) :=
  fun _ _ _ h => nomatch h

theorem dbgStepWrite (r : RegWrite) : Statement (.dbgStepWrite r) :=
  fun _ _ _ h => nomatch h

theorem safeStopRequest (r : RegWrite) : Statement (.safeStopRequest r) :=
  fun _ _ _ h => nomatch h

theorem safeRelease (r : RegWrite) : Statement (.safeRelease r) :=
  fun _ _ _ h => nomatch h

theorem safeLate (ctx : Nat) : Statement (.safeLate ctx) :=
  fun _ _ _ h => nomatch h

theorem queueDoorbell (r : RegWrite) : Statement (.queueDoorbell r) :=
  fun _ _ _ h => nomatch h

theorem queueSchedWrite (r : RegWrite) : Statement (.queueSchedWrite r) :=
  fun _ _ _ h => nomatch h

theorem queueConfigWrite (r : RegWrite) : Statement (.queueConfigWrite r) :=
  fun _ _ _ h => nomatch h

theorem registerWrite (r : RegWrite) : Statement (.registerWrite r) :=
  fun _ _ _ h => nomatch h

theorem bar2Write (ofs : Nat) (data : List Byte) : Statement (.bar2Write ofs data) :=
  fun _ _ _ h => nomatch h

theorem bar2Read (ofs n : Nat) : Statement (.bar2Read ofs n) :=
  fun _ _ _ h => nomatch h

theorem volingWriteReceive (m : VolingWrite) : Statement (.volingWriteReceive m) :=
  fun _ _ _ h => nomatch h

theorem volingAckReceive (peer stream seq : Nat) (outside : Bool) : Statement (.volingAckReceive peer stream seq outside) :=
  fun _ _ _ h => nomatch h

theorem volingLinkFailure (peer stream : Nat) : Statement (.volingLinkFailure peer stream) :=
  fun _ _ _ h => nomatch h

theorem coldReset : Statement .coldReset :=
  fun _ _ _ h => nomatch h

theorem warmReset : Statement .warmReset :=
  fun _ _ _ h => nomatch h

theorem attRequest (r : RegWrite) : Statement (.attRequest r) :=
  fun _ _ _ h => nomatch h

theorem attReportDone : Statement .attReportDone :=
  fun _ _ _ h => nomatch h

theorem powerInterval (d : PowerDemand) : Statement (.powerInterval d) :=
  fun _ _ _ h => nomatch h

theorem powerRegisterWrite (r : RegWrite) : Statement (.powerRegisterWrite r) :=
  fun _ _ _ h => nomatch h

theorem bankCountInterval (stack bank : Nat) : Statement (.bankCountInterval stack bank) :=
  fun _ _ _ h => nomatch h

theorem sillDropWrite (r : RegWrite) : Statement (.sillDropWrite r) :=
  fun _ _ _ h => nomatch h

theorem driftLineMove (stack : Nat) : Statement (.driftLineMove stack) :=
  fun _ _ _ h => nomatch h

theorem bayRetireWrite (r : RegWrite) : Statement (.bayRetireWrite r) :=
  fun _ _ _ h => nomatch h

theorem autoBayRetire (bay : Nat) : Statement (.autoBayRetire bay) :=
  fun _ _ _ h => nomatch h

theorem linkLaneReplace (l : LinkId) : Statement (.linkLaneReplace l) :=
  fun _ _ _ h => nomatch h

theorem fwUpdWrite (r : RegWrite) : Statement (.fwUpdWrite r) :=
  fun _ _ _ h => nomatch h

theorem fwComponentSwitch : Statement .fwComponentSwitch :=
  fun _ _ _ h => nomatch h

theorem mgmtSnapTrigger : Statement .mgmtSnapTrigger :=
  fun _ _ _ h => nomatch h

theorem snapArmWrite (r : RegWrite) : Statement (.snapArmWrite r) :=
  fun _ _ _ h => nomatch h

theorem moduleLoad (ctx : Nat) (base : Double) : Statement (.moduleLoad ctx base) :=
  fun _ _ _ h => nomatch h

theorem handlerTranslate (t : Translation) : Statement (.handlerTranslate t) :=
  fun _ _ _ h => nomatch h

theorem add (f : FmtA) : Statement (.add f) :=
  fun hw => decode_built rfl (build_a _ f _ rfl) (zero_a _ f) hw

theorem sub (f : FmtA) : Statement (.sub f) :=
  fun hw => decode_built rfl (build_a _ f _ rfl) (zero_a _ f) hw

theorem addsat (f : FmtA) : Statement (.addsat f) :=
  fun hw => decode_built rfl (build_a _ f _ rfl) (zero_a _ f) hw

theorem subsat (f : FmtA) : Statement (.subsat f) :=
  fun hw => decode_built rfl (build_a _ f _ rfl) (zero_a _ f) hw

theorem mul (f : FmtA) : Statement (.mul f) :=
  fun hw => decode_built rfl (build_a _ f _ rfl) (zero_a _ f) hw

theorem mulhi (f : FmtA) : Statement (.mulhi f) :=
  fun hw => decode_built rfl (build_a _ f _ rfl) (zero_a _ f) hw

theorem mad (f : FmtA) : Statement (.mad f) :=
  fun hw => decode_built rfl (build_a _ f _ rfl) (zero_a _ f) hw

theorem madhi (f : FmtA) : Statement (.madhi f) :=
  fun hw => decode_built rfl (build_a _ f _ rfl) (zero_a _ f) hw

theorem div (f : FmtA) : Statement (.div f) :=
  fun hw => decode_built rfl (build_a _ f _ rfl) (zero_a _ f) hw

theorem rem (f : FmtA) : Statement (.rem f) :=
  fun hw => decode_built rfl (build_a _ f _ rfl) (zero_a _ f) hw

theorem min (f : FmtA) : Statement (.min f) :=
  fun hw => decode_built rfl (build_a _ f _ rfl) (zero_a _ f) hw

theorem max (f : FmtA) : Statement (.max f) :=
  fun hw => decode_built rfl (build_a _ f _ rfl) (zero_a _ f) hw

theorem sad (f : FmtA) : Statement (.sad f) :=
  fun hw => decode_built rfl (build_a _ f _ rfl) (zero_a _ f) hw

theorem lea (f : FmtA) : Statement (.lea f) :=
  fun hw => decode_built rfl (build_a _ f _ rfl) (zero_a _ f) hw

theorem neg (f : FmtA) : Statement (.neg f) :=
  fun hw => decode_built rfl (build_a _ f _ rfl) (zero_a _ f) hw

theorem abs (f : FmtA) : Statement (.abs f) :=
  fun hw => decode_built rfl (build_a _ f _ rfl) (zero_a _ f) hw

theorem and (f : FmtA) : Statement (.and f) :=
  fun hw => decode_built rfl (build_a _ f _ rfl) (zero_a _ f) hw

theorem or (f : FmtA) : Statement (.or f) :=
  fun hw => decode_built rfl (build_a _ f _ rfl) (zero_a _ f) hw

theorem xor (f : FmtA) : Statement (.xor f) :=
  fun hw => decode_built rfl (build_a _ f _ rfl) (zero_a _ f) hw

theorem andn (f : FmtA) : Statement (.andn f) :=
  fun hw => decode_built rfl (build_a _ f _ rfl) (zero_a _ f) hw

theorem orn (f : FmtA) : Statement (.orn f) :=
  fun hw => decode_built rfl (build_a _ f _ rfl) (zero_a _ f) hw

theorem not (f : FmtA) : Statement (.not f) :=
  fun hw => decode_built rfl (build_a _ f _ rfl) (zero_a _ f) hw

theorem shl (f : FmtA) : Statement (.shl f) :=
  fun hw => decode_built rfl (build_a _ f _ rfl) (zero_a _ f) hw

theorem shr (f : FmtA) : Statement (.shr f) :=
  fun hw => decode_built rfl (build_a _ f _ rfl) (zero_a _ f) hw

theorem sar (f : FmtA) : Statement (.sar f) :=
  fun hw => decode_built rfl (build_a _ f _ rfl) (zero_a _ f) hw

theorem rol (f : FmtA) : Statement (.rol f) :=
  fun hw => decode_built rfl (build_a _ f _ rfl) (zero_a _ f) hw

theorem ror (f : FmtA) : Statement (.ror f) :=
  fun hw => decode_built rfl (build_a _ f _ rfl) (zero_a _ f) hw

theorem fshl (f : FmtA) : Statement (.fshl f) :=
  fun hw => decode_built rfl (build_a _ f _ rfl) (zero_a _ f) hw

theorem popc (f : FmtA) : Statement (.popc f) :=
  fun hw => decode_built rfl (build_a _ f _ rfl) (zero_a _ f) hw

theorem clz (f : FmtA) : Statement (.clz f) :=
  fun hw => decode_built rfl (build_a _ f _ rfl) (zero_a _ f) hw

theorem ctz (f : FmtA) : Statement (.ctz f) :=
  fun hw => decode_built rfl (build_a _ f _ rfl) (zero_a _ f) hw

theorem brev (f : FmtA) : Statement (.brev f) :=
  fun hw => decode_built rfl (build_a _ f _ rfl) (zero_a _ f) hw

theorem bfe (f : FmtA) : Statement (.bfe f) :=
  fun hw => decode_built rfl (build_a _ f _ rfl) (zero_a _ f) hw

theorem bfi (f : FmtA) : Statement (.bfi f) :=
  fun hw => decode_built rfl (build_a _ f _ rfl) (zero_a _ f) hw

theorem prmt (f : FmtA) : Statement (.prmt f) :=
  fun hw => decode_built rfl (build_a _ f _ rfl) (zero_a _ f) hw

theorem tst (f : FmtA) : Statement (.tst f) :=
  fun hw => decode_built rfl (build_a _ f _ rfl) (zero_a _ f) hw

theorem cmpEq (f : FmtA) : Statement (.cmpEq f) :=
  fun hw => decode_built rfl (build_a _ f _ rfl) (zero_a _ f) hw

theorem cmpNe (f : FmtA) : Statement (.cmpNe f) :=
  fun hw => decode_built rfl (build_a _ f _ rfl) (zero_a _ f) hw

theorem cmpLt (f : FmtA) : Statement (.cmpLt f) :=
  fun hw => decode_built rfl (build_a _ f _ rfl) (zero_a _ f) hw

theorem cmpLe (f : FmtA) : Statement (.cmpLe f) :=
  fun hw => decode_built rfl (build_a _ f _ rfl) (zero_a _ f) hw

theorem cmpGt (f : FmtA) : Statement (.cmpGt f) :=
  fun hw => decode_built rfl (build_a _ f _ rfl) (zero_a _ f) hw

theorem cmpGe (f : FmtA) : Statement (.cmpGe f) :=
  fun hw => decode_built rfl (build_a _ f _ rfl) (zero_a _ f) hw

theorem sel (f : FmtA) : Statement (.sel f) :=
  fun hw => decode_built rfl (build_a _ f _ rfl) (zero_a _ f) hw

theorem pand (f : FmtA) : Statement (.pand f) :=
  fun hw => decode_built rfl (build_a _ f _ rfl) (zero_a _ f) hw

theorem por (f : FmtA) : Statement (.por f) :=
  fun hw => decode_built rfl (build_a _ f _ rfl) (zero_a _ f) hw

theorem pxor (f : FmtA) : Statement (.pxor f) :=
  fun hw => decode_built rfl (build_a _ f _ rfl) (zero_a _ f) hw

theorem pnot (f : FmtA) : Statement (.pnot f) :=
  fun hw => decode_built rfl (build_a _ f _ rfl) (zero_a _ f) hw

theorem mov (f : FmtA) : Statement (.mov f) :=
  fun hw => decode_built rfl (build_a _ f _ rfl) (zero_a _ f) hw

theorem mov4 (f : FmtA) : Statement (.mov4 f) :=
  fun hw => decode_built rfl (build_a _ f _ rfl) (zero_a _ f) hw

theorem null (f : FmtA) : Statement (.null f) :=
  fun hw => decode_built rfl (build_a _ f _ rfl) (zero_a _ f) hw

theorem srd (f : FmtA) : Statement (.srd f) :=
  fun hw => decode_built rfl (build_a _ f _ rfl) (zero_a _ f) hw

theorem swr (f : FmtA) : Statement (.swr f) :=
  fun hw => decode_built rfl (build_a _ f _ rfl) (zero_a _ f) hw

theorem movi (f : FmtK) : Statement (.movi f) :=
  fun hw => decode_built rfl (build_k _ f _ rfl rfl rfl rfl rfl) (zero_k _ f) hw

theorem movhi (f : FmtK) : Statement (.movhi f) :=
  fun hw => decode_built rfl (build_k _ f _ rfl rfl rfl rfl rfl) (zero_k _ f) hw

theorem addI (f : FmtI) : Statement (.addI f) :=
  fun hw => decode_built rfl (build_i _ f _ rfl rfl) (zero_i _ f) hw

theorem subI (f : FmtI) : Statement (.subI f) :=
  fun hw => decode_built rfl (build_i _ f _ rfl rfl) (zero_i _ f) hw

theorem addsatI (f : FmtI) : Statement (.addsatI f) :=
  fun hw => decode_built rfl (build_i _ f _ rfl rfl) (zero_i _ f) hw

theorem subsatI (f : FmtI) : Statement (.subsatI f) :=
  fun hw => decode_built rfl (build_i _ f _ rfl rfl) (zero_i _ f) hw

theorem mulI (f : FmtI) : Statement (.mulI f) :=
  fun hw => decode_built rfl (build_i _ f _ rfl rfl) (zero_i _ f) hw

theorem mulhiI (f : FmtI) : Statement (.mulhiI f) :=
  fun hw => decode_built rfl (build_i _ f _ rfl rfl) (zero_i _ f) hw

theorem madI (f : FmtI) : Statement (.madI f) :=
  fun hw => decode_built rfl (build_i _ f _ rfl rfl) (zero_i _ f) hw

theorem madhiI (f : FmtI) : Statement (.madhiI f) :=
  fun hw => decode_built rfl (build_i _ f _ rfl rfl) (zero_i _ f) hw

theorem divI (f : FmtI) : Statement (.divI f) :=
  fun hw => decode_built rfl (build_i _ f _ rfl rfl) (zero_i _ f) hw

theorem remI (f : FmtI) : Statement (.remI f) :=
  fun hw => decode_built rfl (build_i _ f _ rfl rfl) (zero_i _ f) hw

theorem minI (f : FmtI) : Statement (.minI f) :=
  fun hw => decode_built rfl (build_i _ f _ rfl rfl) (zero_i _ f) hw

theorem maxI (f : FmtI) : Statement (.maxI f) :=
  fun hw => decode_built rfl (build_i _ f _ rfl rfl) (zero_i _ f) hw

theorem sadI (f : FmtI) : Statement (.sadI f) :=
  fun hw => decode_built rfl (build_i _ f _ rfl rfl) (zero_i _ f) hw

theorem leaI (f : FmtI) : Statement (.leaI f) :=
  fun hw => decode_built rfl (build_i _ f _ rfl rfl) (zero_i _ f) hw

theorem andI (f : FmtI) : Statement (.andI f) :=
  fun hw => decode_built rfl (build_i _ f _ rfl rfl) (zero_i _ f) hw

theorem orI (f : FmtI) : Statement (.orI f) :=
  fun hw => decode_built rfl (build_i _ f _ rfl rfl) (zero_i _ f) hw

theorem xorI (f : FmtI) : Statement (.xorI f) :=
  fun hw => decode_built rfl (build_i _ f _ rfl rfl) (zero_i _ f) hw

theorem andnI (f : FmtI) : Statement (.andnI f) :=
  fun hw => decode_built rfl (build_i _ f _ rfl rfl) (zero_i _ f) hw

theorem ornI (f : FmtI) : Statement (.ornI f) :=
  fun hw => decode_built rfl (build_i _ f _ rfl rfl) (zero_i _ f) hw

theorem shlI (f : FmtI) : Statement (.shlI f) :=
  fun hw => decode_built rfl (build_i _ f _ rfl rfl) (zero_i _ f) hw

theorem shrI (f : FmtI) : Statement (.shrI f) :=
  fun hw => decode_built rfl (build_i _ f _ rfl rfl) (zero_i _ f) hw

theorem sarI (f : FmtI) : Statement (.sarI f) :=
  fun hw => decode_built rfl (build_i _ f _ rfl rfl) (zero_i _ f) hw

theorem rolI (f : FmtI) : Statement (.rolI f) :=
  fun hw => decode_built rfl (build_i _ f _ rfl rfl) (zero_i _ f) hw

theorem rorI (f : FmtI) : Statement (.rorI f) :=
  fun hw => decode_built rfl (build_i _ f _ rfl rfl) (zero_i _ f) hw

theorem fshlI (f : FmtI) : Statement (.fshlI f) :=
  fun hw => decode_built rfl (build_i _ f _ rfl rfl) (zero_i _ f) hw

theorem bfeI (f : FmtI) : Statement (.bfeI f) :=
  fun hw => decode_built rfl (build_i _ f _ rfl rfl) (zero_i _ f) hw

theorem bfiI (f : FmtI) : Statement (.bfiI f) :=
  fun hw => decode_built rfl (build_i _ f _ rfl rfl) (zero_i _ f) hw

theorem prmtI (f : FmtI) : Statement (.prmtI f) :=
  fun hw => decode_built rfl (build_i _ f _ rfl rfl) (zero_i _ f) hw

theorem tstI (f : FmtI) : Statement (.tstI f) :=
  fun hw => decode_built rfl (build_i _ f _ rfl rfl) (zero_i _ f) hw

theorem cmpEqI (f : FmtI) : Statement (.cmpEqI f) :=
  fun hw => decode_built rfl (build_i _ f _ rfl rfl) (zero_i _ f) hw

theorem cmpNeI (f : FmtI) : Statement (.cmpNeI f) :=
  fun hw => decode_built rfl (build_i _ f _ rfl rfl) (zero_i _ f) hw

theorem cmpLtI (f : FmtI) : Statement (.cmpLtI f) :=
  fun hw => decode_built rfl (build_i _ f _ rfl rfl) (zero_i _ f) hw

theorem cmpLeI (f : FmtI) : Statement (.cmpLeI f) :=
  fun hw => decode_built rfl (build_i _ f _ rfl rfl) (zero_i _ f) hw

theorem cmpGtI (f : FmtI) : Statement (.cmpGtI f) :=
  fun hw => decode_built rfl (build_i _ f _ rfl rfl) (zero_i _ f) hw

theorem cmpGeI (f : FmtI) : Statement (.cmpGeI f) :=
  fun hw => decode_built rfl (build_i _ f _ rfl rfl) (zero_i _ f) hw

theorem selI (f : FmtI) : Statement (.selI f) :=
  fun hw => decode_built rfl (build_i _ f _ rfl rfl) (zero_i _ f) hw

theorem fadd (f : FmtA) : Statement (.fadd f) :=
  fun hw => decode_built rfl (build_a _ f _ rfl) (zero_a _ f) hw

theorem fsub (f : FmtA) : Statement (.fsub f) :=
  fun hw => decode_built rfl (build_a _ f _ rfl) (zero_a _ f) hw

theorem fmul (f : FmtA) : Statement (.fmul f) :=
  fun hw => decode_built rfl (build_a _ f _ rfl) (zero_a _ f) hw

theorem ffma (f : FmtA) : Statement (.ffma f) :=
  fun hw => decode_built rfl (build_a _ f _ rfl) (zero_a _ f) hw

theorem fmin (f : FmtA) : Statement (.fmin f) :=
  fun hw => decode_built rfl (build_a _ f _ rfl) (zero_a _ f) hw

theorem fmax (f : FmtA) : Statement (.fmax f) :=
  fun hw => decode_built rfl (build_a _ f _ rfl) (zero_a _ f) hw

theorem fclass (f : FmtA) : Statement (.fclass f) :=
  fun hw => decode_built rfl (build_a _ f _ rfl) (zero_a _ f) hw

theorem frcp (f : FmtA) : Statement (.frcp f) :=
  fun hw => decode_built rfl (build_a _ f _ rfl) (zero_a _ f) hw

theorem frsq (f : FmtA) : Statement (.frsq f) :=
  fun hw => decode_built rfl (build_a _ f _ rfl) (zero_a _ f) hw

theorem fsqrt (f : FmtA) : Statement (.fsqrt f) :=
  fun hw => decode_built rfl (build_a _ f _ rfl) (zero_a _ f) hw

theorem fdiv (f : FmtA) : Statement (.fdiv f) :=
  fun hw => decode_built rfl (build_a _ f _ rfl) (zero_a _ f) hw

theorem fexp2 (f : FmtA) : Statement (.fexp2 f) :=
  fun hw => decode_built rfl (build_a _ f _ rfl) (zero_a _ f) hw

theorem flog2 (f : FmtA) : Statement (.flog2 f) :=
  fun hw => decode_built rfl (build_a _ f _ rfl) (zero_a _ f) hw

theorem fsin (f : FmtA) : Statement (.fsin f) :=
  fun hw => decode_built rfl (build_a _ f _ rfl) (zero_a _ f) hw

theorem fcos (f : FmtA) : Statement (.fcos f) :=
  fun hw => decode_built rfl (build_a _ f _ rfl) (zero_a _ f) hw

theorem ftanh (f : FmtA) : Statement (.ftanh f) :=
  fun hw => decode_built rfl (build_a _ f _ rfl) (zero_a _ f) hw

theorem fcmpEq (f : FmtA) : Statement (.fcmpEq f) :=
  fun hw => decode_built rfl (build_a _ f _ rfl) (zero_a _ f) hw

theorem fcmpNe (f : FmtA) : Statement (.fcmpNe f) :=
  fun hw => decode_built rfl (build_a _ f _ rfl) (zero_a _ f) hw

theorem fcmpLt (f : FmtA) : Statement (.fcmpLt f) :=
  fun hw => decode_built rfl (build_a _ f _ rfl) (zero_a _ f) hw

theorem fcmpLe (f : FmtA) : Statement (.fcmpLe f) :=
  fun hw => decode_built rfl (build_a _ f _ rfl) (zero_a _ f) hw

theorem fcmpGt (f : FmtA) : Statement (.fcmpGt f) :=
  fun hw => decode_built rfl (build_a _ f _ rfl) (zero_a _ f) hw

theorem fcmpGe (f : FmtA) : Statement (.fcmpGe f) :=
  fun hw => decode_built rfl (build_a _ f _ rfl) (zero_a _ f) hw

theorem dadd (f : FmtA) : Statement (.dadd f) :=
  fun hw => decode_built rfl (build_a _ f _ rfl) (zero_a _ f) hw

theorem dmul (f : FmtA) : Statement (.dmul f) :=
  fun hw => decode_built rfl (build_a _ f _ rfl) (zero_a _ f) hw

theorem dfma (f : FmtA) : Statement (.dfma f) :=
  fun hw => decode_built rfl (build_a _ f _ rfl) (zero_a _ f) hw

theorem dmin (f : FmtA) : Statement (.dmin f) :=
  fun hw => decode_built rfl (build_a _ f _ rfl) (zero_a _ f) hw

theorem dmax (f : FmtA) : Statement (.dmax f) :=
  fun hw => decode_built rfl (build_a _ f _ rfl) (zero_a _ f) hw

theorem ddiv (f : FmtA) : Statement (.ddiv f) :=
  fun hw => decode_built rfl (build_a _ f _ rfl) (zero_a _ f) hw

theorem dsqrt (f : FmtA) : Statement (.dsqrt f) :=
  fun hw => decode_built rfl (build_a _ f _ rfl) (zero_a _ f) hw

theorem dcmpEq (f : FmtA) : Statement (.dcmpEq f) :=
  fun hw => decode_built rfl (build_a _ f _ rfl) (zero_a _ f) hw

theorem dcmpNe (f : FmtA) : Statement (.dcmpNe f) :=
  fun hw => decode_built rfl (build_a _ f _ rfl) (zero_a _ f) hw

theorem dcmpLt (f : FmtA) : Statement (.dcmpLt f) :=
  fun hw => decode_built rfl (build_a _ f _ rfl) (zero_a _ f) hw

theorem dcmpLe (f : FmtA) : Statement (.dcmpLe f) :=
  fun hw => decode_built rfl (build_a _ f _ rfl) (zero_a _ f) hw

theorem dcmpGt (f : FmtA) : Statement (.dcmpGt f) :=
  fun hw => decode_built rfl (build_a _ f _ rfl) (zero_a _ f) hw

theorem dcmpGe (f : FmtA) : Statement (.dcmpGe f) :=
  fun hw => decode_built rfl (build_a _ f _ rfl) (zero_a _ f) hw

theorem hadd2 (f : FmtA) : Statement (.hadd2 f) :=
  fun hw => decode_built rfl (build_a _ f _ rfl) (zero_a _ f) hw

theorem hmul2 (f : FmtA) : Statement (.hmul2 f) :=
  fun hw => decode_built rfl (build_a _ f _ rfl) (zero_a _ f) hw

theorem hfma2 (f : FmtA) : Statement (.hfma2 f) :=
  fun hw => decode_built rfl (build_a _ f _ rfl) (zero_a _ f) hw

theorem hmin2 (f : FmtA) : Statement (.hmin2 f) :=
  fun hw => decode_built rfl (build_a _ f _ rfl) (zero_a _ f) hw

theorem hmax2 (f : FmtA) : Statement (.hmax2 f) :=
  fun hw => decode_built rfl (build_a _ f _ rfl) (zero_a _ f) hw

theorem hcmp2Eq (f : FmtA) : Statement (.hcmp2Eq f) :=
  fun hw => decode_built rfl (build_a _ f _ rfl) (zero_a _ f) hw

theorem hcmp2Ne (f : FmtA) : Statement (.hcmp2Ne f) :=
  fun hw => decode_built rfl (build_a _ f _ rfl) (zero_a _ f) hw

theorem hcmp2Lt (f : FmtA) : Statement (.hcmp2Lt f) :=
  fun hw => decode_built rfl (build_a _ f _ rfl) (zero_a _ f) hw

theorem hcmp2Le (f : FmtA) : Statement (.hcmp2Le f) :=
  fun hw => decode_built rfl (build_a _ f _ rfl) (zero_a _ f) hw

theorem hcmp2Gt (f : FmtA) : Statement (.hcmp2Gt f) :=
  fun hw => decode_built rfl (build_a _ f _ rfl) (zero_a _ f) hw

theorem hcmp2Ge (f : FmtA) : Statement (.hcmp2Ge f) :=
  fun hw => decode_built rfl (build_a _ f _ rfl) (zero_a _ f) hw

theorem cvt (f : FmtA) : Statement (.cvt f) :=
  fun hw => decode_built rfl (build_a _ f _ rfl) (zero_a _ f) hw

theorem cvtpk (f : FmtA) : Statement (.cvtpk f) :=
  fun hw => decode_built rfl (build_a _ f _ rfl) (zero_a _ f) hw

theorem cvtsc (f : FmtA) : Statement (.cvtsc f) :=
  fun hw => decode_built rfl (build_a _ f _ rfl) (zero_a _ f) hw

theorem shflIdx (f : FmtA) : Statement (.shflIdx f) :=
  fun hw => decode_built rfl (build_a _ f _ rfl) (zero_a _ f) hw

theorem shflUp (f : FmtA) : Statement (.shflUp f) :=
  fun hw => decode_built rfl (build_a _ f _ rfl) (zero_a _ f) hw

theorem shflDown (f : FmtA) : Statement (.shflDown f) :=
  fun hw => decode_built rfl (build_a _ f _ rfl) (zero_a _ f) hw

theorem shflXor (f : FmtA) : Statement (.shflXor f) :=
  fun hw => decode_built rfl (build_a _ f _ rfl) (zero_a _ f) hw

theorem shflIdxI (f : FmtI) : Statement (.shflIdxI f) :=
  fun hw => decode_built rfl (build_i _ f _ rfl rfl) (zero_i _ f) hw

theorem shflUpI (f : FmtI) : Statement (.shflUpI f) :=
  fun hw => decode_built rfl (build_i _ f _ rfl rfl) (zero_i _ f) hw

theorem shflDownI (f : FmtI) : Statement (.shflDownI f) :=
  fun hw => decode_built rfl (build_i _ f _ rfl rfl) (zero_i _ f) hw

theorem shflXorI (f : FmtI) : Statement (.shflXorI f) :=
  fun hw => decode_built rfl (build_i _ f _ rfl rfl) (zero_i _ f) hw

theorem ballot (f : FmtA) : Statement (.ballot f) :=
  fun hw => decode_built rfl (build_a _ f _ rfl) (zero_a _ f) hw

theorem voteAny (f : FmtA) : Statement (.voteAny f) :=
  fun hw => decode_built rfl (build_a _ f _ rfl) (zero_a _ f) hw

theorem voteAll (f : FmtA) : Statement (.voteAll f) :=
  fun hw => decode_built rfl (build_a _ f _ rfl) (zero_a _ f) hw

theorem voteUni (f : FmtA) : Statement (.voteUni f) :=
  fun hw => decode_built rfl (build_a _ f _ rfl) (zero_a _ f) hw

theorem redux (f : FmtA) : Statement (.redux f) :=
  fun hw => decode_built rfl (build_a _ f _ rfl) (zero_a _ f) hw

theorem scan (f : FmtA) : Statement (.scan f) :=
  fun hw => decode_built rfl (build_a _ f _ rfl) (zero_a _ f) hw

theorem matchLanes (f : FmtA) : Statement (.matchLanes f) :=
  fun hw => decode_built rfl (build_a _ f _ rfl) (zero_a _ f) hw

theorem ld (f : FmtM) : Statement (.ld f) :=
  fun hw => decode_built rfl (build_m _ f _ rfl rfl rfl) (zero_m _ f) hw

theorem st (f : FmtM) : Statement (.st f) :=
  fun hw => decode_built rfl (build_m _ f _ rfl rfl rfl) (zero_m _ f) hw

theorem pref (f : FmtM) : Statement (.pref f) :=
  fun hw => decode_built rfl (build_m _ f _ rfl rfl rfl) (zero_m _ f) hw

theorem fence (f : FmtM) : Statement (.fence f) :=
  fun hw => decode_built rfl (build_m _ f _ rfl rfl rfl) (zero_m _ f) hw

theorem cinv (f : FmtM) : Statement (.cinv f) :=
  fun hw => decode_built rfl (build_m _ f _ rfl rfl rfl) (zero_m _ f) hw

theorem cwb (f : FmtM) : Statement (.cwb f) :=
  fun hw => decode_built rfl (build_m _ f _ rfl rfl rfl) (zero_m _ f) hw

theorem atomAdd (f : FmtM) : Statement (.atomAdd f) :=
  fun hw => decode_built rfl (build_m _ f _ rfl rfl rfl) (zero_m _ f) hw

theorem atomMin (f : FmtM) : Statement (.atomMin f) :=
  fun hw => decode_built rfl (build_m _ f _ rfl rfl rfl) (zero_m _ f) hw

theorem atomMax (f : FmtM) : Statement (.atomMax f) :=
  fun hw => decode_built rfl (build_m _ f _ rfl rfl rfl) (zero_m _ f) hw

theorem atomAnd (f : FmtM) : Statement (.atomAnd f) :=
  fun hw => decode_built rfl (build_m _ f _ rfl rfl rfl) (zero_m _ f) hw

theorem atomOr (f : FmtM) : Statement (.atomOr f) :=
  fun hw => decode_built rfl (build_m _ f _ rfl rfl rfl) (zero_m _ f) hw

theorem atomXor (f : FmtM) : Statement (.atomXor f) :=
  fun hw => decode_built rfl (build_m _ f _ rfl rfl rfl) (zero_m _ f) hw

theorem atomExch (f : FmtM) : Statement (.atomExch f) :=
  fun hw => decode_built rfl (build_m _ f _ rfl rfl rfl) (zero_m _ f) hw

theorem atomCas (f : FmtM) : Statement (.atomCas f) :=
  fun hw => decode_built rfl (build_m _ f _ rfl rfl rfl) (zero_m _ f) hw

theorem atomInc (f : FmtM) : Statement (.atomInc f) :=
  fun hw => decode_built rfl (build_m _ f _ rfl rfl rfl) (zero_m _ f) hw

theorem atomDec (f : FmtM) : Statement (.atomDec f) :=
  fun hw => decode_built rfl (build_m _ f _ rfl rfl rfl) (zero_m _ f) hw

theorem atomFadd (f : FmtM) : Statement (.atomFadd f) :=
  fun hw => decode_built rfl (build_m _ f _ rfl rfl rfl) (zero_m _ f) hw

theorem atomBfadd2 (f : FmtM) : Statement (.atomBfadd2 f) :=
  fun hw => decode_built rfl (build_m _ f _ rfl rfl rfl) (zero_m _ f) hw

theorem redAdd (f : FmtM) : Statement (.redAdd f) :=
  fun hw => decode_built rfl (build_m _ f _ rfl rfl rfl) (zero_m _ f) hw

theorem redMin (f : FmtM) : Statement (.redMin f) :=
  fun hw => decode_built rfl (build_m _ f _ rfl rfl rfl) (zero_m _ f) hw

theorem redMax (f : FmtM) : Statement (.redMax f) :=
  fun hw => decode_built rfl (build_m _ f _ rfl rfl rfl) (zero_m _ f) hw

theorem redAnd (f : FmtM) : Statement (.redAnd f) :=
  fun hw => decode_built rfl (build_m _ f _ rfl rfl rfl) (zero_m _ f) hw

theorem redOr (f : FmtM) : Statement (.redOr f) :=
  fun hw => decode_built rfl (build_m _ f _ rfl rfl rfl) (zero_m _ f) hw

theorem redXor (f : FmtM) : Statement (.redXor f) :=
  fun hw => decode_built rfl (build_m _ f _ rfl rfl rfl) (zero_m _ f) hw

theorem redInc (f : FmtM) : Statement (.redInc f) :=
  fun hw => decode_built rfl (build_m _ f _ rfl rfl rfl) (zero_m _ f) hw

theorem redDec (f : FmtM) : Statement (.redDec f) :=
  fun hw => decode_built rfl (build_m _ f _ rfl rfl rfl) (zero_m _ f) hw

theorem redFadd (f : FmtM) : Statement (.redFadd f) :=
  fun hw => decode_built rfl (build_m _ f _ rfl rfl rfl) (zero_m _ f) hw

theorem redBfadd2 (f : FmtM) : Statement (.redBfadd2 f) :=
  fun hw => decode_built rfl (build_m _ f _ rfl rfl rfl) (zero_m _ f) hw

theorem binit (f : FmtE) : Statement (.binit f) :=
  fun hw => decode_built rfl (build_e _ f _ rfl rfl rfl rfl) (zero_e _ f) hw

theorem bret (f : FmtE) : Statement (.bret f) :=
  fun hw => decode_built rfl (build_e _ f _ rfl rfl rfl rfl) (zero_e _ f) hw

theorem bbind (f : FmtE) : Statement (.bbind f) :=
  fun hw => decode_built rfl (build_e _ f _ rfl rfl rfl rfl) (zero_e _ f) hw

theorem barv (f : FmtE) : Statement (.barv f) :=
  fun hw => decode_built rfl (build_e _ f _ rfl rfl rfl rfl) (zero_e _ f) hw

theorem barx (f : FmtE) : Statement (.barx f) :=
  fun hw => decode_built rfl (build_e _ f _ rfl rfl rfl rfl) (zero_e _ f) hw

theorem bgen (f : FmtE) : Statement (.bgen f) :=
  fun hw => decode_built rfl (build_e _ f _ rfl rfl rfl rfl) (zero_e _ f) hw

theorem bpar (f : FmtE) : Statement (.bpar f) :=
  fun hw => decode_built rfl (build_e _ f _ rfl rfl rfl rfl) (zero_e _ f) hw

theorem bstat (f : FmtE) : Statement (.bstat f) :=
  fun hw => decode_built rfl (build_e _ f _ rfl rfl rfl rfl) (zero_e _ f) hw

theorem evbind (f : FmtE) : Statement (.evbind f) :=
  fun hw => decode_built rfl (build_e _ f _ rfl rfl rfl rfl) (zero_e _ f) hw

theorem evunb (f : FmtE) : Statement (.evunb f) :=
  fun hw => decode_built rfl (build_e _ f _ rfl rfl rfl rfl) (zero_e _ f) hw

theorem evmaskSet (f : FmtE) : Statement (.evmaskSet f) := by
  intro hw
  have hm : f.mod = 0 := by
    have h := (Bool.and_eq_true _ _).mp (show (_ && (f.mod == 0)) = true from hw)
    exact beq_iff_eq.mp h.2
  refine decode_built rfl (build_mod _ f _ rfl rfl rfl rfl rfl (by decide) (by decide) ?_) (zero_e _ f) hw
  simp [byMod, hm]

theorem evmaskClr (f : FmtE) : Statement (.evmaskClr f) := by
  intro hw
  have hm : f.mod = 1 := by
    have h := (Bool.and_eq_true _ _).mp (show (_ && (f.mod == 1)) = true from hw)
    exact beq_iff_eq.mp h.2
  refine decode_built rfl (build_mod _ f _ rfl rfl rfl rfl rfl (by decide) (by decide) ?_) (zero_e _ f) hw
  simp [byMod, hm]

theorem evmaskWr (f : FmtE) : Statement (.evmaskWr f) := by
  intro hw
  have hm : f.mod = 2 := by
    have h := (Bool.and_eq_true _ _).mp (show (_ && (f.mod == 2)) = true from hw)
    exact beq_iff_eq.mp h.2
  refine decode_built rfl (build_mod _ f _ rfl rfl rfl rfl rfl (by decide) (by decide) ?_) (zero_e _ f) hw
  simp [byMod, hm]

theorem evpost (f : FmtE) : Statement (.evpost f) :=
  fun hw => decode_built rfl (build_e _ f _ rfl rfl rfl rfl) (zero_e _ f) hw

theorem evclr (f : FmtE) : Statement (.evclr f) :=
  fun hw => decode_built rfl (build_e _ f _ rfl rfl rfl rfl) (zero_e _ f) hw

theorem waitany (f : FmtE) : Statement (.waitany f) :=
  fun hw => decode_built rfl (build_e _ f _ rfl rfl rfl rfl) (zero_e _ f) hw

theorem waitaddr (f : FmtE) : Statement (.waitaddr f) :=
  fun hw => decode_built rfl (build_e _ f _ rfl rfl rfl rfl) (zero_e _ f) hw

theorem send (f : FmtE) : Statement (.send f) :=
  fun hw => decode_built rfl (build_e _ f _ rfl rfl rfl rfl) (zero_e _ f) hw

theorem tryrecv (f : FmtE) : Statement (.tryrecv f) :=
  fun hw => decode_built rfl (build_e _ f _ rfl rfl rfl rfl) (zero_e _ f) hw

theorem mbstat (f : FmtE) : Statement (.mbstat f) :=
  fun hw => decode_built rfl (build_e _ f _ rfl rfl rfl rfl) (zero_e _ f) hw

theorem cpkick (f : FmtE) : Statement (.cpkick f) :=
  fun hw => decode_built rfl (build_e _ f _ rfl rfl rfl rfl) (zero_e _ f) hw

theorem cpstat (f : FmtE) : Statement (.cpstat f) :=
  fun hw => decode_built rfl (build_e _ f _ rfl rfl rfl rfl) (zero_e _ f) hw

theorem strbind (f : FmtE) : Statement (.strbind f) :=
  fun hw => decode_built rfl (build_e _ f _ rfl rfl rfl rfl) (zero_e _ f) hw

theorem tload (f : FmtE) : Statement (.tload f) :=
  fun hw => decode_built rfl (build_e _ f _ rfl rfl rfl rfl) (zero_e _ f) hw

theorem tstart (f : FmtE) : Statement (.tstart f) :=
  fun hw => decode_built rfl (build_e _ f _ rfl rfl rfl rfl) (zero_e _ f) hw

theorem tstop (f : FmtE) : Statement (.tstop f) :=
  fun hw => decode_built rfl (build_e _ f _ rfl rfl rfl rfl) (zero_e _ f) hw

theorem tstat (f : FmtE) : Statement (.tstat f) :=
  fun hw => decode_built rfl (build_e _ f _ rfl rfl rfl rfl) (zero_e _ f) hw

theorem ldstat (f : FmtE) : Statement (.ldstat f) :=
  fun hw => decode_built rfl (build_e _ f _ rfl rfl rfl rfl) (zero_e _ f) hw

theorem swapst (f : FmtE) : Statement (.swapst f) :=
  fun hw => decode_built rfl (build_e _ f _ rfl rfl rfl rfl) (zero_e _ f) hw

theorem mms (f : FmtE) : Statement (.mms f) :=
  fun hw => decode_built rfl (build_e _ f _ rfl rfl rfl rfl) (zero_e _ f) hw

theorem accz (f : FmtE) : Statement (.accz f) :=
  fun hw => decode_built rfl (build_e _ f _ rfl rfl rfl rfl) (zero_e _ f) hw

theorem accrd (f : FmtE) : Statement (.accrd f) :=
  fun hw => decode_built rfl (build_e _ f _ rfl rfl rfl rfl) (zero_e _ f) hw

theorem accsc (f : FmtE) : Statement (.accsc f) :=
  fun hw => decode_built rfl (build_e _ f _ rfl rfl rfl rfl) (zero_e _ f) hw

theorem accld (f : FmtE) : Statement (.accld f) :=
  fun hw => decode_built rfl (build_e _ f _ rfl rfl rfl rfl) (zero_e _ f) hw

theorem mestat (f : FmtE) : Statement (.mestat f) :=
  fun hw => decode_built rfl (build_e _ f _ rfl rfl rfl rfl) (zero_e _ f) hw

theorem br (f : FmtX) : Statement (.br f) :=
  fun hw => decode_built rfl (build_x _ f _ rfl) (zero_x _ _ f) hw

theorem bri (f : FmtX) : Statement (.bri f) :=
  fun hw => decode_built rfl (build_x _ f _ rfl) (zero_x _ _ f) hw

theorem call (f : FmtX) : Statement (.call f) :=
  fun hw => decode_built rfl (build_x _ f _ rfl) (zero_x _ _ f) hw

theorem calli (f : FmtX) : Statement (.calli f) :=
  fun hw => decode_built rfl (build_x _ f _ rfl) (zero_x _ _ f) hw

theorem ret (f : FmtX) : Statement (.ret f) :=
  fun hw => decode_built rfl (build_x _ f _ rfl) (zero_x _ _ f) hw

theorem halt (f : FmtX) : Statement (.halt f) :=
  fun hw => decode_built rfl (build_x _ f _ rfl) (zero_x _ _ f) hw

theorem trap (f : FmtX) : Statement (.trap f) :=
  fun hw => decode_built rfl (build_x _ f _ rfl) (zero_x _ _ f) hw

theorem brk (f : FmtX) : Statement (.brk f) :=
  fun hw => decode_built rfl (build_x _ f _ rfl) (zero_x _ _ f) hw

theorem launch (f : FmtE) : Statement (.launch f) :=
  fun hw => decode_built rfl (build_e _ f _ rfl rfl rfl rfl) (zero_e _ f) hw

theorem lstat (f : FmtE) : Statement (.lstat f) :=
  fun hw => decode_built rfl (build_e _ f _ rfl rfl rfl rfl) (zero_e _ f) hw

theorem leaseSet (f : FmtE) : Statement (.leaseSet f) := by
  intro hw
  have hm : f.mod = 0 := by
    have h := (Bool.and_eq_true _ _).mp (show (_ && (f.mod == 0)) = true from hw)
    exact beq_iff_eq.mp h.2
  refine decode_built rfl (build_mod _ f _ rfl rfl rfl rfl rfl (by decide) (by decide) ?_) (zero_e _ f) hw
  simp [byMod, hm]

theorem leaseMeas (f : FmtE) : Statement (.leaseMeas f) := by
  intro hw
  have hm : f.mod = 1 := by
    have h := (Bool.and_eq_true _ _).mp (show (_ && (f.mod == 1)) = true from hw)
    exact beq_iff_eq.mp h.2
  refine decode_built rfl (build_mod _ f _ rfl rfl rfl rfl rfl (by decide) (by decide) ?_) (zero_e _ f) hw
  simp [byMod, hm]

theorem snap (f : FmtE) : Statement (.snap f) :=
  fun hw => decode_built rfl (build_e _ f _ rfl rfl rfl rfl) (zero_e _ f) hw

theorem tret (f : FmtE) : Statement (.tret f) :=
  fun hw => decode_built rfl (build_e _ f _ rfl rfl rfl rfl) (zero_e _ f) hw

theorem injCode (f : FmtE) : Statement (.injCode f) := by
  intro hw
  have hm : f.mod = 0 := by
    have h := (Bool.and_eq_true _ _).mp (show (_ && (f.mod == 0)) = true from hw)
    exact beq_iff_eq.mp h.2
  refine decode_built rfl (build_mod _ f _ rfl rfl rfl rfl rfl (by decide) (by decide) ?_) (zero_e _ f) hw
  simp [byMod, hm]

theorem injData (f : FmtE) : Statement (.injData f) := by
  intro hw
  have hm : f.mod = 1 := by
    have h := (Bool.and_eq_true _ _).mp (show (_ && (f.mod == 1)) = true from hw)
    exact beq_iff_eq.mp h.2
  refine decode_built rfl (build_mod _ f _ rfl rfl rfl rfl rfl (by decide) (by decide) ?_) (zero_e _ f) hw
  simp [byMod, hm]

theorem esc (k : BitVec 4) (f : FmtA) : Statement (.esc k f) :=
  fun hw => decode_built rfl (build_esc k f) (zero_a _ f) hw

theorem elemAdd (x : ElemWord) : Statement (.elemAdd x) :=
  fun hw => decode_elem (i := .elemAdd x) _ rfl rfl rfl rfl hw

theorem elemSub (x : ElemWord) : Statement (.elemSub x) :=
  fun hw => decode_elem (i := .elemSub x) _ rfl rfl rfl rfl hw

theorem elemMul (x : ElemWord) : Statement (.elemMul x) :=
  fun hw => decode_elem (i := .elemMul x) _ rfl rfl rfl rfl hw

theorem elemFadd (x : ElemWord) : Statement (.elemFadd x) :=
  fun hw => decode_elem (i := .elemFadd x) _ rfl rfl rfl rfl hw

theorem elemFmul (x : ElemWord) : Statement (.elemFmul x) :=
  fun hw => decode_elem (i := .elemFmul x) _ rfl rfl rfl rfl hw

theorem elemFfma (x : ElemWord) : Statement (.elemFfma x) :=
  fun hw => decode_elem (i := .elemFfma x) _ rfl rfl rfl rfl hw

theorem elemAnd (x : ElemWord) : Statement (.elemAnd x) :=
  fun hw => decode_elem (i := .elemAnd x) _ rfl rfl rfl rfl hw

theorem elemOr (x : ElemWord) : Statement (.elemOr x) :=
  fun hw => decode_elem (i := .elemOr x) _ rfl rfl rfl rfl hw

theorem elemXor (x : ElemWord) : Statement (.elemXor x) :=
  fun hw => decode_elem (i := .elemXor x) _ rfl rfl rfl rfl hw

theorem elemShl (x : ElemWord) : Statement (.elemShl x) :=
  fun hw => decode_elem (i := .elemShl x) _ rfl rfl rfl rfl hw

theorem elemShr (x : ElemWord) : Statement (.elemShr x) :=
  fun hw => decode_elem (i := .elemShr x) _ rfl rfl rfl rfl hw

theorem elemCmpeq (x : ElemWord) : Statement (.elemCmpeq x) :=
  fun hw => decode_elem (i := .elemCmpeq x) _ rfl rfl rfl rfl hw

theorem elemCmplt (x : ElemWord) : Statement (.elemCmplt x) :=
  fun hw => decode_elem (i := .elemCmplt x) _ rfl rfl rfl rfl hw

theorem elemCmpltn (x : ElemWord) : Statement (.elemCmpltn x) :=
  fun hw => decode_elem (i := .elemCmpltn x) _ rfl rfl rfl rfl hw

theorem elemMin (x : ElemWord) : Statement (.elemMin x) :=
  fun hw => decode_elem (i := .elemMin x) _ rfl rfl rfl rfl hw

theorem elemMax (x : ElemWord) : Statement (.elemMax x) :=
  fun hw => decode_elem (i := .elemMax x) _ rfl rfl rfl rfl hw

theorem elemSel (x : ElemWord) : Statement (.elemSel x) :=
  fun hw => decode_elem (i := .elemSel x) _ rfl rfl rfl rfl hw

theorem elemMov (x : ElemWord) : Statement (.elemMov x) :=
  fun hw => decode_elem (i := .elemMov x) _ rfl rfl rfl rfl hw

theorem elemDeq (x : ElemWord) : Statement (.elemDeq x) :=
  fun hw => decode_elem (i := .elemDeq x) _ rfl rfl rfl rfl hw

theorem elemTag (x : ElemWord) : Statement (.elemTag x) :=
  fun hw => decode_elem (i := .elemTag x) _ rfl rfl rfl rfl hw

theorem elemPset (x : ElemWord) : Statement (.elemPset x) :=
  fun hw => decode_elem (i := .elemPset x) _ rfl rfl rfl rfl hw

theorem elemPclr (x : ElemWord) : Statement (.elemPclr x) :=
  fun hw => decode_elem (i := .elemPclr x) _ rfl rfl rfl rfl hw

theorem elemCnt (x : ElemWord) : Statement (.elemCnt x) :=
  fun hw => decode_elem (i := .elemCnt x) _ rfl rfl rfl rfl hw

theorem elemLd (x : ElemWord) : Statement (.elemLd x) :=
  fun hw => decode_elem (i := .elemLd x) _ rfl rfl rfl rfl hw

theorem elemSt (x : ElemWord) : Statement (.elemSt x) :=
  fun hw => decode_elem (i := .elemSt x) _ rfl rfl rfl rfl hw

theorem elemTas (x : ElemWord) : Statement (.elemTas x) :=
  fun hw => decode_elem (i := .elemTas x) _ rfl rfl rfl rfl hw

theorem elemUpd (x : ElemWord) : Statement (.elemUpd x) :=
  fun hw => decode_elem (i := .elemUpd x) _ rfl rfl rfl rfl hw

theorem elemGen (x : ElemWord) : Statement (.elemGen x) :=
  fun hw => decode_elem (i := .elemGen x) _ rfl rfl rfl rfl hw

theorem elemSteer (x : ElemWord) : Statement (.elemSteer x) :=
  fun hw => decode_elem (i := .elemSteer x) _ rfl rfl rfl rfl hw

theorem elemMerge (x : ElemWord) : Statement (.elemMerge x) :=
  fun hw => decode_elem (i := .elemMerge x) _ rfl rfl rfl rfl hw

theorem elemJoin (x : ElemWord) : Statement (.elemJoin x) :=
  fun hw => decode_elem (i := .elemJoin x) _ rfl rfl rfl rfl hw

theorem elemErr (x : ElemWord) : Statement (.elemErr x) :=
  fun hw => decode_elem (i := .elemErr x) _ rfl rfl rfl rfl hw

theorem tokenHop (e : ElemId) (k : Nat) : Statement (.tokenHop e k) :=
  fun _ _ _ h => nomatch h

theorem planeLoadComplete (bay : Nat) : Statement (.planeLoadComplete bay) :=
  fun _ _ _ h => nomatch h

theorem rcRegisterRead (ofs size : Nat) : Statement (.rcRegisterRead ofs size) :=
  fun _ _ _ h => nomatch h

theorem fusedMinimumRaise (comp value : Nat) : Statement (.fusedMinimumRaise comp value) :=
  fun _ _ _ h => nomatch h

theorem softError (e : SoftError) : Statement (.softError e) :=
  fun _ _ _ h => nomatch h

end DecodesBack

end Sys2Proof.Laws
end

