-- ==== Sys2Proof/Laws/State.lean ====
section
/-! SUPPORT. What each named update of a state leaves in each field: one lemma for each field and update. -/

namespace Sys2Proof.Machine

/-! ## setBay -/

@[simp] theorem State.setBay_now (s : State) (b : Nat) (x : Bay) : (s.setBay b x).now = s.now := rfl
@[simp] theorem State.setBay_coldAt (s : State) (b : Nat) (x : Bay) : (s.setBay b x).coldAt = s.coldAt := rfl
@[simp] theorem State.setBay_inbox (s : State) (b : Nat) (x : Bay) : (s.setBay b x).inbox = s.inbox := rfl
@[simp] theorem State.setBay_agenda (s : State) (b : Nat) (x : Bay) : (s.setBay b x).agenda = s.agenda := rfl
@[simp] theorem State.setBay_cur (s : State) (b : Nat) (x : Bay) : (s.setBay b x).cur = s.cur := rfl
@[simp] theorem State.setBay_replies (s : State) (b : Nat) (x : Bay) : (s.setBay b x).replies = s.replies := rfl
@[simp] theorem State.setBay_irqs (s : State) (b : Nat) (x : Bay) : (s.setBay b x).irqs = s.irqs := rfl
@[simp] theorem State.setBay_msix (s : State) (b : Nat) (x : Bay) : (s.setBay b x).msix = s.msix := rfl
@[simp] theorem State.setBay_pend (s : State) (b : Nat) (x : Bay) : (s.setBay b x).pend = s.pend := rfl
@[simp] theorem State.setBay_mem (s : State) (b : Nat) (x : Bay) : (s.setBay b x).mem = s.mem := rfl
@[simp] theorem State.setBay_merges (s : State) (b : Nat) (x : Bay) : (s.setBay b x).merges = s.merges := rfl
@[simp] theorem State.setBay_holdSeq (s : State) (b : Nat) (x : Bay) : (s.setBay b x).holdSeq = s.holdSeq := rfl
@[simp] theorem State.setBay_reports (s : State) (b : Nat) (x : Bay) : (s.setBay b x).reports = s.reports := rfl
@[simp] theorem State.setBay_grids (s : State) (b : Nat) (x : Bay) : (s.setBay b x).grids = s.grids := rfl
@[simp] theorem State.setBay_nextGid (s : State) (b : Nat) (x : Bay) : (s.setBay b x).nextGid = s.nextGid := rfl
@[simp] theorem State.setBay_pool (s : State) (b : Nat) (x : Bay) : (s.setBay b x).pool = s.pool := rfl
@[simp] theorem State.setBay_devQueue (s : State) (b : Nat) (x : Bay) : (s.setBay b x).devQueue = s.devQueue := rfl
@[simp] theorem State.setBay_handlers (s : State) (b : Nat) (x : Bay) : (s.setBay b x).handlers = s.handlers := rfl
@[simp] theorem State.setBay_queues (s : State) (b : Nat) (x : Bay) : (s.setBay b x).queues = s.queues := rfl
@[simp] theorem State.setBay_resv (s : State) (b : Nat) (x : Bay) : (s.setBay b x).resv = s.resv := rfl
@[simp] theorem State.setBay_lastBent (s : State) (b : Nat) (x : Bay) : (s.setBay b x).lastBent = s.lastBent := rfl
@[simp] theorem State.setBay_resvInt (s : State) (b : Nat) (x : Bay) : (s.setBay b x).resvInt = s.resvInt := rfl
@[simp] theorem State.setBay_bfill (s : State) (b : Nat) (x : Bay) : (s.setBay b x).bfill = s.bfill := rfl
@[simp] theorem State.setBay_bar2 (s : State) (b : Nat) (x : Bay) : (s.setBay b x).bar2 = s.bar2 := rfl
@[simp] theorem State.setBay_vl (s : State) (b : Nat) (x : Bay) : (s.setBay b x).vl = s.vl := rfl
@[simp] theorem State.setBay_ctxs (s : State) (b : Nat) (x : Bay) : (s.setBay b x).ctxs = s.ctxs := rfl
@[simp] theorem State.setBay_tlb (s : State) (b : Nat) (x : Bay) : (s.setBay b x).tlb = s.tlb := rfl
@[simp] theorem State.setBay_walks (s : State) (b : Nat) (x : Bay) : (s.setBay b x).walks = s.walks := rfl
@[simp] theorem State.setBay_poisoned (s : State) (b : Nat) (x : Bay) : (s.setBay b x).poisoned = s.poisoned := rfl
@[simp] theorem State.setBay_recs (s : State) (b : Nat) (x : Bay) : (s.setBay b x).recs = s.recs := rfl
@[simp] theorem State.setBay_recNum (s : State) (b : Nat) (x : Bay) : (s.setBay b x).recNum = s.recNum := rfl
@[simp] theorem State.setBay_saved (s : State) (b : Nat) (x : Bay) : (s.setBay b x).saved = s.saved := rfl
@[simp] theorem State.setBay_fw (s : State) (b : Nat) (x : Bay) : (s.setBay b x).fw = s.fw := rfl
@[simp] theorem State.setBay_power (s : State) (b : Nat) (x : Bay) : (s.setBay b x).power = s.power := rfl
@[simp] theorem State.setBay_rel (s : State) (b : Nat) (x : Bay) : (s.setBay b x).rel = s.rel := rfl
@[simp] theorem State.setBay_sills (s : State) (b : Nat) (x : Bay) : (s.setBay b x).sills = s.sills := rfl
@[simp] theorem State.setBay_spares (s : State) (b : Nat) (x : Bay) : (s.setBay b x).spares = s.spares := rfl
@[simp] theorem State.setBay_links (s : State) (b : Nat) (x : Bay) : (s.setBay b x).links = s.links := rfl
@[simp] theorem State.setBay_dieLinks (s : State) (b : Nat) (x : Bay) : (s.setBay b x).dieLinks = s.dieLinks := rfl
@[simp] theorem State.setBay_snap (s : State) (b : Nat) (x : Bay) : (s.setBay b x).snap = s.snap := rfl
@[simp] theorem State.setBay_modules (s : State) (b : Nat) (x : Bay) : (s.setBay b x).modules = s.modules := rfl
@[simp] theorem State.setBay_bindings (s : State) (b : Nat) (x : Bay) : (s.setBay b x).bindings = s.bindings := rfl
@[simp] theorem State.setBay_decls (s : State) (b : Nat) (x : Bay) : (s.setBay b x).decls = s.decls := rfl
@[simp] theorem State.setBay_free (s : State) (b : Nat) (x : Bay) : (s.setBay b x).free = s.free := rfl

/-! ## modBay -/

@[simp] theorem State.modBay_now (s : State) (b : Nat) (f : Bay → Bay) : (s.modBay b f).now = s.now := rfl
@[simp] theorem State.modBay_coldAt (s : State) (b : Nat) (f : Bay → Bay) : (s.modBay b f).coldAt = s.coldAt := rfl
@[simp] theorem State.modBay_inbox (s : State) (b : Nat) (f : Bay → Bay) : (s.modBay b f).inbox = s.inbox := rfl
@[simp] theorem State.modBay_agenda (s : State) (b : Nat) (f : Bay → Bay) : (s.modBay b f).agenda = s.agenda := rfl
@[simp] theorem State.modBay_cur (s : State) (b : Nat) (f : Bay → Bay) : (s.modBay b f).cur = s.cur := rfl
@[simp] theorem State.modBay_replies (s : State) (b : Nat) (f : Bay → Bay) : (s.modBay b f).replies = s.replies := rfl
@[simp] theorem State.modBay_irqs (s : State) (b : Nat) (f : Bay → Bay) : (s.modBay b f).irqs = s.irqs := rfl
@[simp] theorem State.modBay_msix (s : State) (b : Nat) (f : Bay → Bay) : (s.modBay b f).msix = s.msix := rfl
@[simp] theorem State.modBay_pend (s : State) (b : Nat) (f : Bay → Bay) : (s.modBay b f).pend = s.pend := rfl
@[simp] theorem State.modBay_mem (s : State) (b : Nat) (f : Bay → Bay) : (s.modBay b f).mem = s.mem := rfl
@[simp] theorem State.modBay_merges (s : State) (b : Nat) (f : Bay → Bay) : (s.modBay b f).merges = s.merges := rfl
@[simp] theorem State.modBay_holdSeq (s : State) (b : Nat) (f : Bay → Bay) : (s.modBay b f).holdSeq = s.holdSeq := rfl
@[simp] theorem State.modBay_reports (s : State) (b : Nat) (f : Bay → Bay) : (s.modBay b f).reports = s.reports := rfl
@[simp] theorem State.modBay_grids (s : State) (b : Nat) (f : Bay → Bay) : (s.modBay b f).grids = s.grids := rfl
@[simp] theorem State.modBay_nextGid (s : State) (b : Nat) (f : Bay → Bay) : (s.modBay b f).nextGid = s.nextGid := rfl
@[simp] theorem State.modBay_pool (s : State) (b : Nat) (f : Bay → Bay) : (s.modBay b f).pool = s.pool := rfl
@[simp] theorem State.modBay_devQueue (s : State) (b : Nat) (f : Bay → Bay) : (s.modBay b f).devQueue = s.devQueue := rfl
@[simp] theorem State.modBay_handlers (s : State) (b : Nat) (f : Bay → Bay) : (s.modBay b f).handlers = s.handlers := rfl
@[simp] theorem State.modBay_queues (s : State) (b : Nat) (f : Bay → Bay) : (s.modBay b f).queues = s.queues := rfl
@[simp] theorem State.modBay_resv (s : State) (b : Nat) (f : Bay → Bay) : (s.modBay b f).resv = s.resv := rfl
@[simp] theorem State.modBay_lastBent (s : State) (b : Nat) (f : Bay → Bay) : (s.modBay b f).lastBent = s.lastBent := rfl
@[simp] theorem State.modBay_resvInt (s : State) (b : Nat) (f : Bay → Bay) : (s.modBay b f).resvInt = s.resvInt := rfl
@[simp] theorem State.modBay_bfill (s : State) (b : Nat) (f : Bay → Bay) : (s.modBay b f).bfill = s.bfill := rfl
@[simp] theorem State.modBay_bar2 (s : State) (b : Nat) (f : Bay → Bay) : (s.modBay b f).bar2 = s.bar2 := rfl
@[simp] theorem State.modBay_vl (s : State) (b : Nat) (f : Bay → Bay) : (s.modBay b f).vl = s.vl := rfl
@[simp] theorem State.modBay_ctxs (s : State) (b : Nat) (f : Bay → Bay) : (s.modBay b f).ctxs = s.ctxs := rfl
@[simp] theorem State.modBay_tlb (s : State) (b : Nat) (f : Bay → Bay) : (s.modBay b f).tlb = s.tlb := rfl
@[simp] theorem State.modBay_walks (s : State) (b : Nat) (f : Bay → Bay) : (s.modBay b f).walks = s.walks := rfl
@[simp] theorem State.modBay_poisoned (s : State) (b : Nat) (f : Bay → Bay) : (s.modBay b f).poisoned = s.poisoned := rfl
@[simp] theorem State.modBay_recs (s : State) (b : Nat) (f : Bay → Bay) : (s.modBay b f).recs = s.recs := rfl
@[simp] theorem State.modBay_recNum (s : State) (b : Nat) (f : Bay → Bay) : (s.modBay b f).recNum = s.recNum := rfl
@[simp] theorem State.modBay_saved (s : State) (b : Nat) (f : Bay → Bay) : (s.modBay b f).saved = s.saved := rfl
@[simp] theorem State.modBay_fw (s : State) (b : Nat) (f : Bay → Bay) : (s.modBay b f).fw = s.fw := rfl
@[simp] theorem State.modBay_power (s : State) (b : Nat) (f : Bay → Bay) : (s.modBay b f).power = s.power := rfl
@[simp] theorem State.modBay_rel (s : State) (b : Nat) (f : Bay → Bay) : (s.modBay b f).rel = s.rel := rfl
@[simp] theorem State.modBay_sills (s : State) (b : Nat) (f : Bay → Bay) : (s.modBay b f).sills = s.sills := rfl
@[simp] theorem State.modBay_spares (s : State) (b : Nat) (f : Bay → Bay) : (s.modBay b f).spares = s.spares := rfl
@[simp] theorem State.modBay_links (s : State) (b : Nat) (f : Bay → Bay) : (s.modBay b f).links = s.links := rfl
@[simp] theorem State.modBay_dieLinks (s : State) (b : Nat) (f : Bay → Bay) : (s.modBay b f).dieLinks = s.dieLinks := rfl
@[simp] theorem State.modBay_snap (s : State) (b : Nat) (f : Bay → Bay) : (s.modBay b f).snap = s.snap := rfl
@[simp] theorem State.modBay_modules (s : State) (b : Nat) (f : Bay → Bay) : (s.modBay b f).modules = s.modules := rfl
@[simp] theorem State.modBay_bindings (s : State) (b : Nat) (f : Bay → Bay) : (s.modBay b f).bindings = s.bindings := rfl
@[simp] theorem State.modBay_decls (s : State) (b : Nat) (f : Bay → Bay) : (s.modBay b f).decls = s.decls := rfl
@[simp] theorem State.modBay_free (s : State) (b : Nat) (f : Bay → Bay) : (s.modBay b f).free = s.free := rfl

/-! ## setWarp -/

@[simp] theorem State.setWarp_now (s : State) (w : WarpId) (x : Warp) : (s.setWarp w x).now = s.now := rfl
@[simp] theorem State.setWarp_coldAt (s : State) (w : WarpId) (x : Warp) : (s.setWarp w x).coldAt = s.coldAt := rfl
@[simp] theorem State.setWarp_inbox (s : State) (w : WarpId) (x : Warp) : (s.setWarp w x).inbox = s.inbox := rfl
@[simp] theorem State.setWarp_agenda (s : State) (w : WarpId) (x : Warp) : (s.setWarp w x).agenda = s.agenda := rfl
@[simp] theorem State.setWarp_cur (s : State) (w : WarpId) (x : Warp) : (s.setWarp w x).cur = s.cur := rfl
@[simp] theorem State.setWarp_replies (s : State) (w : WarpId) (x : Warp) : (s.setWarp w x).replies = s.replies := rfl
@[simp] theorem State.setWarp_irqs (s : State) (w : WarpId) (x : Warp) : (s.setWarp w x).irqs = s.irqs := rfl
@[simp] theorem State.setWarp_msix (s : State) (w : WarpId) (x : Warp) : (s.setWarp w x).msix = s.msix := rfl
@[simp] theorem State.setWarp_pend (s : State) (w : WarpId) (x : Warp) : (s.setWarp w x).pend = s.pend := rfl
@[simp] theorem State.setWarp_mem (s : State) (w : WarpId) (x : Warp) : (s.setWarp w x).mem = s.mem := rfl
@[simp] theorem State.setWarp_merges (s : State) (w : WarpId) (x : Warp) : (s.setWarp w x).merges = s.merges := rfl
@[simp] theorem State.setWarp_holdSeq (s : State) (w : WarpId) (x : Warp) : (s.setWarp w x).holdSeq = s.holdSeq := rfl
@[simp] theorem State.setWarp_reports (s : State) (w : WarpId) (x : Warp) : (s.setWarp w x).reports = s.reports := rfl
@[simp] theorem State.setWarp_grids (s : State) (w : WarpId) (x : Warp) : (s.setWarp w x).grids = s.grids := rfl
@[simp] theorem State.setWarp_nextGid (s : State) (w : WarpId) (x : Warp) : (s.setWarp w x).nextGid = s.nextGid := rfl
@[simp] theorem State.setWarp_pool (s : State) (w : WarpId) (x : Warp) : (s.setWarp w x).pool = s.pool := rfl
@[simp] theorem State.setWarp_devQueue (s : State) (w : WarpId) (x : Warp) : (s.setWarp w x).devQueue = s.devQueue := rfl
@[simp] theorem State.setWarp_handlers (s : State) (w : WarpId) (x : Warp) : (s.setWarp w x).handlers = s.handlers := rfl
@[simp] theorem State.setWarp_queues (s : State) (w : WarpId) (x : Warp) : (s.setWarp w x).queues = s.queues := rfl
@[simp] theorem State.setWarp_resv (s : State) (w : WarpId) (x : Warp) : (s.setWarp w x).resv = s.resv := rfl
@[simp] theorem State.setWarp_lastBent (s : State) (w : WarpId) (x : Warp) : (s.setWarp w x).lastBent = s.lastBent := rfl
@[simp] theorem State.setWarp_resvInt (s : State) (w : WarpId) (x : Warp) : (s.setWarp w x).resvInt = s.resvInt := rfl
@[simp] theorem State.setWarp_bfill (s : State) (w : WarpId) (x : Warp) : (s.setWarp w x).bfill = s.bfill := rfl
@[simp] theorem State.setWarp_bar2 (s : State) (w : WarpId) (x : Warp) : (s.setWarp w x).bar2 = s.bar2 := rfl
@[simp] theorem State.setWarp_vl (s : State) (w : WarpId) (x : Warp) : (s.setWarp w x).vl = s.vl := rfl
@[simp] theorem State.setWarp_ctxs (s : State) (w : WarpId) (x : Warp) : (s.setWarp w x).ctxs = s.ctxs := rfl
@[simp] theorem State.setWarp_tlb (s : State) (w : WarpId) (x : Warp) : (s.setWarp w x).tlb = s.tlb := rfl
@[simp] theorem State.setWarp_walks (s : State) (w : WarpId) (x : Warp) : (s.setWarp w x).walks = s.walks := rfl
@[simp] theorem State.setWarp_poisoned (s : State) (w : WarpId) (x : Warp) : (s.setWarp w x).poisoned = s.poisoned := rfl
@[simp] theorem State.setWarp_recs (s : State) (w : WarpId) (x : Warp) : (s.setWarp w x).recs = s.recs := rfl
@[simp] theorem State.setWarp_recNum (s : State) (w : WarpId) (x : Warp) : (s.setWarp w x).recNum = s.recNum := rfl
@[simp] theorem State.setWarp_saved (s : State) (w : WarpId) (x : Warp) : (s.setWarp w x).saved = s.saved := rfl
@[simp] theorem State.setWarp_fw (s : State) (w : WarpId) (x : Warp) : (s.setWarp w x).fw = s.fw := rfl
@[simp] theorem State.setWarp_power (s : State) (w : WarpId) (x : Warp) : (s.setWarp w x).power = s.power := rfl
@[simp] theorem State.setWarp_rel (s : State) (w : WarpId) (x : Warp) : (s.setWarp w x).rel = s.rel := rfl
@[simp] theorem State.setWarp_sills (s : State) (w : WarpId) (x : Warp) : (s.setWarp w x).sills = s.sills := rfl
@[simp] theorem State.setWarp_spares (s : State) (w : WarpId) (x : Warp) : (s.setWarp w x).spares = s.spares := rfl
@[simp] theorem State.setWarp_links (s : State) (w : WarpId) (x : Warp) : (s.setWarp w x).links = s.links := rfl
@[simp] theorem State.setWarp_dieLinks (s : State) (w : WarpId) (x : Warp) : (s.setWarp w x).dieLinks = s.dieLinks := rfl
@[simp] theorem State.setWarp_snap (s : State) (w : WarpId) (x : Warp) : (s.setWarp w x).snap = s.snap := rfl
@[simp] theorem State.setWarp_modules (s : State) (w : WarpId) (x : Warp) : (s.setWarp w x).modules = s.modules := rfl
@[simp] theorem State.setWarp_bindings (s : State) (w : WarpId) (x : Warp) : (s.setWarp w x).bindings = s.bindings := rfl
@[simp] theorem State.setWarp_decls (s : State) (w : WarpId) (x : Warp) : (s.setWarp w x).decls = s.decls := rfl
@[simp] theorem State.setWarp_free (s : State) (w : WarpId) (x : Warp) : (s.setWarp w x).free = s.free := rfl

/-! ## mapWarps -/

@[simp] theorem State.mapWarps_now (s : State) (f : WarpId → Warp → Warp) : (s.mapWarps f).now = s.now := rfl
@[simp] theorem State.mapWarps_coldAt (s : State) (f : WarpId → Warp → Warp) : (s.mapWarps f).coldAt = s.coldAt := rfl
@[simp] theorem State.mapWarps_inbox (s : State) (f : WarpId → Warp → Warp) : (s.mapWarps f).inbox = s.inbox := rfl
@[simp] theorem State.mapWarps_agenda (s : State) (f : WarpId → Warp → Warp) : (s.mapWarps f).agenda = s.agenda := rfl
@[simp] theorem State.mapWarps_cur (s : State) (f : WarpId → Warp → Warp) : (s.mapWarps f).cur = s.cur := rfl
@[simp] theorem State.mapWarps_replies (s : State) (f : WarpId → Warp → Warp) : (s.mapWarps f).replies = s.replies := rfl
@[simp] theorem State.mapWarps_irqs (s : State) (f : WarpId → Warp → Warp) : (s.mapWarps f).irqs = s.irqs := rfl
@[simp] theorem State.mapWarps_msix (s : State) (f : WarpId → Warp → Warp) : (s.mapWarps f).msix = s.msix := rfl
@[simp] theorem State.mapWarps_pend (s : State) (f : WarpId → Warp → Warp) : (s.mapWarps f).pend = s.pend := rfl
@[simp] theorem State.mapWarps_mem (s : State) (f : WarpId → Warp → Warp) : (s.mapWarps f).mem = s.mem := rfl
@[simp] theorem State.mapWarps_merges (s : State) (f : WarpId → Warp → Warp) : (s.mapWarps f).merges = s.merges := rfl
@[simp] theorem State.mapWarps_holdSeq (s : State) (f : WarpId → Warp → Warp) : (s.mapWarps f).holdSeq = s.holdSeq := rfl
@[simp] theorem State.mapWarps_reports (s : State) (f : WarpId → Warp → Warp) : (s.mapWarps f).reports = s.reports := rfl
@[simp] theorem State.mapWarps_grids (s : State) (f : WarpId → Warp → Warp) : (s.mapWarps f).grids = s.grids := rfl
@[simp] theorem State.mapWarps_nextGid (s : State) (f : WarpId → Warp → Warp) : (s.mapWarps f).nextGid = s.nextGid := rfl
@[simp] theorem State.mapWarps_pool (s : State) (f : WarpId → Warp → Warp) : (s.mapWarps f).pool = s.pool := rfl
@[simp] theorem State.mapWarps_devQueue (s : State) (f : WarpId → Warp → Warp) : (s.mapWarps f).devQueue = s.devQueue := rfl
@[simp] theorem State.mapWarps_handlers (s : State) (f : WarpId → Warp → Warp) : (s.mapWarps f).handlers = s.handlers := rfl
@[simp] theorem State.mapWarps_queues (s : State) (f : WarpId → Warp → Warp) : (s.mapWarps f).queues = s.queues := rfl
@[simp] theorem State.mapWarps_resv (s : State) (f : WarpId → Warp → Warp) : (s.mapWarps f).resv = s.resv := rfl
@[simp] theorem State.mapWarps_lastBent (s : State) (f : WarpId → Warp → Warp) : (s.mapWarps f).lastBent = s.lastBent := rfl
@[simp] theorem State.mapWarps_resvInt (s : State) (f : WarpId → Warp → Warp) : (s.mapWarps f).resvInt = s.resvInt := rfl
@[simp] theorem State.mapWarps_bfill (s : State) (f : WarpId → Warp → Warp) : (s.mapWarps f).bfill = s.bfill := rfl
@[simp] theorem State.mapWarps_bar2 (s : State) (f : WarpId → Warp → Warp) : (s.mapWarps f).bar2 = s.bar2 := rfl
@[simp] theorem State.mapWarps_vl (s : State) (f : WarpId → Warp → Warp) : (s.mapWarps f).vl = s.vl := rfl
@[simp] theorem State.mapWarps_ctxs (s : State) (f : WarpId → Warp → Warp) : (s.mapWarps f).ctxs = s.ctxs := rfl
@[simp] theorem State.mapWarps_tlb (s : State) (f : WarpId → Warp → Warp) : (s.mapWarps f).tlb = s.tlb := rfl
@[simp] theorem State.mapWarps_walks (s : State) (f : WarpId → Warp → Warp) : (s.mapWarps f).walks = s.walks := rfl
@[simp] theorem State.mapWarps_poisoned (s : State) (f : WarpId → Warp → Warp) : (s.mapWarps f).poisoned = s.poisoned := rfl
@[simp] theorem State.mapWarps_recs (s : State) (f : WarpId → Warp → Warp) : (s.mapWarps f).recs = s.recs := rfl
@[simp] theorem State.mapWarps_recNum (s : State) (f : WarpId → Warp → Warp) : (s.mapWarps f).recNum = s.recNum := rfl
@[simp] theorem State.mapWarps_saved (s : State) (f : WarpId → Warp → Warp) : (s.mapWarps f).saved = s.saved := rfl
@[simp] theorem State.mapWarps_fw (s : State) (f : WarpId → Warp → Warp) : (s.mapWarps f).fw = s.fw := rfl
@[simp] theorem State.mapWarps_power (s : State) (f : WarpId → Warp → Warp) : (s.mapWarps f).power = s.power := rfl
@[simp] theorem State.mapWarps_rel (s : State) (f : WarpId → Warp → Warp) : (s.mapWarps f).rel = s.rel := rfl
@[simp] theorem State.mapWarps_sills (s : State) (f : WarpId → Warp → Warp) : (s.mapWarps f).sills = s.sills := rfl
@[simp] theorem State.mapWarps_spares (s : State) (f : WarpId → Warp → Warp) : (s.mapWarps f).spares = s.spares := rfl
@[simp] theorem State.mapWarps_links (s : State) (f : WarpId → Warp → Warp) : (s.mapWarps f).links = s.links := rfl
@[simp] theorem State.mapWarps_dieLinks (s : State) (f : WarpId → Warp → Warp) : (s.mapWarps f).dieLinks = s.dieLinks := rfl
@[simp] theorem State.mapWarps_snap (s : State) (f : WarpId → Warp → Warp) : (s.mapWarps f).snap = s.snap := rfl
@[simp] theorem State.mapWarps_modules (s : State) (f : WarpId → Warp → Warp) : (s.mapWarps f).modules = s.modules := rfl
@[simp] theorem State.mapWarps_bindings (s : State) (f : WarpId → Warp → Warp) : (s.mapWarps f).bindings = s.bindings := rfl
@[simp] theorem State.mapWarps_decls (s : State) (f : WarpId → Warp → Warp) : (s.mapWarps f).decls = s.decls := rfl
@[simp] theorem State.mapWarps_free (s : State) (f : WarpId → Warp → Warp) : (s.mapWarps f).free = s.free := rfl

/-! ## modTeam -/

@[simp] theorem State.modTeam_now (s : State) (b : Nat) (k : TeamKey) (f : Team → Team) : (s.modTeam b k f).now = s.now := rfl
@[simp] theorem State.modTeam_coldAt (s : State) (b : Nat) (k : TeamKey) (f : Team → Team) : (s.modTeam b k f).coldAt = s.coldAt := rfl
@[simp] theorem State.modTeam_inbox (s : State) (b : Nat) (k : TeamKey) (f : Team → Team) : (s.modTeam b k f).inbox = s.inbox := rfl
@[simp] theorem State.modTeam_agenda (s : State) (b : Nat) (k : TeamKey) (f : Team → Team) : (s.modTeam b k f).agenda = s.agenda := rfl
@[simp] theorem State.modTeam_cur (s : State) (b : Nat) (k : TeamKey) (f : Team → Team) : (s.modTeam b k f).cur = s.cur := rfl
@[simp] theorem State.modTeam_replies (s : State) (b : Nat) (k : TeamKey) (f : Team → Team) : (s.modTeam b k f).replies = s.replies := rfl
@[simp] theorem State.modTeam_irqs (s : State) (b : Nat) (k : TeamKey) (f : Team → Team) : (s.modTeam b k f).irqs = s.irqs := rfl
@[simp] theorem State.modTeam_msix (s : State) (b : Nat) (k : TeamKey) (f : Team → Team) : (s.modTeam b k f).msix = s.msix := rfl
@[simp] theorem State.modTeam_pend (s : State) (b : Nat) (k : TeamKey) (f : Team → Team) : (s.modTeam b k f).pend = s.pend := rfl
@[simp] theorem State.modTeam_mem (s : State) (b : Nat) (k : TeamKey) (f : Team → Team) : (s.modTeam b k f).mem = s.mem := rfl
@[simp] theorem State.modTeam_merges (s : State) (b : Nat) (k : TeamKey) (f : Team → Team) : (s.modTeam b k f).merges = s.merges := rfl
@[simp] theorem State.modTeam_holdSeq (s : State) (b : Nat) (k : TeamKey) (f : Team → Team) : (s.modTeam b k f).holdSeq = s.holdSeq := rfl
@[simp] theorem State.modTeam_reports (s : State) (b : Nat) (k : TeamKey) (f : Team → Team) : (s.modTeam b k f).reports = s.reports := rfl
@[simp] theorem State.modTeam_grids (s : State) (b : Nat) (k : TeamKey) (f : Team → Team) : (s.modTeam b k f).grids = s.grids := rfl
@[simp] theorem State.modTeam_nextGid (s : State) (b : Nat) (k : TeamKey) (f : Team → Team) : (s.modTeam b k f).nextGid = s.nextGid := rfl
@[simp] theorem State.modTeam_pool (s : State) (b : Nat) (k : TeamKey) (f : Team → Team) : (s.modTeam b k f).pool = s.pool := rfl
@[simp] theorem State.modTeam_devQueue (s : State) (b : Nat) (k : TeamKey) (f : Team → Team) : (s.modTeam b k f).devQueue = s.devQueue := rfl
@[simp] theorem State.modTeam_handlers (s : State) (b : Nat) (k : TeamKey) (f : Team → Team) : (s.modTeam b k f).handlers = s.handlers := rfl
@[simp] theorem State.modTeam_queues (s : State) (b : Nat) (k : TeamKey) (f : Team → Team) : (s.modTeam b k f).queues = s.queues := rfl
@[simp] theorem State.modTeam_resv (s : State) (b : Nat) (k : TeamKey) (f : Team → Team) : (s.modTeam b k f).resv = s.resv := rfl
@[simp] theorem State.modTeam_lastBent (s : State) (b : Nat) (k : TeamKey) (f : Team → Team) : (s.modTeam b k f).lastBent = s.lastBent := rfl
@[simp] theorem State.modTeam_resvInt (s : State) (b : Nat) (k : TeamKey) (f : Team → Team) : (s.modTeam b k f).resvInt = s.resvInt := rfl
@[simp] theorem State.modTeam_bfill (s : State) (b : Nat) (k : TeamKey) (f : Team → Team) : (s.modTeam b k f).bfill = s.bfill := rfl
@[simp] theorem State.modTeam_bar2 (s : State) (b : Nat) (k : TeamKey) (f : Team → Team) : (s.modTeam b k f).bar2 = s.bar2 := rfl
@[simp] theorem State.modTeam_vl (s : State) (b : Nat) (k : TeamKey) (f : Team → Team) : (s.modTeam b k f).vl = s.vl := rfl
@[simp] theorem State.modTeam_ctxs (s : State) (b : Nat) (k : TeamKey) (f : Team → Team) : (s.modTeam b k f).ctxs = s.ctxs := rfl
@[simp] theorem State.modTeam_tlb (s : State) (b : Nat) (k : TeamKey) (f : Team → Team) : (s.modTeam b k f).tlb = s.tlb := rfl
@[simp] theorem State.modTeam_walks (s : State) (b : Nat) (k : TeamKey) (f : Team → Team) : (s.modTeam b k f).walks = s.walks := rfl
@[simp] theorem State.modTeam_poisoned (s : State) (b : Nat) (k : TeamKey) (f : Team → Team) : (s.modTeam b k f).poisoned = s.poisoned := rfl
@[simp] theorem State.modTeam_recs (s : State) (b : Nat) (k : TeamKey) (f : Team → Team) : (s.modTeam b k f).recs = s.recs := rfl
@[simp] theorem State.modTeam_recNum (s : State) (b : Nat) (k : TeamKey) (f : Team → Team) : (s.modTeam b k f).recNum = s.recNum := rfl
@[simp] theorem State.modTeam_saved (s : State) (b : Nat) (k : TeamKey) (f : Team → Team) : (s.modTeam b k f).saved = s.saved := rfl
@[simp] theorem State.modTeam_fw (s : State) (b : Nat) (k : TeamKey) (f : Team → Team) : (s.modTeam b k f).fw = s.fw := rfl
@[simp] theorem State.modTeam_power (s : State) (b : Nat) (k : TeamKey) (f : Team → Team) : (s.modTeam b k f).power = s.power := rfl
@[simp] theorem State.modTeam_rel (s : State) (b : Nat) (k : TeamKey) (f : Team → Team) : (s.modTeam b k f).rel = s.rel := rfl
@[simp] theorem State.modTeam_sills (s : State) (b : Nat) (k : TeamKey) (f : Team → Team) : (s.modTeam b k f).sills = s.sills := rfl
@[simp] theorem State.modTeam_spares (s : State) (b : Nat) (k : TeamKey) (f : Team → Team) : (s.modTeam b k f).spares = s.spares := rfl
@[simp] theorem State.modTeam_links (s : State) (b : Nat) (k : TeamKey) (f : Team → Team) : (s.modTeam b k f).links = s.links := rfl
@[simp] theorem State.modTeam_dieLinks (s : State) (b : Nat) (k : TeamKey) (f : Team → Team) : (s.modTeam b k f).dieLinks = s.dieLinks := rfl
@[simp] theorem State.modTeam_snap (s : State) (b : Nat) (k : TeamKey) (f : Team → Team) : (s.modTeam b k f).snap = s.snap := rfl
@[simp] theorem State.modTeam_modules (s : State) (b : Nat) (k : TeamKey) (f : Team → Team) : (s.modTeam b k f).modules = s.modules := rfl
@[simp] theorem State.modTeam_bindings (s : State) (b : Nat) (k : TeamKey) (f : Team → Team) : (s.modTeam b k f).bindings = s.bindings := rfl
@[simp] theorem State.modTeam_decls (s : State) (b : Nat) (k : TeamKey) (f : Team → Team) : (s.modTeam b k f).decls = s.decls := rfl
@[simp] theorem State.modTeam_free (s : State) (b : Nat) (k : TeamKey) (f : Team → Team) : (s.modTeam b k f).free = s.free := rfl

/-! ## modGrid -/

@[simp] theorem State.modGrid_now (s : State) (g : Nat) (f : Grid → Grid) : (s.modGrid g f).now = s.now := rfl
@[simp] theorem State.modGrid_coldAt (s : State) (g : Nat) (f : Grid → Grid) : (s.modGrid g f).coldAt = s.coldAt := rfl
@[simp] theorem State.modGrid_inbox (s : State) (g : Nat) (f : Grid → Grid) : (s.modGrid g f).inbox = s.inbox := rfl
@[simp] theorem State.modGrid_agenda (s : State) (g : Nat) (f : Grid → Grid) : (s.modGrid g f).agenda = s.agenda := rfl
@[simp] theorem State.modGrid_cur (s : State) (g : Nat) (f : Grid → Grid) : (s.modGrid g f).cur = s.cur := rfl
@[simp] theorem State.modGrid_replies (s : State) (g : Nat) (f : Grid → Grid) : (s.modGrid g f).replies = s.replies := rfl
@[simp] theorem State.modGrid_irqs (s : State) (g : Nat) (f : Grid → Grid) : (s.modGrid g f).irqs = s.irqs := rfl
@[simp] theorem State.modGrid_msix (s : State) (g : Nat) (f : Grid → Grid) : (s.modGrid g f).msix = s.msix := rfl
@[simp] theorem State.modGrid_pend (s : State) (g : Nat) (f : Grid → Grid) : (s.modGrid g f).pend = s.pend := rfl
@[simp] theorem State.modGrid_mem (s : State) (g : Nat) (f : Grid → Grid) : (s.modGrid g f).mem = s.mem := rfl
@[simp] theorem State.modGrid_merges (s : State) (g : Nat) (f : Grid → Grid) : (s.modGrid g f).merges = s.merges := rfl
@[simp] theorem State.modGrid_holdSeq (s : State) (g : Nat) (f : Grid → Grid) : (s.modGrid g f).holdSeq = s.holdSeq := rfl
@[simp] theorem State.modGrid_reports (s : State) (g : Nat) (f : Grid → Grid) : (s.modGrid g f).reports = s.reports := rfl
@[simp] theorem State.modGrid_bays (s : State) (g : Nat) (f : Grid → Grid) : (s.modGrid g f).bays = s.bays := rfl
@[simp] theorem State.modGrid_nextGid (s : State) (g : Nat) (f : Grid → Grid) : (s.modGrid g f).nextGid = s.nextGid := rfl
@[simp] theorem State.modGrid_pool (s : State) (g : Nat) (f : Grid → Grid) : (s.modGrid g f).pool = s.pool := rfl
@[simp] theorem State.modGrid_devQueue (s : State) (g : Nat) (f : Grid → Grid) : (s.modGrid g f).devQueue = s.devQueue := rfl
@[simp] theorem State.modGrid_handlers (s : State) (g : Nat) (f : Grid → Grid) : (s.modGrid g f).handlers = s.handlers := rfl
@[simp] theorem State.modGrid_queues (s : State) (g : Nat) (f : Grid → Grid) : (s.modGrid g f).queues = s.queues := rfl
@[simp] theorem State.modGrid_resv (s : State) (g : Nat) (f : Grid → Grid) : (s.modGrid g f).resv = s.resv := rfl
@[simp] theorem State.modGrid_lastBent (s : State) (g : Nat) (f : Grid → Grid) : (s.modGrid g f).lastBent = s.lastBent := rfl
@[simp] theorem State.modGrid_resvInt (s : State) (g : Nat) (f : Grid → Grid) : (s.modGrid g f).resvInt = s.resvInt := rfl
@[simp] theorem State.modGrid_bfill (s : State) (g : Nat) (f : Grid → Grid) : (s.modGrid g f).bfill = s.bfill := rfl
@[simp] theorem State.modGrid_bar2 (s : State) (g : Nat) (f : Grid → Grid) : (s.modGrid g f).bar2 = s.bar2 := rfl
@[simp] theorem State.modGrid_vl (s : State) (g : Nat) (f : Grid → Grid) : (s.modGrid g f).vl = s.vl := rfl
@[simp] theorem State.modGrid_ctxs (s : State) (g : Nat) (f : Grid → Grid) : (s.modGrid g f).ctxs = s.ctxs := rfl
@[simp] theorem State.modGrid_tlb (s : State) (g : Nat) (f : Grid → Grid) : (s.modGrid g f).tlb = s.tlb := rfl
@[simp] theorem State.modGrid_walks (s : State) (g : Nat) (f : Grid → Grid) : (s.modGrid g f).walks = s.walks := rfl
@[simp] theorem State.modGrid_poisoned (s : State) (g : Nat) (f : Grid → Grid) : (s.modGrid g f).poisoned = s.poisoned := rfl
@[simp] theorem State.modGrid_recs (s : State) (g : Nat) (f : Grid → Grid) : (s.modGrid g f).recs = s.recs := rfl
@[simp] theorem State.modGrid_recNum (s : State) (g : Nat) (f : Grid → Grid) : (s.modGrid g f).recNum = s.recNum := rfl
@[simp] theorem State.modGrid_saved (s : State) (g : Nat) (f : Grid → Grid) : (s.modGrid g f).saved = s.saved := rfl
@[simp] theorem State.modGrid_fw (s : State) (g : Nat) (f : Grid → Grid) : (s.modGrid g f).fw = s.fw := rfl
@[simp] theorem State.modGrid_power (s : State) (g : Nat) (f : Grid → Grid) : (s.modGrid g f).power = s.power := rfl
@[simp] theorem State.modGrid_rel (s : State) (g : Nat) (f : Grid → Grid) : (s.modGrid g f).rel = s.rel := rfl
@[simp] theorem State.modGrid_sills (s : State) (g : Nat) (f : Grid → Grid) : (s.modGrid g f).sills = s.sills := rfl
@[simp] theorem State.modGrid_spares (s : State) (g : Nat) (f : Grid → Grid) : (s.modGrid g f).spares = s.spares := rfl
@[simp] theorem State.modGrid_links (s : State) (g : Nat) (f : Grid → Grid) : (s.modGrid g f).links = s.links := rfl
@[simp] theorem State.modGrid_dieLinks (s : State) (g : Nat) (f : Grid → Grid) : (s.modGrid g f).dieLinks = s.dieLinks := rfl
@[simp] theorem State.modGrid_snap (s : State) (g : Nat) (f : Grid → Grid) : (s.modGrid g f).snap = s.snap := rfl
@[simp] theorem State.modGrid_modules (s : State) (g : Nat) (f : Grid → Grid) : (s.modGrid g f).modules = s.modules := rfl
@[simp] theorem State.modGrid_bindings (s : State) (g : Nat) (f : Grid → Grid) : (s.modGrid g f).bindings = s.bindings := rfl
@[simp] theorem State.modGrid_decls (s : State) (g : Nat) (f : Grid → Grid) : (s.modGrid g f).decls = s.decls := rfl
@[simp] theorem State.modGrid_free (s : State) (g : Nat) (f : Grid → Grid) : (s.modGrid g f).free = s.free := rfl

/-! ## modCtx -/

@[simp] theorem State.modCtx_now (s : State) (c : Nat) (f : Ctx → Ctx) : (s.modCtx c f).now = s.now := rfl
@[simp] theorem State.modCtx_coldAt (s : State) (c : Nat) (f : Ctx → Ctx) : (s.modCtx c f).coldAt = s.coldAt := rfl
@[simp] theorem State.modCtx_inbox (s : State) (c : Nat) (f : Ctx → Ctx) : (s.modCtx c f).inbox = s.inbox := rfl
@[simp] theorem State.modCtx_agenda (s : State) (c : Nat) (f : Ctx → Ctx) : (s.modCtx c f).agenda = s.agenda := rfl
@[simp] theorem State.modCtx_cur (s : State) (c : Nat) (f : Ctx → Ctx) : (s.modCtx c f).cur = s.cur := rfl
@[simp] theorem State.modCtx_replies (s : State) (c : Nat) (f : Ctx → Ctx) : (s.modCtx c f).replies = s.replies := rfl
@[simp] theorem State.modCtx_irqs (s : State) (c : Nat) (f : Ctx → Ctx) : (s.modCtx c f).irqs = s.irqs := rfl
@[simp] theorem State.modCtx_msix (s : State) (c : Nat) (f : Ctx → Ctx) : (s.modCtx c f).msix = s.msix := rfl
@[simp] theorem State.modCtx_pend (s : State) (c : Nat) (f : Ctx → Ctx) : (s.modCtx c f).pend = s.pend := rfl
@[simp] theorem State.modCtx_mem (s : State) (c : Nat) (f : Ctx → Ctx) : (s.modCtx c f).mem = s.mem := rfl
@[simp] theorem State.modCtx_merges (s : State) (c : Nat) (f : Ctx → Ctx) : (s.modCtx c f).merges = s.merges := rfl
@[simp] theorem State.modCtx_holdSeq (s : State) (c : Nat) (f : Ctx → Ctx) : (s.modCtx c f).holdSeq = s.holdSeq := rfl
@[simp] theorem State.modCtx_reports (s : State) (c : Nat) (f : Ctx → Ctx) : (s.modCtx c f).reports = s.reports := rfl
@[simp] theorem State.modCtx_bays (s : State) (c : Nat) (f : Ctx → Ctx) : (s.modCtx c f).bays = s.bays := rfl
@[simp] theorem State.modCtx_grids (s : State) (c : Nat) (f : Ctx → Ctx) : (s.modCtx c f).grids = s.grids := rfl
@[simp] theorem State.modCtx_nextGid (s : State) (c : Nat) (f : Ctx → Ctx) : (s.modCtx c f).nextGid = s.nextGid := rfl
@[simp] theorem State.modCtx_pool (s : State) (c : Nat) (f : Ctx → Ctx) : (s.modCtx c f).pool = s.pool := rfl
@[simp] theorem State.modCtx_devQueue (s : State) (c : Nat) (f : Ctx → Ctx) : (s.modCtx c f).devQueue = s.devQueue := rfl
@[simp] theorem State.modCtx_handlers (s : State) (c : Nat) (f : Ctx → Ctx) : (s.modCtx c f).handlers = s.handlers := rfl
@[simp] theorem State.modCtx_queues (s : State) (c : Nat) (f : Ctx → Ctx) : (s.modCtx c f).queues = s.queues := rfl
@[simp] theorem State.modCtx_resv (s : State) (c : Nat) (f : Ctx → Ctx) : (s.modCtx c f).resv = s.resv := rfl
@[simp] theorem State.modCtx_lastBent (s : State) (c : Nat) (f : Ctx → Ctx) : (s.modCtx c f).lastBent = s.lastBent := rfl
@[simp] theorem State.modCtx_resvInt (s : State) (c : Nat) (f : Ctx → Ctx) : (s.modCtx c f).resvInt = s.resvInt := rfl
@[simp] theorem State.modCtx_bfill (s : State) (c : Nat) (f : Ctx → Ctx) : (s.modCtx c f).bfill = s.bfill := rfl
@[simp] theorem State.modCtx_bar2 (s : State) (c : Nat) (f : Ctx → Ctx) : (s.modCtx c f).bar2 = s.bar2 := rfl
@[simp] theorem State.modCtx_vl (s : State) (c : Nat) (f : Ctx → Ctx) : (s.modCtx c f).vl = s.vl := rfl
@[simp] theorem State.modCtx_tlb (s : State) (c : Nat) (f : Ctx → Ctx) : (s.modCtx c f).tlb = s.tlb := rfl
@[simp] theorem State.modCtx_walks (s : State) (c : Nat) (f : Ctx → Ctx) : (s.modCtx c f).walks = s.walks := rfl
@[simp] theorem State.modCtx_poisoned (s : State) (c : Nat) (f : Ctx → Ctx) : (s.modCtx c f).poisoned = s.poisoned := rfl
@[simp] theorem State.modCtx_recs (s : State) (c : Nat) (f : Ctx → Ctx) : (s.modCtx c f).recs = s.recs := rfl
@[simp] theorem State.modCtx_recNum (s : State) (c : Nat) (f : Ctx → Ctx) : (s.modCtx c f).recNum = s.recNum := rfl
@[simp] theorem State.modCtx_saved (s : State) (c : Nat) (f : Ctx → Ctx) : (s.modCtx c f).saved = s.saved := rfl
@[simp] theorem State.modCtx_fw (s : State) (c : Nat) (f : Ctx → Ctx) : (s.modCtx c f).fw = s.fw := rfl
@[simp] theorem State.modCtx_power (s : State) (c : Nat) (f : Ctx → Ctx) : (s.modCtx c f).power = s.power := rfl
@[simp] theorem State.modCtx_rel (s : State) (c : Nat) (f : Ctx → Ctx) : (s.modCtx c f).rel = s.rel := rfl
@[simp] theorem State.modCtx_sills (s : State) (c : Nat) (f : Ctx → Ctx) : (s.modCtx c f).sills = s.sills := rfl
@[simp] theorem State.modCtx_spares (s : State) (c : Nat) (f : Ctx → Ctx) : (s.modCtx c f).spares = s.spares := rfl
@[simp] theorem State.modCtx_links (s : State) (c : Nat) (f : Ctx → Ctx) : (s.modCtx c f).links = s.links := rfl
@[simp] theorem State.modCtx_dieLinks (s : State) (c : Nat) (f : Ctx → Ctx) : (s.modCtx c f).dieLinks = s.dieLinks := rfl
@[simp] theorem State.modCtx_snap (s : State) (c : Nat) (f : Ctx → Ctx) : (s.modCtx c f).snap = s.snap := rfl
@[simp] theorem State.modCtx_modules (s : State) (c : Nat) (f : Ctx → Ctx) : (s.modCtx c f).modules = s.modules := rfl
@[simp] theorem State.modCtx_bindings (s : State) (c : Nat) (f : Ctx → Ctx) : (s.modCtx c f).bindings = s.bindings := rfl
@[simp] theorem State.modCtx_decls (s : State) (c : Nat) (f : Ctx → Ctx) : (s.modCtx c f).decls = s.decls := rfl
@[simp] theorem State.modCtx_free (s : State) (c : Nat) (f : Ctx → Ctx) : (s.modCtx c f).free = s.free := rfl

/-! ## modQueue -/

@[simp] theorem State.modQueue_now (s : State) (q : Nat) (f : Queue → Queue) : (s.modQueue q f).now = s.now := rfl
@[simp] theorem State.modQueue_coldAt (s : State) (q : Nat) (f : Queue → Queue) : (s.modQueue q f).coldAt = s.coldAt := rfl
@[simp] theorem State.modQueue_inbox (s : State) (q : Nat) (f : Queue → Queue) : (s.modQueue q f).inbox = s.inbox := rfl
@[simp] theorem State.modQueue_agenda (s : State) (q : Nat) (f : Queue → Queue) : (s.modQueue q f).agenda = s.agenda := rfl
@[simp] theorem State.modQueue_cur (s : State) (q : Nat) (f : Queue → Queue) : (s.modQueue q f).cur = s.cur := rfl
@[simp] theorem State.modQueue_replies (s : State) (q : Nat) (f : Queue → Queue) : (s.modQueue q f).replies = s.replies := rfl
@[simp] theorem State.modQueue_irqs (s : State) (q : Nat) (f : Queue → Queue) : (s.modQueue q f).irqs = s.irqs := rfl
@[simp] theorem State.modQueue_msix (s : State) (q : Nat) (f : Queue → Queue) : (s.modQueue q f).msix = s.msix := rfl
@[simp] theorem State.modQueue_pend (s : State) (q : Nat) (f : Queue → Queue) : (s.modQueue q f).pend = s.pend := rfl
@[simp] theorem State.modQueue_mem (s : State) (q : Nat) (f : Queue → Queue) : (s.modQueue q f).mem = s.mem := rfl
@[simp] theorem State.modQueue_merges (s : State) (q : Nat) (f : Queue → Queue) : (s.modQueue q f).merges = s.merges := rfl
@[simp] theorem State.modQueue_holdSeq (s : State) (q : Nat) (f : Queue → Queue) : (s.modQueue q f).holdSeq = s.holdSeq := rfl
@[simp] theorem State.modQueue_reports (s : State) (q : Nat) (f : Queue → Queue) : (s.modQueue q f).reports = s.reports := rfl
@[simp] theorem State.modQueue_bays (s : State) (q : Nat) (f : Queue → Queue) : (s.modQueue q f).bays = s.bays := rfl
@[simp] theorem State.modQueue_grids (s : State) (q : Nat) (f : Queue → Queue) : (s.modQueue q f).grids = s.grids := rfl
@[simp] theorem State.modQueue_nextGid (s : State) (q : Nat) (f : Queue → Queue) : (s.modQueue q f).nextGid = s.nextGid := rfl
@[simp] theorem State.modQueue_pool (s : State) (q : Nat) (f : Queue → Queue) : (s.modQueue q f).pool = s.pool := rfl
@[simp] theorem State.modQueue_devQueue (s : State) (q : Nat) (f : Queue → Queue) : (s.modQueue q f).devQueue = s.devQueue := rfl
@[simp] theorem State.modQueue_handlers (s : State) (q : Nat) (f : Queue → Queue) : (s.modQueue q f).handlers = s.handlers := rfl
@[simp] theorem State.modQueue_resv (s : State) (q : Nat) (f : Queue → Queue) : (s.modQueue q f).resv = s.resv := rfl
@[simp] theorem State.modQueue_lastBent (s : State) (q : Nat) (f : Queue → Queue) : (s.modQueue q f).lastBent = s.lastBent := rfl
@[simp] theorem State.modQueue_resvInt (s : State) (q : Nat) (f : Queue → Queue) : (s.modQueue q f).resvInt = s.resvInt := rfl
@[simp] theorem State.modQueue_bfill (s : State) (q : Nat) (f : Queue → Queue) : (s.modQueue q f).bfill = s.bfill := rfl
@[simp] theorem State.modQueue_bar2 (s : State) (q : Nat) (f : Queue → Queue) : (s.modQueue q f).bar2 = s.bar2 := rfl
@[simp] theorem State.modQueue_vl (s : State) (q : Nat) (f : Queue → Queue) : (s.modQueue q f).vl = s.vl := rfl
@[simp] theorem State.modQueue_ctxs (s : State) (q : Nat) (f : Queue → Queue) : (s.modQueue q f).ctxs = s.ctxs := rfl
@[simp] theorem State.modQueue_tlb (s : State) (q : Nat) (f : Queue → Queue) : (s.modQueue q f).tlb = s.tlb := rfl
@[simp] theorem State.modQueue_walks (s : State) (q : Nat) (f : Queue → Queue) : (s.modQueue q f).walks = s.walks := rfl
@[simp] theorem State.modQueue_poisoned (s : State) (q : Nat) (f : Queue → Queue) : (s.modQueue q f).poisoned = s.poisoned := rfl
@[simp] theorem State.modQueue_recs (s : State) (q : Nat) (f : Queue → Queue) : (s.modQueue q f).recs = s.recs := rfl
@[simp] theorem State.modQueue_recNum (s : State) (q : Nat) (f : Queue → Queue) : (s.modQueue q f).recNum = s.recNum := rfl
@[simp] theorem State.modQueue_saved (s : State) (q : Nat) (f : Queue → Queue) : (s.modQueue q f).saved = s.saved := rfl
@[simp] theorem State.modQueue_fw (s : State) (q : Nat) (f : Queue → Queue) : (s.modQueue q f).fw = s.fw := rfl
@[simp] theorem State.modQueue_power (s : State) (q : Nat) (f : Queue → Queue) : (s.modQueue q f).power = s.power := rfl
@[simp] theorem State.modQueue_rel (s : State) (q : Nat) (f : Queue → Queue) : (s.modQueue q f).rel = s.rel := rfl
@[simp] theorem State.modQueue_sills (s : State) (q : Nat) (f : Queue → Queue) : (s.modQueue q f).sills = s.sills := rfl
@[simp] theorem State.modQueue_spares (s : State) (q : Nat) (f : Queue → Queue) : (s.modQueue q f).spares = s.spares := rfl
@[simp] theorem State.modQueue_links (s : State) (q : Nat) (f : Queue → Queue) : (s.modQueue q f).links = s.links := rfl
@[simp] theorem State.modQueue_dieLinks (s : State) (q : Nat) (f : Queue → Queue) : (s.modQueue q f).dieLinks = s.dieLinks := rfl
@[simp] theorem State.modQueue_snap (s : State) (q : Nat) (f : Queue → Queue) : (s.modQueue q f).snap = s.snap := rfl
@[simp] theorem State.modQueue_modules (s : State) (q : Nat) (f : Queue → Queue) : (s.modQueue q f).modules = s.modules := rfl
@[simp] theorem State.modQueue_bindings (s : State) (q : Nat) (f : Queue → Queue) : (s.modQueue q f).bindings = s.bindings := rfl
@[simp] theorem State.modQueue_decls (s : State) (q : Nat) (f : Queue → Queue) : (s.modQueue q f).decls = s.decls := rfl
@[simp] theorem State.modQueue_free (s : State) (q : Nat) (f : Queue → Queue) : (s.modQueue q f).free = s.free := rfl

/-! ## raise -/

@[simp] theorem State.raise_now (s : State) (v : Nat) : (s.raise v).now = s.now := by rw [State.raise]; split <;> rfl
@[simp] theorem State.raise_coldAt (s : State) (v : Nat) : (s.raise v).coldAt = s.coldAt := by rw [State.raise]; split <;> rfl
@[simp] theorem State.raise_inbox (s : State) (v : Nat) : (s.raise v).inbox = s.inbox := by rw [State.raise]; split <;> rfl
@[simp] theorem State.raise_agenda (s : State) (v : Nat) : (s.raise v).agenda = s.agenda := by rw [State.raise]; split <;> rfl
@[simp] theorem State.raise_cur (s : State) (v : Nat) : (s.raise v).cur = s.cur := by rw [State.raise]; split <;> rfl
@[simp] theorem State.raise_replies (s : State) (v : Nat) : (s.raise v).replies = s.replies := by rw [State.raise]; split <;> rfl
@[simp] theorem State.raise_msix (s : State) (v : Nat) : (s.raise v).msix = s.msix := by rw [State.raise]; split <;> rfl
@[simp] theorem State.raise_mem (s : State) (v : Nat) : (s.raise v).mem = s.mem := by rw [State.raise]; split <;> rfl
@[simp] theorem State.raise_merges (s : State) (v : Nat) : (s.raise v).merges = s.merges := by rw [State.raise]; split <;> rfl
@[simp] theorem State.raise_holdSeq (s : State) (v : Nat) : (s.raise v).holdSeq = s.holdSeq := by rw [State.raise]; split <;> rfl
@[simp] theorem State.raise_reports (s : State) (v : Nat) : (s.raise v).reports = s.reports := by rw [State.raise]; split <;> rfl
@[simp] theorem State.raise_bays (s : State) (v : Nat) : (s.raise v).bays = s.bays := by rw [State.raise]; split <;> rfl
@[simp] theorem State.raise_grids (s : State) (v : Nat) : (s.raise v).grids = s.grids := by rw [State.raise]; split <;> rfl
@[simp] theorem State.raise_nextGid (s : State) (v : Nat) : (s.raise v).nextGid = s.nextGid := by rw [State.raise]; split <;> rfl
@[simp] theorem State.raise_pool (s : State) (v : Nat) : (s.raise v).pool = s.pool := by rw [State.raise]; split <;> rfl
@[simp] theorem State.raise_devQueue (s : State) (v : Nat) : (s.raise v).devQueue = s.devQueue := by rw [State.raise]; split <;> rfl
@[simp] theorem State.raise_handlers (s : State) (v : Nat) : (s.raise v).handlers = s.handlers := by rw [State.raise]; split <;> rfl
@[simp] theorem State.raise_queues (s : State) (v : Nat) : (s.raise v).queues = s.queues := by rw [State.raise]; split <;> rfl
@[simp] theorem State.raise_resv (s : State) (v : Nat) : (s.raise v).resv = s.resv := by rw [State.raise]; split <;> rfl
@[simp] theorem State.raise_lastBent (s : State) (v : Nat) : (s.raise v).lastBent = s.lastBent := by rw [State.raise]; split <;> rfl
@[simp] theorem State.raise_resvInt (s : State) (v : Nat) : (s.raise v).resvInt = s.resvInt := by rw [State.raise]; split <;> rfl
@[simp] theorem State.raise_bfill (s : State) (v : Nat) : (s.raise v).bfill = s.bfill := by rw [State.raise]; split <;> rfl
@[simp] theorem State.raise_bar2 (s : State) (v : Nat) : (s.raise v).bar2 = s.bar2 := by rw [State.raise]; split <;> rfl
@[simp] theorem State.raise_vl (s : State) (v : Nat) : (s.raise v).vl = s.vl := by rw [State.raise]; split <;> rfl
@[simp] theorem State.raise_ctxs (s : State) (v : Nat) : (s.raise v).ctxs = s.ctxs := by rw [State.raise]; split <;> rfl
@[simp] theorem State.raise_tlb (s : State) (v : Nat) : (s.raise v).tlb = s.tlb := by rw [State.raise]; split <;> rfl
@[simp] theorem State.raise_walks (s : State) (v : Nat) : (s.raise v).walks = s.walks := by rw [State.raise]; split <;> rfl
@[simp] theorem State.raise_poisoned (s : State) (v : Nat) : (s.raise v).poisoned = s.poisoned := by rw [State.raise]; split <;> rfl
@[simp] theorem State.raise_recs (s : State) (v : Nat) : (s.raise v).recs = s.recs := by rw [State.raise]; split <;> rfl
@[simp] theorem State.raise_recNum (s : State) (v : Nat) : (s.raise v).recNum = s.recNum := by rw [State.raise]; split <;> rfl
@[simp] theorem State.raise_saved (s : State) (v : Nat) : (s.raise v).saved = s.saved := by rw [State.raise]; split <;> rfl
@[simp] theorem State.raise_fw (s : State) (v : Nat) : (s.raise v).fw = s.fw := by rw [State.raise]; split <;> rfl
@[simp] theorem State.raise_power (s : State) (v : Nat) : (s.raise v).power = s.power := by rw [State.raise]; split <;> rfl
@[simp] theorem State.raise_rel (s : State) (v : Nat) : (s.raise v).rel = s.rel := by rw [State.raise]; split <;> rfl
@[simp] theorem State.raise_sills (s : State) (v : Nat) : (s.raise v).sills = s.sills := by rw [State.raise]; split <;> rfl
@[simp] theorem State.raise_spares (s : State) (v : Nat) : (s.raise v).spares = s.spares := by rw [State.raise]; split <;> rfl
@[simp] theorem State.raise_links (s : State) (v : Nat) : (s.raise v).links = s.links := by rw [State.raise]; split <;> rfl
@[simp] theorem State.raise_dieLinks (s : State) (v : Nat) : (s.raise v).dieLinks = s.dieLinks := by rw [State.raise]; split <;> rfl
@[simp] theorem State.raise_snap (s : State) (v : Nat) : (s.raise v).snap = s.snap := by rw [State.raise]; split <;> rfl
@[simp] theorem State.raise_modules (s : State) (v : Nat) : (s.raise v).modules = s.modules := by rw [State.raise]; split <;> rfl
@[simp] theorem State.raise_bindings (s : State) (v : Nat) : (s.raise v).bindings = s.bindings := by rw [State.raise]; split <;> rfl
@[simp] theorem State.raise_decls (s : State) (v : Nat) : (s.raise v).decls = s.decls := by rw [State.raise]; split <;> rfl
@[simp] theorem State.raise_free (s : State) (v : Nat) : (s.raise v).free = s.free := by rw [State.raise]; split <;> rfl

/-! ## reply -/

@[simp] theorem State.reply_now (s : State) (r : Reply) : (s.reply r).now = s.now := rfl
@[simp] theorem State.reply_coldAt (s : State) (r : Reply) : (s.reply r).coldAt = s.coldAt := rfl
@[simp] theorem State.reply_inbox (s : State) (r : Reply) : (s.reply r).inbox = s.inbox := rfl
@[simp] theorem State.reply_agenda (s : State) (r : Reply) : (s.reply r).agenda = s.agenda := rfl
@[simp] theorem State.reply_cur (s : State) (r : Reply) : (s.reply r).cur = s.cur := rfl
@[simp] theorem State.reply_irqs (s : State) (r : Reply) : (s.reply r).irqs = s.irqs := rfl
@[simp] theorem State.reply_msix (s : State) (r : Reply) : (s.reply r).msix = s.msix := rfl
@[simp] theorem State.reply_pend (s : State) (r : Reply) : (s.reply r).pend = s.pend := rfl
@[simp] theorem State.reply_mem (s : State) (r : Reply) : (s.reply r).mem = s.mem := rfl
@[simp] theorem State.reply_merges (s : State) (r : Reply) : (s.reply r).merges = s.merges := rfl
@[simp] theorem State.reply_holdSeq (s : State) (r : Reply) : (s.reply r).holdSeq = s.holdSeq := rfl
@[simp] theorem State.reply_reports (s : State) (r : Reply) : (s.reply r).reports = s.reports := rfl
@[simp] theorem State.reply_bays (s : State) (r : Reply) : (s.reply r).bays = s.bays := rfl
@[simp] theorem State.reply_grids (s : State) (r : Reply) : (s.reply r).grids = s.grids := rfl
@[simp] theorem State.reply_nextGid (s : State) (r : Reply) : (s.reply r).nextGid = s.nextGid := rfl
@[simp] theorem State.reply_pool (s : State) (r : Reply) : (s.reply r).pool = s.pool := rfl
@[simp] theorem State.reply_devQueue (s : State) (r : Reply) : (s.reply r).devQueue = s.devQueue := rfl
@[simp] theorem State.reply_handlers (s : State) (r : Reply) : (s.reply r).handlers = s.handlers := rfl
@[simp] theorem State.reply_queues (s : State) (r : Reply) : (s.reply r).queues = s.queues := rfl
@[simp] theorem State.reply_resv (s : State) (r : Reply) : (s.reply r).resv = s.resv := rfl
@[simp] theorem State.reply_lastBent (s : State) (r : Reply) : (s.reply r).lastBent = s.lastBent := rfl
@[simp] theorem State.reply_resvInt (s : State) (r : Reply) : (s.reply r).resvInt = s.resvInt := rfl
@[simp] theorem State.reply_bfill (s : State) (r : Reply) : (s.reply r).bfill = s.bfill := rfl
@[simp] theorem State.reply_bar2 (s : State) (r : Reply) : (s.reply r).bar2 = s.bar2 := rfl
@[simp] theorem State.reply_vl (s : State) (r : Reply) : (s.reply r).vl = s.vl := rfl
@[simp] theorem State.reply_ctxs (s : State) (r : Reply) : (s.reply r).ctxs = s.ctxs := rfl
@[simp] theorem State.reply_tlb (s : State) (r : Reply) : (s.reply r).tlb = s.tlb := rfl
@[simp] theorem State.reply_walks (s : State) (r : Reply) : (s.reply r).walks = s.walks := rfl
@[simp] theorem State.reply_poisoned (s : State) (r : Reply) : (s.reply r).poisoned = s.poisoned := rfl
@[simp] theorem State.reply_recs (s : State) (r : Reply) : (s.reply r).recs = s.recs := rfl
@[simp] theorem State.reply_recNum (s : State) (r : Reply) : (s.reply r).recNum = s.recNum := rfl
@[simp] theorem State.reply_saved (s : State) (r : Reply) : (s.reply r).saved = s.saved := rfl
@[simp] theorem State.reply_fw (s : State) (r : Reply) : (s.reply r).fw = s.fw := rfl
@[simp] theorem State.reply_power (s : State) (r : Reply) : (s.reply r).power = s.power := rfl
@[simp] theorem State.reply_rel (s : State) (r : Reply) : (s.reply r).rel = s.rel := rfl
@[simp] theorem State.reply_sills (s : State) (r : Reply) : (s.reply r).sills = s.sills := rfl
@[simp] theorem State.reply_spares (s : State) (r : Reply) : (s.reply r).spares = s.spares := rfl
@[simp] theorem State.reply_links (s : State) (r : Reply) : (s.reply r).links = s.links := rfl
@[simp] theorem State.reply_dieLinks (s : State) (r : Reply) : (s.reply r).dieLinks = s.dieLinks := rfl
@[simp] theorem State.reply_snap (s : State) (r : Reply) : (s.reply r).snap = s.snap := rfl
@[simp] theorem State.reply_modules (s : State) (r : Reply) : (s.reply r).modules = s.modules := rfl
@[simp] theorem State.reply_bindings (s : State) (r : Reply) : (s.reply r).bindings = s.bindings := rfl
@[simp] theorem State.reply_decls (s : State) (r : Reply) : (s.reply r).decls = s.decls := rfl
@[simp] theorem State.reply_free (s : State) (r : Reply) : (s.reply r).free = s.free := rfl

/-! ## modRegion -/

@[simp] theorem State.modRegion_now (s : State) (b : Nat) (k : TeamKey) (i : Nat) (f : Region → Region) : (s.modRegion b k i f).now = s.now := rfl
@[simp] theorem State.modRegion_coldAt (s : State) (b : Nat) (k : TeamKey) (i : Nat) (f : Region → Region) : (s.modRegion b k i f).coldAt = s.coldAt := rfl
@[simp] theorem State.modRegion_inbox (s : State) (b : Nat) (k : TeamKey) (i : Nat) (f : Region → Region) : (s.modRegion b k i f).inbox = s.inbox := rfl
@[simp] theorem State.modRegion_agenda (s : State) (b : Nat) (k : TeamKey) (i : Nat) (f : Region → Region) : (s.modRegion b k i f).agenda = s.agenda := rfl
@[simp] theorem State.modRegion_cur (s : State) (b : Nat) (k : TeamKey) (i : Nat) (f : Region → Region) : (s.modRegion b k i f).cur = s.cur := rfl
@[simp] theorem State.modRegion_replies (s : State) (b : Nat) (k : TeamKey) (i : Nat) (f : Region → Region) : (s.modRegion b k i f).replies = s.replies := rfl
@[simp] theorem State.modRegion_irqs (s : State) (b : Nat) (k : TeamKey) (i : Nat) (f : Region → Region) : (s.modRegion b k i f).irqs = s.irqs := rfl
@[simp] theorem State.modRegion_msix (s : State) (b : Nat) (k : TeamKey) (i : Nat) (f : Region → Region) : (s.modRegion b k i f).msix = s.msix := rfl
@[simp] theorem State.modRegion_pend (s : State) (b : Nat) (k : TeamKey) (i : Nat) (f : Region → Region) : (s.modRegion b k i f).pend = s.pend := rfl
@[simp] theorem State.modRegion_mem (s : State) (b : Nat) (k : TeamKey) (i : Nat) (f : Region → Region) : (s.modRegion b k i f).mem = s.mem := rfl
@[simp] theorem State.modRegion_merges (s : State) (b : Nat) (k : TeamKey) (i : Nat) (f : Region → Region) : (s.modRegion b k i f).merges = s.merges := rfl
@[simp] theorem State.modRegion_holdSeq (s : State) (b : Nat) (k : TeamKey) (i : Nat) (f : Region → Region) : (s.modRegion b k i f).holdSeq = s.holdSeq := rfl
@[simp] theorem State.modRegion_reports (s : State) (b : Nat) (k : TeamKey) (i : Nat) (f : Region → Region) : (s.modRegion b k i f).reports = s.reports := rfl
@[simp] theorem State.modRegion_grids (s : State) (b : Nat) (k : TeamKey) (i : Nat) (f : Region → Region) : (s.modRegion b k i f).grids = s.grids := rfl
@[simp] theorem State.modRegion_nextGid (s : State) (b : Nat) (k : TeamKey) (i : Nat) (f : Region → Region) : (s.modRegion b k i f).nextGid = s.nextGid := rfl
@[simp] theorem State.modRegion_pool (s : State) (b : Nat) (k : TeamKey) (i : Nat) (f : Region → Region) : (s.modRegion b k i f).pool = s.pool := rfl
@[simp] theorem State.modRegion_devQueue (s : State) (b : Nat) (k : TeamKey) (i : Nat) (f : Region → Region) : (s.modRegion b k i f).devQueue = s.devQueue := rfl
@[simp] theorem State.modRegion_handlers (s : State) (b : Nat) (k : TeamKey) (i : Nat) (f : Region → Region) : (s.modRegion b k i f).handlers = s.handlers := rfl
@[simp] theorem State.modRegion_queues (s : State) (b : Nat) (k : TeamKey) (i : Nat) (f : Region → Region) : (s.modRegion b k i f).queues = s.queues := rfl
@[simp] theorem State.modRegion_resv (s : State) (b : Nat) (k : TeamKey) (i : Nat) (f : Region → Region) : (s.modRegion b k i f).resv = s.resv := rfl
@[simp] theorem State.modRegion_lastBent (s : State) (b : Nat) (k : TeamKey) (i : Nat) (f : Region → Region) : (s.modRegion b k i f).lastBent = s.lastBent := rfl
@[simp] theorem State.modRegion_resvInt (s : State) (b : Nat) (k : TeamKey) (i : Nat) (f : Region → Region) : (s.modRegion b k i f).resvInt = s.resvInt := rfl
@[simp] theorem State.modRegion_bfill (s : State) (b : Nat) (k : TeamKey) (i : Nat) (f : Region → Region) : (s.modRegion b k i f).bfill = s.bfill := rfl
@[simp] theorem State.modRegion_bar2 (s : State) (b : Nat) (k : TeamKey) (i : Nat) (f : Region → Region) : (s.modRegion b k i f).bar2 = s.bar2 := rfl
@[simp] theorem State.modRegion_vl (s : State) (b : Nat) (k : TeamKey) (i : Nat) (f : Region → Region) : (s.modRegion b k i f).vl = s.vl := rfl
@[simp] theorem State.modRegion_ctxs (s : State) (b : Nat) (k : TeamKey) (i : Nat) (f : Region → Region) : (s.modRegion b k i f).ctxs = s.ctxs := rfl
@[simp] theorem State.modRegion_tlb (s : State) (b : Nat) (k : TeamKey) (i : Nat) (f : Region → Region) : (s.modRegion b k i f).tlb = s.tlb := rfl
@[simp] theorem State.modRegion_walks (s : State) (b : Nat) (k : TeamKey) (i : Nat) (f : Region → Region) : (s.modRegion b k i f).walks = s.walks := rfl
@[simp] theorem State.modRegion_poisoned (s : State) (b : Nat) (k : TeamKey) (i : Nat) (f : Region → Region) : (s.modRegion b k i f).poisoned = s.poisoned := rfl
@[simp] theorem State.modRegion_recs (s : State) (b : Nat) (k : TeamKey) (i : Nat) (f : Region → Region) : (s.modRegion b k i f).recs = s.recs := rfl
@[simp] theorem State.modRegion_recNum (s : State) (b : Nat) (k : TeamKey) (i : Nat) (f : Region → Region) : (s.modRegion b k i f).recNum = s.recNum := rfl
@[simp] theorem State.modRegion_saved (s : State) (b : Nat) (k : TeamKey) (i : Nat) (f : Region → Region) : (s.modRegion b k i f).saved = s.saved := rfl
@[simp] theorem State.modRegion_fw (s : State) (b : Nat) (k : TeamKey) (i : Nat) (f : Region → Region) : (s.modRegion b k i f).fw = s.fw := rfl
@[simp] theorem State.modRegion_power (s : State) (b : Nat) (k : TeamKey) (i : Nat) (f : Region → Region) : (s.modRegion b k i f).power = s.power := rfl
@[simp] theorem State.modRegion_rel (s : State) (b : Nat) (k : TeamKey) (i : Nat) (f : Region → Region) : (s.modRegion b k i f).rel = s.rel := rfl
@[simp] theorem State.modRegion_sills (s : State) (b : Nat) (k : TeamKey) (i : Nat) (f : Region → Region) : (s.modRegion b k i f).sills = s.sills := rfl
@[simp] theorem State.modRegion_spares (s : State) (b : Nat) (k : TeamKey) (i : Nat) (f : Region → Region) : (s.modRegion b k i f).spares = s.spares := rfl
@[simp] theorem State.modRegion_links (s : State) (b : Nat) (k : TeamKey) (i : Nat) (f : Region → Region) : (s.modRegion b k i f).links = s.links := rfl
@[simp] theorem State.modRegion_dieLinks (s : State) (b : Nat) (k : TeamKey) (i : Nat) (f : Region → Region) : (s.modRegion b k i f).dieLinks = s.dieLinks := rfl
@[simp] theorem State.modRegion_snap (s : State) (b : Nat) (k : TeamKey) (i : Nat) (f : Region → Region) : (s.modRegion b k i f).snap = s.snap := rfl
@[simp] theorem State.modRegion_modules (s : State) (b : Nat) (k : TeamKey) (i : Nat) (f : Region → Region) : (s.modRegion b k i f).modules = s.modules := rfl
@[simp] theorem State.modRegion_bindings (s : State) (b : Nat) (k : TeamKey) (i : Nat) (f : Region → Region) : (s.modRegion b k i f).bindings = s.bindings := rfl
@[simp] theorem State.modRegion_decls (s : State) (b : Nat) (k : TeamKey) (i : Nat) (f : Region → Region) : (s.modRegion b k i f).decls = s.decls := rfl
@[simp] theorem State.modRegion_free (s : State) (b : Nat) (k : TeamKey) (i : Nat) (f : Region → Region) : (s.modRegion b k i f).free = s.free := rfl

end Sys2Proof.Machine
end

