-- ==== Sys2Proof/Tests/Slice0.lean ====
section
/-! SUPPORT. The model's own tests: words of the spec's encodings, terms that the checks of well-formedness refuse, the
worked examples of the spec, and, for every statement of Obligations.lean that has hypotheses, a concrete state and
operands that meet them. -/

namespace Sys2Proof.Tests

set_option Elab.async false

open Sys2Proof.Machine Sys2Proof.Claims

/-! ## Words of the encodings (spec/03 Tables 3.9 to 3.14, spec/07 Tables 7.2, 7.3) -/

theorem test_decode_add : decodeNode 0x0001_C07F_F000_0000 = .ok (.add ⟨0, 1, 0x301, 0x3FF, 0, 0⟩) := by rfl
theorem test_decode_addI : decodeNode 0x2020_C03F_F000_0001 = .ok (.addI ⟨1, 0, 0x300, 0x3FF, 0, 1⟩) := by rfl
theorem test_decode_bfiI : decodeNode 0x3084_467F_F000_0104 = .ok (.bfiI ⟨0, 4, 0x119, 0x3FF, 0, 0x104⟩) := by rfl
theorem test_decode_fadd : decodeNode 0x4000_C03F_F040_0000 = .ok (.fadd ⟨0, 0, 0x300, 0x3FF, 0, 0x400000⟩) := by rfl
theorem test_decode_dmul : decodeNode 0x5080_C03F_F000_0000 = .ok (.dmul ⟨0, 0, 0x300, 0x3FF, 0, 0⟩) := by rfl
theorem test_decode_hadd2 : decodeNode 0x6000_C03F_F020_0000 = .ok (.hadd2 ⟨0, 0, 0x300, 0x3FF, 0, 0x200000⟩) := by
  rfl
theorem test_decode_cvt : decodeNode 0x780A_C03F_F000_0000 = .ok (.cvt ⟨0, 0xA, 0x300, 0x3FF, 0, 0⟩) := by rfl
theorem test_decode_shfl : decodeNode 0x7E04_C030_1000_0001 = .ok (.shflIdxI ⟨0, 4, 0x300, 0x301, 0, 1⟩) := by rfl
theorem test_decode_movi : decodeNode 0x1A00_C000_0000_00FF = .ok (.movi ⟨0, 0, 0x300, 0, 0xFF⟩) := by rfl
theorem test_decode_ld : decodeNode 0x9002_0100_0000_0000 = .ok (.ld ⟨0, 2, 4, 0, 0, 0, 0, 0, 0, 0⟩) := by rfl
theorem test_decode_waitany : decodeNode 0xBA80_FFC2_0000_0009 = .ok (.waitany ⟨0, 0, 0x3FF, 2, 0, 9⟩) := by rfl
theorem test_decode_strbind : decodeNode 0xD101_FFC1_0000_0000 = .ok (.strbind ⟨0, 1, 0x3FF, 1, 0, 0⟩) := by rfl
theorem test_decode_mms : decodeNode 0xD900_FFC0_0100_1000 = .ok (.mms ⟨0, 0, 0x3FF, 0, 1, 0x1000⟩) := by rfl
theorem test_decode_br : decodeNode 0xE000_0000_0000_0007 = .ok (.br ⟨0, 0, 7⟩) := by rfl
theorem test_decode_trap : decodeNode 0xE02E_0000_0000_F001 = .ok (.trap ⟨1, 1, 0xF001⟩) := by rfl
theorem test_decode_inj : decodeNode 0xF100_FFC0_0000_0400 = .ok (.injCode ⟨0, 0, 0x3FF, 0, 0, 0x400⟩) := by rfl
theorem test_decode_esc : decodeNode 0xF980_C03F_F000_0041 = .ok (.esc 3 ⟨0, 0, 0x300, 0x3FF, 0, 0x41⟩) := by rfl
theorem test_decode_elem_mov : decodeElem 0x0000_1028_C022_0000_0000_4000 =
    .ok (.elemMov ⟨0, 0, 1, 2, 4, 0, 1, 1, 0, 0, 0, 0, 4⟩) := by rfl
theorem test_decode_elem_add : decodeElem 0x0000_1000_0820_0000_0000_0000 =
    .ok (.elemAdd ⟨0, 0, 1, 0, 0, 4, 1, 0, 0, 0, 0, 0, 0⟩) := by rfl
theorem test_decode_elem_pclr : decodeElem 0x8080_000A_8000_0000_0000_4000 =
    .ok (.elemPclr ⟨0x80, 0x80, 0, 0, 0, 0, 0, 0, 0, 0, 0, 0, 4⟩) := by rfl
/-- n0 and n2 of the worked block of spec/03. -/
theorem test_decode_cmpLtI : decodeNode 0x3300_D074_2000_0064 = .ok (.cmpLtI ⟨0, 0, 0x341, 0x342, 0, 100⟩) := by rfl
theorem test_decode_subI : decodeNode 0x20C0_C03F_F000_0064 = .ok (.subI ⟨2, 0, 0x300, 0x3FF, 0, 100⟩) := by rfl
theorem test_decode_unassigned : decodeNode 0x1B00_0000_0000_0000 = .error .unassignedOpc := by rfl
/-- RND 0b110 is unassigned (R107); bit 0 of EXT is zero for `FADD` (R82). -/
theorem test_decode_field : decodeNode 0x4000_C03F_F180_0000 = .error .unassignedField := by rfl
theorem test_decode_reserved : decodeNode 0x4000_C03F_F000_0001 = .error .reservedBits := by rfl
theorem test_encode_trap : encode (.trap ⟨1, 1, 0xF001⟩) = some (64, 0xE02E_0000_0000_F001) := by rfl
theorem test_encode_mms : encode (.mms ⟨0, 0, 0x3FF, 0, 1, 0x1000⟩) = some (64, 0xD900_FFC0_0100_1000) := by rfl
theorem test_encode_elem_mov : encode (.elemMov ⟨0, 0, 1, 2, 4, 0, 1, 1, 0, 0, 0, 0, 4⟩) =
    some (96, 0x0000_1028_C022_0000_0000_4000) := by rfl

/-! ## Terms that are not well formed -/

/-- A 64-bit `SAD` does not exist (Table 4.1). -/
theorem test_refuses_type : (Instr.sad ⟨0, 2, 0x300, 0x3FF, 0, 0⟩).wf = false := by decide
/-- EXT of `ADD` is zero (R82). -/
theorem test_refuses_ext : (Instr.add ⟨0, 0, 0x300, 0x3FF, 0, 1⟩).wf = false := by decide
/-- Special register 0x07 does not exist (Table 3.2); 0x00 cannot be written. -/
theorem test_refuses_srd : (Instr.srd ⟨0, 4, 0x300, 0x3FF, 0, 7⟩).wf = false := by decide
theorem test_refuses_swr : (Instr.swr ⟨0, 4, 0x3FF, 0x3FF, 0, 0⟩).wf = false := by decide
theorem test_refuses_rounding : (Instr.fadd ⟨0, 0, 0x300, 0x3FF, 0, 0x1800000⟩).wf = false := by decide
theorem test_refuses_clamp : (Instr.fcmpEq ⟨0, 16, 0x300, 0x3FF, 0, 0⟩).wf = false := by decide
theorem test_refuses_redux : (Instr.redux ⟨0, 4, 0x300, 0x3FF, 0, 0⟩).wf = false := by decide
theorem test_refuses_cvtpk : (Instr.cvtpk ⟨0, 8, 0x300, 0x3FF, 0, 0xA0001⟩).wf = false := by decide
theorem test_refuses_immediate_type : (Instr.leaI ⟨0, 2, 0x300, 0x3FF, 0, 0⟩).wf = false := by decide
theorem test_refuses_movhi : (Instr.movhi ⟨0, 4, 0x300, 0, 0⟩).wf = false := by decide
/-- A plain load has no scope (R77); a store delivers nothing (Table 5.1). -/
theorem test_refuses_scope : (Instr.ld ⟨0, 2, 0x300, 0, 0, 0, 4, 0, 0, 0⟩).wf = false := by decide
theorem test_refuses_store_target : (Instr.st ⟨0, 2, 0x300, 0, 0, 0, 0, 0, 0, 0⟩).wf = false := by decide
theorem test_refuses_atom_type : (Instr.atomInc ⟨0, 3, 0x300, 0, 0, 0, 0, 0, 0, 0⟩).wf = false := by decide
theorem test_refuses_exit_bits : (Instr.halt ⟨0, 0, 1⟩).wf = false := by decide
/-- 64 rows from row 1 leave the tile (Table 6.7); the `.lps` space holds no record (R141). -/
theorem test_refuses_rows : (Instr.accz ⟨0, 0, 0x3FF, 0, 0, 0x7F⟩).wf = false := by decide
theorem test_refuses_record_space : (Instr.binit ⟨0, 0, 0x3FF, 0, 0, 1⟩).wf = false := by decide
theorem test_refuses_resource : (Instr.evpost ⟨0, 0, 0x3FF, 0, 16, 0⟩).wf = false := by decide
theorem test_refuses_wrong_mod : (Instr.evmaskClr ⟨0, 0, 0x3FF, 0, 0, 0⟩).wf = false := by decide
/-- R220: DEQ outside NEED, an unused source, an HTEST outside NEED, an LDST above 4, MERGE of one input. -/
theorem test_refuses_deq : (Instr.elemTag ⟨0, 0, 0, 0, 0, 0, 1, 0, 0, 0, 0, 0, 4⟩).wf = false := by decide
theorem test_refuses_source : (Instr.elemTag ⟨0, 0, 0, 0, 4, 0, 0, 0, 0, 0, 0, 0, 4⟩).wf = false := by decide
theorem test_refuses_htest : (Instr.elemTag ⟨0, 0, 0, 1, 0, 0, 0, 0, 0, 0, 0, 0, 4⟩).wf = false := by decide
theorem test_refuses_ldst : (Instr.elemTag ⟨0, 0, 0, 0, 0, 0, 0, 0, 0, 0, 0, 0, 5⟩).wf = false := by decide
theorem test_refuses_merge : (Instr.elemMerge ⟨0, 0, 1, 3, 0, 0, 1, 0, 0, 0, 0, 0, 4⟩).wf = false := by decide
/-- Events of agents that do not exist. -/
theorem test_refuses_bay : (Instr.leaseIntervalEnd 192).wf = false := by decide
theorem test_refuses_warp : (Instr.blockCommit ⟨0, 32, 0⟩).wf = false := by decide
theorem test_refuses_register : (Instr.registerWrite ⟨2, 4, 0⟩).wf = false := by decide

/-! ## Worked examples -/

/-- R103's examples. -/
theorem test_prmt_reverses : prmtV false 32 0x44332211 0x053 0 = 0x11223344 := by decide
theorem test_prmt_sign_extends : prmtV false 32 0x00008000 0xE249 0 = 0xFFFFFF80 := by decide
/-- R100: −2^31 / −1 and its remainder, a zero divisor. -/
theorem test_div_overflow : divV true 32 0x80000000 0xFFFFFFFF 0 = 0x80000000 := by decide
theorem test_rem_overflow : remV true 32 0x80000000 0xFFFFFFFF 0 = 0 := by decide
theorem test_div_zero : divV true 32 0xFFFFFFFE 0 0 = 0x80000000 ∧ divV false 32 5 0 0 = 0xFFFFFFFF := by decide
/-- R102: a field that runs past the top, signed. -/
theorem test_bfe_past_top : bfeV true 32 0x80000000 (0x081C) 0 = 0xFFFFFFF8 := by decide
/-- The REDUX and SCAN example after R123: 2^24, 1, 1, 2 in FP32. -/
theorem test_redux_order : reduxTree 0xA 0 ⟨0, .rne, 0⟩ 2
    [some (0x4B800000, true), some (0x3F800000, true), some (0x3F800000, true), some (0x40000000, true)] =
    some (0x4B800002, false) := by decide +kernel
theorem test_scan_order : (List.range 4).map (fun l => scanTo 0xA 0 ⟨0, .rne, 0⟩
    [(0, 0x4B800000), (1, 0x3F800000), (2, 0x3F800000), (3, 0x40000000)] (l + 1)) =
    [some 0x4B800000, some 0x4B800000, some 0x4B800000, some 0x4B800001] := by decide +kernel
/-- Table 4.7: SHFL.idx under W32, with lane 5 outside P. -/
theorem test_shfl_idx :
    let p := (List.range 32).filter (· != 5)
    [0, 2, 7, 31].map (fun l => shflLane 32 false p 0 l (l + 30)) = [some 30, some 0, none, some 29] ∧
    [0, 2, 7, 31].map (fun l => shflLane 32 true p 0 l (l + 30)) = [some 30, none, none, none] := by decide
/-- R109, R110: the one NaN, and −0 below +0. -/
theorem test_nan_sum : fpAdd f32 ⟨0, .rne, 0⟩ 0x7F800001 0x3F800000 0 = 0x7FC00000 := by decide +kernel
theorem test_min_zeros : fpPick true f32 ⟨0, .rne, 0⟩ 0 0x80000000 0 = 0x80000000 := by decide +kernel
/-- R92: the code of a word, and a word that differs in one bit. -/
theorem test_code : good (fresh 0x12345678) = true ∧ good ⟨0x12345679, lcc 0x12345678, false⟩ = false := by decide +kernel
/-- R395's worked example. -/
theorem test_power_example :
    domainGrants { Power.reset with lim := 2000 } [400, 400, 300, 100, 550, 480] = [290, 290, 290, 100, 550, 480] := by
  decide +kernel

/-! ## States that meet the statements' hypotheses: nodes

`at i` is the state after reset with node i placed in a dispatched block of warp 0 of bay 0, its operands delivered for
lane 0, and `cur` naming it. -/

/-- Warp slot 0 of bay 0. -/
def w0 : WarpId := ⟨0, 0, 0⟩

/-- The state in which a node's instruction is the next to run. -/
def at_ (i : Instr) : State :=
  { State.reset.withFetchWord 64 ((encodeNode i).getD 0).toNat with cur := .node w0 0, agenda := [] }

/-- Its warp. -/
def warpAt (s : State) : Warp := (s.warp? w0).getD oneWarp

/-- Its block. -/
def blkAt (s : State) : Blk := (warpAt s).blk.getD (oneBlock 0 0 0)

/-- Operand slot `which` of node 0 holds a token for lane 0. -/
def withTok (s : State) (which : Nat) (t : Tok) : State :=
  s.putBlk w0 { blkAt s with slots := aset (blkAt s).slots (slotKey which 0) ⟨1, 1, [(0, t)]⟩ }

/-- `Fires` for node 0, as a test. -/
def firesB (s : State) : Bool :=
  decide (s.cur = .node w0 0) && decide (s.warp? w0 = some (warpAt s)) && decide ((warpAt s).blk = some (blkAt s)) &&
    decide ((warpAt s).park = .running) && mayRun (warpAt s) s.now && mayFireNode (blkAt s) 0

/-- `GoodWords` for node 0, as a test. -/
def wordsB (s : State) (sel : LaneOps → List W40) : Bool := (performing (blkAt s) 0).all fun p => (sel p.2).all good

/-- The lowest performing lane's operands. -/
def opsAt (s : State) : LaneOps := ((performing (blkAt s) 0).map (·.2)).headD ⟨[], [], [], true⟩

theorem fires_of_test {s : State} (h : firesB s = true) : Fires s w0 0 (warpAt s) (blkAt s) := by
  simp only [firesB, Bool.and_eq_true, decide_eq_true_eq] at h
  exact ⟨h.1.1.1.1.1, h.1.1.1.1.2, h.1.1.1.2, h.1.1.2, h.1.2, h.2⟩

theorem words_of_test {s : State} {sel : LaneOps → List W40} (h : wordsB s sel = true) :
    GoodWords (blkAt s) 0 sel := by
  intro p hp v hv
  exact List.all_eq_true.1 (List.all_eq_true.1 h p hp) v hv

/-- Node 0 may fire, a lane performs, and the words it consumes are good. -/
def fits (s : State) (sel : LaneOps → List W40) : Bool :=
  firesB s && wordsB s sel && !(performing (blkAt s) 0).isEmpty

/-- The results of node 0 can be delivered. -/
def sends (s : State) (outs : List (BitVec 10 × (Nat → Option Tok))) : Bool :=
  match deliverAll ((blkAt s).fire 0) outs with | .ok _ => true | .error _ => false

/-- Results to null targets are delivered whatever they are. -/
theorem test_null_targets (b : Blk) (u v : Nat → Option Tok) : deliverAll b [(0x3FF, u), (0x3FF, v)] = .ok b := rfl

/-- A state is answered. -/
def goesOn (o : Outcome) : Bool := match o with | .next _ => true | _ => false

theorem goes_on {o : Outcome} (h : goesOn o = true) : ∃ t, o = .next t := by
  cases o <;> first | exact ⟨_, rfl⟩ | cases h

/-- Fields of format A, with null targets. -/
def fA (mod : BitVec 5) (ext : BitVec 25) : FmtA := ⟨0, mod, 0x3FF, 0x3FF, 0, ext⟩

/-- Fields of format I. -/
def fI (mod : BitVec 5) (imm : BitVec 25) : FmtI := ⟨0, mod, 0x3FF, 0x3FF, 0, imm⟩

/-- Fields of format M. -/
def fM (mod : BitVec 5) (space : BitVec 3) : FmtM := ⟨0, mod, 0x3FF, 0, space, 0, 0, 0, 0, 0⟩

/-- Fields of format E. -/
def fE (mod : BitVec 5) (res : BitVec 8) (imm : BitVec 24) : FmtE := ⟨0, mod, 0x3FF, 0, res, imm⟩

theorem test_meets_integer : intA? (.bfe (fA 0 0)) = some (.bfe, fA 0 0) ∧ fits (at_ (.bfe (fA 0 0))) allWords = true ∧
    sends (at_ (.bfe (fA 0 0))) (toTargets (blkAt (at_ (.bfe (fA 0 0)))) 0 [0x3FF, 0x3FF] fun _ _ => tokOf 1 0) := by
  refine ⟨rfl, ?_, ?_⟩ <;> decide +kernel
theorem test_meets_integer_imm : intI? (.addI (fI 3 0x1FFFFFF)) = some (.add, fI 3 0x1FFFFFF) ∧
    fits (at_ (.addI (fI 3 0x1FFFFFF))) allWords = true := by
  refine ⟨rfl, ?_⟩; decide +kernel
/-- A format I node with opcode `opc` whose operand b is n bits wide, performing for lane 0. -/
def immB (i : Instr) (opc : BitVec 9) (f : FmtI) (n : Nat) : Bool :=
  decide (nodeAt (blkAt (at_ i)).words 0 = (opc, .i f)) && fieldOkI opc.toNat f && decide (immBits opc.toNat f = some n) &&
    (aget (blkAt (at_ i)).slots (slotKey 1 0)).isNone && decide ((performing (blkAt (at_ i)) 0).length = 1)
theorem test_meets_immediate : immB (.subI (fI 2 0x1000000)) 0x41 (fI 2 0x1000000) 64 = true := by decide +kernel
theorem test_meets_immediate_128 : immB (.selI (fI 6 0x1FFFFFF)) 0x6A (fI 6 0x1FFFFFF) 128 = true := by decide +kernel
theorem test_meets_immediate_shfl : immB (.shflXorI (fI 5 0x1FFFFFF)) 0xFF (fI 5 0x1FFFFFF) 32 = true := by decide +kernel
/-- A negative immediate has ones above bit 63 at 128 bits (R75). -/
theorem test_immediate_sign : immOperand 0x6A (fI 6 0x1FFFFFE) =
    [fresh 0xFFFFFFFE, fresh 0xFFFFFFFF, fresh 0xFFFFFFFF, fresh 0xFFFFFFFF] := by decide +kernel
/-- The words that `SEL` consumes. -/
def selWords (o : LaneOps) : List W40 := (if tokVal o.c ≠ 0 then o.b else o.a) ++ o.c
theorem test_meets_sel : fits (at_ (.sel (fA 6 0))) selWords = true := by decide +kernel
/-- The chosen operand may be bad. -/
theorem test_meets_sel_bad : fits (withTok (at_ (.sel (fA 4 0))) 1 [⟨1, 0, false⟩]) selWords = true := by decide +kernel
theorem test_meets_selI : fits (at_ (.selI (fI 6 1))) selWords = true := by decide +kernel
theorem test_meets_lea : fits (at_ (.lea (fA 0 7))) allWords = true := by decide +kernel
theorem test_meets_leaI : fits (at_ (.leaI (fI 1 0x1000000))) allWords = true := by decide +kernel
theorem test_meets_mov : fits (at_ (.mov (fA 6 0))) allWords = true := by decide +kernel
theorem test_meets_mov4 : fits (at_ (.mov4 (fA 4 0x1FFFFE0))) allWords = true := by decide +kernel
theorem test_meets_null : fits (at_ (.null (fA 4 0))) allWords = true ∧
    sends (at_ (.null (fA 4 0))) [(0x3FF, fun _ => none), (0x3FF, fun _ => none)] = true := by decide +kernel
theorem test_meets_movi : fits (at_ (.movi ⟨0, 2, 0x3FF, 0, 0x80000000⟩)) allWords = true := by decide +kernel
theorem test_meets_movhi : fits (at_ (.movhi ⟨0, 5, 0x3FF, 0, 1⟩)) allWords = true := by decide +kernel
theorem test_meets_srd : fits (at_ (.srd (fA 5 0x11))) allWords = true := by decide +kernel
theorem test_meets_swr : fits (at_ (.swr (fA 4 8))) (·.a) = true := by decide +kernel
theorem test_meets_float : floatA? (.dfma (fA 0 0)) = onF64 (fA 0 0) 64 fpFma ∧
    fits (at_ (.dfma (fA 0 0))) allWords = true := by
  refine ⟨rfl, ?_⟩; decide +kernel
theorem test_meets_fclass : fits (withTok (at_ (.fclass (fA 0 0))) 0 (tokOf 1 0xFFFFFFFF)) allWords = true := by
  decide +kernel
/-- The boundary codes of a NaN and of the zeros. -/
theorem test_meets_nans : f32.isNan 0x7F800001 = true ∧ f64.isNan 0xFFF0000000000001 = true ∧ fHF.isNan 0x7C01 = true ∧
    fBF.isNan 0x7F80 = false ∧ 0xFFFFFFFF < 2 * f32.sgn ∧ f32.sgn = 0x80000000 := by decide +kernel
theorem test_meets_votes : (vote? (.voteUni (fA 5 0))).isSome = true ∧
    fits (at_ (.voteUni (fA 5 0))) allWords = true := by
  refine ⟨rfl, ?_⟩; decide +kernel
theorem test_meets_cross : (crossA? (.redux (fA 0xA 0))).isSome = true ∧
    fits (at_ (.redux (fA 0xA 0))) allWords = true := by
  refine ⟨rfl, ?_⟩; decide +kernel
/-- A source lane out of range: lane 0 receives its own token, the highest bit of b set. -/
theorem test_meets_shfl :
    let s := withTok (at_ (.shflIdx (fA 5 1))) 1 (tokOf 1 0xFFFFFFFF)
    shfl? (.shflIdx (fA 5 1)) = some ⟨0x3FF, 0x3FF, 64, true, 0⟩ ∧ firesB s = true ∧
    ((performing (blkAt s) 0).all fun p => (shflWords (warpAt s) (blkAt s) 0 0 p.1 p.2).all good) = true ∧
    shflGiver (warpAt s) (blkAt s) 0 0 0 0xFFFFFFFF = none ∧ shflGiver (warpAt s) (blkAt s) 0 0 0 0 = some 0 := by
  refine ⟨rfl, ?_, ?_, ?_, ?_⟩ <;> decide +kernel

/-- A lane's addresses resolve. -/
def resolves (s : State) (space n : Nat) (need : Need) (ofs : BitVec 20) : Bool :=
  match resolveLanes (idle s) w0 (warpAt s) space n need (laneAddrs (blkAt s) 0 ofs) with
  | .ok rs => !rs.isEmpty | .error _ => false

/-- A lane's address fails. -/
def fails (s : State) (space n : Nat) (need : Need) (ofs : BitVec 20) : Bool :=
  match resolveLanes (idle s) w0 (warpAt s) space n need (laneAddrs (blkAt s) 0 ofs) with
  | .ok _ => false | .error _ => true

/-- The warp's team, bay and context changed. -/
def withTeam (s : State) (g : Team → Team) : State := s.modTeam 0 ⟨0, 0⟩ g
def withBay (s : State) (g : Bay → Bay) : State := s.modBay 0 g

/-- A team with 64 KiB of scratchpad and a bound handle 0 to the record at its start. -/
def padTeam (t : Team) : Team := { t with bsp := 65536, decl := 65536, nb := [(0, 0x8000_0000_0000_0000 ||| (2 <<< 60))] }

/-- A team that owns the matrix engine, mailbox 0 and region 0. -/
def ownAll (b : Bay) : Bay :=
  { b with
    mx := { b.mx with owner := some ⟨0, 0⟩ }
    mbox := [(0, { Mailbox.reset with owner := some ⟨0, 0⟩ })]
    regions := [⟨⟨0, 0⟩, 0, 0, 0, 8, 8, 0, some 0, true, true, false, false, 0, 0, none, [], []⟩] }

/-- A node in a team that owns everything, page 0 mapped. -/
def rich (i : Instr) : State := (withBay (withTeam (at_ i) padTeam) ownAll).cacheLeaf 0 0 ⟨0, 7, false, 0, 1⟩

/-- The hypotheses of the statement on `LD`, as a test. -/
def loadB (f : FmtM) (s : State) : Bool :=
  fits s allWords &&
    (match resolveLanes (idle s) w0 (warpAt s) f.space.toNat (2 ^ bitsOf f.mod 3 0) (accNeed .read)
        (laneAddrs (blkAt s) 0 f.ofs) with
     | .error _ => false
     | .ok rs =>
       let r := lanesLoad (idle s) w0 (blkAt s) f rs
       !rs.isEmpty && (rs.all fun p => (List.range (max 1 (2 ^ bitsOf f.mod 3 0 / 4))).all fun i =>
           !wordBlocked s w0 (wordLoc f.space.toNat p.2.2 i)) &&
         (r.2.all fun v => v.2.2.all good) &&
         (match deliverAll ((loadedBlk (blkAt s) f r.2).fire 0)
            [(f.t0, byLane (r.2.map fun v => (v.1, loadedTok f v.2.1 v.2.2)))] with
          | .ok _ => true
          | .error _ => false)) && goesOn (exec (.ld f) s)
/-- A word of `.gbl`, and a signed half word of `.bsp`. -/
theorem test_meets_load : loadB (fM 2 0) (at_ (.ld (fM 2 0))) = true := by decide +kernel
theorem test_meets_load_pad : loadB (fM 0x11 2) (rich (.ld (fM 0x11 2))) = true := by decide +kernel
theorem test_meets_load_view : (fM 4 2).space ≠ 0 ∧
    ∀ h ∈ (blkAt (rich (.ld (fM 4 2)))).held, (fM 4 2).lsid.toNat ≤ h.lsid := by refine ⟨?_, ?_⟩ <;> decide +kernel
/-- A held word store of LSID 64 at most, at node 0. -/
theorem test_meets_held_view :
    nodeAt (blkAt (at_ (.st (fM 2 0)))).words 0 = (0x121, .m (fM 2 0)) ∧ bitsOf (fM 2 0).mod 3 0 = 2 := by
  refine ⟨?_, ?_⟩ <;> decide +kernel
theorem test_meets_store : (heldMem? (.st (fM 4 0))).isSome = true ∧ fits (at_ (.st (fM 4 0))) allWords = true ∧
    resolves (at_ (.st (fM 4 0))) 0 16 (accNeed .write) 0 = true ∧ goesOn (exec (.st (fM 4 0)) (at_ (.st (fM 4 0)))) := by
  refine ⟨rfl, ?_, ?_, ?_⟩ <;> decide +kernel
theorem test_meets_red : (heldMem? (.redBfadd2 (fM 8 2))).isSome = true ∧
    fits (rich (.redBfadd2 (fM 8 2))) allWords = true ∧ resolves (rich (.redBfadd2 (fM 8 2))) 2 4 redNeed 0 = true := by
  refine ⟨rfl, ?_, ?_⟩ <;> decide +kernel
theorem test_meets_pref : fits (at_ (.pref (fM 0 0))) allWords = true ∧
    ((laneAddrs (blkAt (at_ (.pref (fM 0 0)))) 0 0).all fun p =>
      !(at_ (.pref (fM 0 0))).remotePage ((at_ (.pref (fM 0 0))).ctxOf w0) p.2) = true := by
  refine ⟨?_, ?_⟩ <;> decide +kernel
/-- Page 0 is a peer's. -/
theorem test_meets_pref_remote :
    let s := { at_ (.pref (fM 0 0)) with tlb := [] }.cacheLeaf 0 0 ⟨0, 7, true, 1, 1⟩
    fits s allWords = true ∧
    (laneAddrs (blkAt s) 0 0).filter (fun p => s.remotePage (s.ctxOf w0) p.2) = [(0, 0)] := by
  refine ⟨?_, ?_⟩ <;> decide +kernel
theorem test_meets_fence : fits (at_ (.fence { fM 0 0 with order := 3, scope := 5 })) allWords = true := by decide +kernel
theorem test_meets_inj : fits (rich (.injData (fE 1 0 0))) allWords = true ∧
    resolves (rich (.injData (fE 1 0 0))) 0 4 ⟨2, false⟩ 0 = true := by refine ⟨?_, ?_⟩ <;> decide +kernel
theorem test_meets_store_fault : fits { at_ (.st (fM 0 2)) with tlb := [] } allWords = true ∧
    fails { at_ (.st (fM 0 2)) with tlb := [] } 2 1 (accNeed .write) 0 = true := by refine ⟨?_, ?_⟩ <;> decide +kernel
theorem test_meets_load_fault : fits (at_ (.ld (fM 0 2))) allWords = true ∧
    fails (at_ (.ld (fM 0 2))) 2 1 (accNeed .read) 0 = true := by refine ⟨?_, ?_⟩ <;> decide +kernel
theorem test_meets_unbound : fits (at_ (.barx (fE 0 15 0))) allWords = true ∧
    (handleOf ((idle (at_ (.barx (fE 0 15 0)))).teamD w0 (warpAt (at_ (.barx (fE 0 15 0))))) 15).getLsbD 63 = false := by
  refine ⟨?_, ?_⟩ <;> decide +kernel
theorem test_meets_wrong_owner : fits (at_ (.tryrecv (fE 0 15 0))) allWords = true ∧
    (agetD ((at_ (.tryrecv (fE 0 15 0))).bay 0).mbox 15 .reset).owner ≠ some (warpAt (at_ (.tryrecv (fE 0 15 0)))).key ∧
    ((at_ (.tload (fE 0 0 15))).bay 0).teamRegion (warpAt (at_ (.tload (fE 0 0 15)))).key 15 = none ∧
    ((at_ (.mestat (fE 0 0 0))).bay 0).mx.owner ≠ some (warpAt (at_ (.mestat (fE 0 0 0)))).key := by
  refine ⟨?_, ?_, ?_, ?_⟩ <;> decide +kernel
theorem test_meets_fault_operands : fits (at_ (.tload (fE 0 0 15))) allWords = true ∧
    fits (at_ (.mestat (fE 0 0 0))) allWords = true := by refine ⟨?_, ?_⟩ <;> decide +kernel
theorem test_meets_atom : (atom? (.atomCas (fM 5 0))).isSome = true ∧ fits (at_ (.atomCas (fM 5 0))) allWords = true ∧
    goesOn (exec (.atomCas (fM 5 0)) (at_ (.atomCas (fM 5 0)))) := by refine ⟨rfl, ?_, ?_⟩ <;> decide +kernel
theorem test_meets_send : fits (at_ (.send (fE 0 0 0))) allWords = true := by decide +kernel
theorem test_meets_tryrecv : fits (rich (.tryrecv (fE 0 0 0))) allWords = true ∧
    (agetD ((rich (.tryrecv (fE 0 0 0))).bay 0).mbox 0 .reset).owner = some (warpAt (rich (.tryrecv (fE 0 0 0)))).key := by
  refine ⟨?_, ?_⟩ <;> decide +kernel

/-- The test of a warp-level node at its firing passes in a state. -/
def holds (i : Instr) (s : State) : Bool :=
  fits s allWords && (heldTest i (idle s) w0 (warpAt s) (opsAt s)).isSome && goesOn (exec i s)

theorem test_meets_evpost : holds (.evpost (fE 0 15 0)) (at_ (.evpost (fE 0 15 0))) = true := by decide +kernel
theorem test_meets_binit : holds (.binit (fE 0 0 2)) (rich (.binit (fE 0 0 2))) = true := by decide +kernel
theorem test_meets_bbind : holds (.bbind (fE 0 0 2)) (rich (.bbind (fE 0 0 2))) = true := by decide +kernel
theorem test_meets_bret : holds (.bret (fE 0 0 0)) (rich (.bret (fE 0 0 0))) = true := by decide +kernel
theorem test_meets_barv : holds (.barv (fE 0 0 0)) (rich (.barv (fE 0 0 0))) = true := by decide +kernel
theorem test_meets_evbind : holds (.evbind (fE 2 0 0)) (rich (.evbind (fE 2 0 0))) = true := by decide +kernel
theorem test_meets_strbind : holds (.strbind (fE 1 7 0)) (rich (.strbind (fE 1 7 0))) = true := by decide +kernel
theorem test_meets_tload : holds (.tload (fE 0 7 0)) (rich (.tload (fE 0 7 0))) = true := by decide +kernel
theorem test_meets_ldstat : holds (.ldstat (fE 0 0 0)) (rich (.ldstat (fE 0 0 0))) = true := by decide +kernel
theorem test_meets_mms : holds (.mms (fE 0 0 0x103F)) (rich (.mms (fE 0 0 0x103F))) = true := by decide +kernel
theorem test_meets_waitany : fits (at_ (.waitany (fE 0 0 0xFFFF))) allWords = true := by decide +kernel
theorem test_meets_waitaddr : fits (rich (.waitaddr (fE 0 0 4))) allWords = true ∧
    (match (idle (rich (.waitaddr (fE 0 0 0)))).resolve w0 ((idle (rich (.waitaddr (fE 0 0 0)))).teamD w0
      (warpAt (rich (.waitaddr (fE 0 0 0))))) (warpAt (rich (.waitaddr (fE 0 0 0)))) 0 0 0 4 (accNeed .read) with
      | .ok _ => true | .error _ => false) = true := by refine ⟨?_, ?_⟩ <;> decide +kernel

theorem test_meets_bgen : (barTest? (.bgen (fE 0 0 0))).isSome = true ∧ fits (rich (.bgen (fE 0 0 0))) (·.a) = true ∧
    (handleOf ((idle (rich (.bgen (fE 0 0 0)))).teamD w0 (warpAt (rich (.bgen (fE 0 0 0))))) 0).getLsbD 63 = true ∧
    recordView (barHome (idle (rich (.bgen (fE 0 0 0)))) w0 (.pad 0 0)) (blkAt (rich (.bgen (fE 0 0 0)))) 0 (.pad 0 0) 1 =
      [.zero] ∧
    ((List.range 4).all fun i => !wordBlocked (rich (.bgen (fE 0 0 0))) w0 (Loc.add (.pad 0 0) (4 * i))) = true ∧
    goesOn (exec (.bgen (fE 0 0 0)) (rich (.bgen (fE 0 0 0)))) := by
  refine ⟨rfl, ?_, ?_, ?_, ?_, ?_⟩ <;> decide +kernel
theorem test_meets_bstat : fits (rich (.bstat (fE 0 0 0))) (·.a) = true ∧
    (recordView (barHome (idle (rich (.bstat (fE 0 0 0)))) w0 (.pad 0 0)) (blkAt (rich (.bstat (fE 0 0 0)))) 0 (.pad 0 0)
      4).all good = true := by
  refine ⟨?_, ?_⟩ <;> decide +kernel
theorem test_meets_mbstat : fits (rich (.mbstat (fE 0 0 0))) allWords = true ∧
    (agetD ((rich (.mbstat (fE 0 0 0))).bay 0).mbox 0 .reset).owner = some (warpAt (rich (.mbstat (fE 0 0 0)))).key := by
  refine ⟨?_, ?_⟩ <;> decide +kernel
theorem test_meets_cpstat : fits (rich (.cpstat (fE 0 0 0))) allWords = true := by decide +kernel
theorem test_meets_tstat : fits (rich (.tstat (fE 0 0 0))) allWords = true ∧
    (((rich (.tstat (fE 0 0 0))).bay 0).teamRegion (warpAt (rich (.tstat (fE 0 0 0)))).key 0).isSome = true := by
  refine ⟨?_, ?_⟩ <;> decide +kernel
theorem test_meets_mestat : fits (rich (.mestat (fE 0 0 0))) allWords = true ∧
    ((rich (.mestat (fE 0 0 0))).bay 0).mx.owner = some (warpAt (rich (.mestat (fE 0 0 0)))).key := by
  refine ⟨?_, ?_⟩ <;> decide +kernel
theorem test_meets_lstat : fits (rich (.lstat (fE 0 0 0))) (·.a) = true := by decide +kernel
theorem test_meets_exit : (directExit? (.trap ⟨0, 3, 0xFFFF⟩)).isSome = true ∧ firesB (at_ (.trap ⟨0, 3, 0xFFFF⟩)) = true := by
  refine ⟨rfl, ?_⟩; decide +kernel
/-- The highest canonical target, and one that is misaligned. -/
theorem test_meets_indirect : fits (withTok (at_ (.bri ⟨0, 0, 0⟩)) 0 (tokOf 2 0xFFFFFFFFFFFFFFF8)) (·.a) = true ∧
    ((laneTargets (blkAt (withTok (at_ (.bri ⟨0, 0, 0⟩)) 0 (tokOf 2 0xFFFFFFFFFFFFFFF8))) 0).all fun p =>
      p.2.extractLsb' 0 3 == 0 && canonical p.2) = true := by refine ⟨?_, ?_⟩ <;> decide +kernel
theorem test_meets_bad_target : fits (withTok (at_ (.calli ⟨0, 0, 0⟩)) 0 (tokOf 2 4)) (·.a) = true ∧
    (laneTargets (blkAt (withTok (at_ (.calli ⟨0, 0, 0⟩)) 0 (tokOf 2 4))) 0).filter (fun p => !targetAddrOk p.2) =
      [(0, 4)] := by refine ⟨?_, ?_⟩ <;> decide +kernel
theorem test_meets_escape : firesB (at_ (.esc 15 (fA 0 0))) = true := by decide +kernel
/-- `GoodUses` for node 0, as a test. -/
def usesB (i : Instr) (s : State) : Bool :=
  (row? i).any fun r => (usedWords r (warpAt s) (blkAt s) 0).all fun p => p.2.all fun v => good v.2
/-- A node that targets its own full slot a, of a float, an integer and a cross-lane row. -/
def conflictB (i : Instr) : Bool :=
  firesB (at_ i) && usesB i (at_ i) &&
    (row? i).any fun r =>
      match deliverAll ((blkAt (at_ i)).fire 0) (r.outs (idle (at_ i)) w0 (warpAt (at_ i)) (blkAt (at_ i)) 0) with
      | .ok _ => false
      | .error (key, m) => key = 0 && m = 1
theorem test_meets_conflict : conflictB (.fadd ⟨0, 0, 0, 0x3FF, 0, 0⟩) = true := by decide +kernel
theorem test_meets_conflict_integer : conflictB (.sub ⟨0, 0, 0, 0x3FF, 0, 0⟩) = true := by decide +kernel
theorem test_meets_conflict_cross : conflictB (.voteAny ⟨0, 4, 0x3FF, 0, 0, 0⟩) = true := by decide +kernel
/-- A word with a wrong code in slot b of a node that consumes it: an integer row, and `SEL` where c chooses a. -/
def badB (i : Instr) (s : State) : Bool :=
  firesB s && (row? i).any fun r => badWord (usedWords r (warpAt s) (blkAt s) 0) = some (0, (4, ⟨1, 0, false⟩))
theorem test_meets_bad_word : badB (.add (fA 0 0)) (withTok (at_ (.add (fA 0 0))) 1 [⟨1, 0, false⟩]) = true := by
  decide +kernel
theorem test_meets_bad_sel : badB (.sel (fA 4 0))
    (withTok (withTok (at_ (.sel (fA 4 0))) 1 [⟨1, 0, false⟩]) 2 (tokOf 1 1)) = true := by decide +kernel
theorem test_meets_compute_frame : firesB (at_ (.srd (fA 4 0))) = true ∧ usesB (.srd (fA 4 0)) (at_ (.srd (fA 4 0))) = true ∧
    goesOn (exec (.srd (fA 4 0)) (at_ (.srd (fA 4 0)))) = true := by refine ⟨?_, ?_, ?_⟩ <;> decide +kernel

/-! ## Faults, blocks and warps -/

/-- The warp changed. -/
def withWarp (s : State) (g : Warp → Warp) : State := s.modWarp w0 g

/-- A warp at a block boundary, with no block. -/
def atEdge : State := withWarp { at_ (.add (fA 0 0)) with cur := .none } fun x => { x with blk := none }

/-- Context 0 with a ring of two slots at 1 MiB. -/
def ringCtx (c : Ctx) : Ctx := { c with rqBase := 0x100000, rqSize := 1, rqVa := 0x100000 }

/-- A warp that has taken a fault whose record is pending in slot 0. -/
def faulted : State := (atEdge.modCtx 0 ringCtx).takeFault w0 { kind := 0x05, sub := 0x10 } none

/-- A warp inside a region that it entered at 0x40. -/
def inRegion : State := withWarp atEdge fun x => { x with region := some ⟨0x40, 1, 0⟩ }

theorem test_meets_fault : atEdge.warp? w0 = some (warpAt atEdge) ∧ canWrite atEdge 0 = false := by
  refine ⟨?_, ?_⟩ <;> decide +kernel
theorem test_meets_return :
    let a := recordAddr (faulted.ctx 0) 0
    namedRecord faulted 0 0 = none ∧ ((namedRecord faulted 0 a).map fun r => (r.agent, r.kind, r.num)) =
      some (.warp w0, 0x05, 0) ∧ (faulted.warp? w0).map (·.park) = some (.service 0 none) ∧
    (warpAt faulted).stop = false ∧ (warpAt faulted).stepRec = none := by
  refine ⟨?_, ?_, ?_, ?_, ?_⟩ <;> decide +kernel
theorem test_meets_rollback : inRegion.warp? w0 = some (warpAt inRegion) ∧
    (warpAt inRegion).region = some ⟨0x40, 1, 0⟩ := by refine ⟨?_, ?_⟩ <;> decide +kernel
/-- Outside a region, inside one, and a second time for the same word or for an error without a word. -/
theorem test_meets_consumed : (warpAt atEdge).region = none ∧ (warpAt inRegion).check ≠ some .engine ∧
    (warpAt (withWarp inRegion fun x => { x with check := some (.lane 255 63) })).check = some (.lane 255 63) ∧
    (warpAt (withWarp inRegion fun x => { x with check := some .engine })).check = some .engine := by
  refine ⟨?_, ?_, ?_, ?_⟩ <;> decide +kernel

/-- A block at address 0 of a mapped page: header and one `HALT`. -/
def codeMem (h : Double) : Memory := ((Memory.empty.setWord 0 (fresh (h.extractLsb' 0 32))).setWord 4
  (fresh (h.extractLsb' 32 32))).setWord 12 (fresh 0xE0050000)

/-- A warp that may dispatch the block at 0. -/
def mayStart (h : Double) : State := { atEdge.cacheLeaf 0 0 ⟨0, 7, false, 0, 1⟩ with mem := codeMem h }

theorem test_meets_dispatch : canDispatch (mayStart 0) w0 (warpAt (mayStart 0)) = true ∧
    matchedJoin (allEntries (mayStart 0) w0) (warpAt (mayStart 0)).pc = none ∧
    ((mayStart 0).ctx ((mayStart 0).ctxOf w0)).safeReq = false ∧
    (match fetchBlock (mayStart 0) w0 0 with | .ok ws => decide (ws = [0, 0xE005000000000000]) | .error _ => false) = true := by
  refine ⟨?_, ?_, ?_, ?_⟩ <;> decide +kernel
theorem test_meets_dispatch_join :
    let s := withWarp (mayStart 0) fun x => { x with stack := [⟨.join, 0, 1, 0⟩] }
    canDispatch s w0 (warpAt s) = true ∧ matchedJoin (allEntries s w0) (warpAt s).pc = some 0 := by
  refine ⟨?_, ?_⟩ <;> decide +kernel
theorem test_meets_dispatch_fault :
    let s := { mayStart 0 with tlb := [] }
    canDispatch s w0 (warpAt s) = true ∧
    (match fetchBlock s w0 0 with | .ok _ => false | .error _ => true) = true := by
  refine ⟨?_, ?_⟩ <;> decide +kernel
theorem test_meets_dispatch_safe :
    let s := (mayStart 0x2000000000).modCtx 0 fun c => { c with safeReq := true }
    canDispatch s w0 (warpAt s) = true ∧ (s.ctx (s.ctxOf w0)).safeReq = true ∧
    (match fetchWord s w0 0 with | .ok h => (hdrOf h).safe | .error _ => false) = true := by
  refine ⟨?_, ?_, ?_⟩ <;> decide +kernel
theorem test_meets_placed : blockOk [0, 0xE005000000000000] 16 = true ∧
    firstUnimplemented [0, 0xE005000000000000] = none ∧
    privilegeFail [0, 0xE005000000000000] ((mayStart 0).ctx 0) = none ∧
    ((((mayStart 0).teamOf w0).map (·.regs)).getD 0) = 16 := by refine ⟨?_, ?_, ?_, ?_⟩ <;> decide +kernel
theorem test_meets_capture :
    let s := withWarp (at_ (.esc 0 (fA 0 0))) fun x => { x with blk := x.blk.map fun b => { b with capture := some ⟨0⟩ } }
    (blkAt s).capture = some ⟨0⟩ ∧ captureReady (blkAt s) 0 = true ∧ (warpAt s).park = .running ∧
    badWord (slotWords (blkAt s) 0) = none := by refine ⟨?_, ?_, ?_, ?_⟩ <;> decide +kernel

/-- A block whose only node, an exit, has fired for lane 0. -/
def voted (i : Instr) (lanes : Mask) : State :=
  withWarp { at_ i with cur := .none } fun x => { x with blk := x.blk.map fun b =>
    { b with fired := 1, votes := [⟨0, lanes, []⟩] } }

/-- `Completes`, as a test. -/
def complete (s : State) : Bool :=
  decide (s.warp? w0 = some (warpAt s)) && decide ((warpAt s).blk = some (blkAt s)) &&
    decide ((warpAt s).park = .running) && allFired (blkAt s) && decide ((blkAt s).releasing = none) &&
    mayRun (warpAt s) s.now && decide (agetD (s.bay w0.bay).turn (windowOf (wkey w0)) 0 < 4096)

/-- The committing block with its exports settled. -/
def leaving (s : State) : Blk := { blkAt s with exporting := exportsOf s w0 (warpAt s) (blkAt s) }

theorem test_meets_commit :
    let s := voted (.br ⟨0, 0, 7⟩) 1
    complete s = true ∧ boundaryFault s w0 (leaving s) = none ∧ (leaving s).cop = none ∧ (leaving s).held = [] ∧
    (leaving s).wait = none := by refine ⟨?_, ?_, ?_, ?_, ?_⟩ <;> decide +kernel
/-- No vote: subcode 0x04. `RET` without a call entry: 0x07. -/
theorem test_meets_commit_fault : complete (voted (.br ⟨0, 0, 7⟩) 0) = true ∧
    (boundaryFault (voted (.br ⟨0, 0, 7⟩) 0) w0 (leaving (voted (.br ⟨0, 0, 7⟩) 0))).map (·.1) = some 4 ∧
    (boundaryFault (voted (.ret ⟨0, 0, 0⟩) 1) w0 (leaving (voted (.ret ⟨0, 0, 0⟩) 1))).map (·.1) = some 7 := by
  refine ⟨?_, ?_, ?_⟩ <;> decide +kernel
/-- A block that commits an `ATOM.add` on word 0 of the team's scratchpad, with a vote of its own and the given target. -/
def atomS (t : BitVec 10) : State :=
  withWarp { rich (.atomAdd { fM 0 2 with t0 := t }) with cur := .none } fun x => { x with blk := x.blk.map fun b =>
    { b with fired := 1, votes := [⟨0, 1, []⟩], cop := some ⟨0, 0, [⟨0, tokOf 2 0, tokOf 1 1, [], 0, none⟩]⟩ } }
theorem test_meets_commit_atom :
    let s := atomS 0x3FF
    complete s = true ∧
    ((leaving s).cop.any fun h => (copConflict (leaving s) h).isNone &&
      (match performCop s w0 (warpAt s) (leaving s) h with
       | .done _ r => (match deliverCop (leaving s) h r with | .ok _ => true | .error _ => false)
       | _ => false)) = true := by refine ⟨?_, ?_⟩ <;> decide +kernel
theorem test_meets_commit_conflict : complete (atomS 0) = true ∧
    ((leaving (atomS 0)).cop.any fun h => copConflict (leaving (atomS 0)) h == some (0, 1)) = true := by
  refine ⟨?_, ?_⟩ <;> decide +kernel
/-- Write entry 0 names lane register 255; its slot holds a token for lane 63. -/
theorem test_meets_lane_write :
    bitsOf (writeEntry [0x0000800000000000, 0x3FC0] 0) 15 14 = 0 ∧
    bitsOf (writeEntry [0x0000800000000000, 0x3FC0] 0) 13 6 = 255 ∧
    slotTok [(writeKey 0, ⟨1, 1, [(63, tokOf 1 5)]⟩)] (writeKey 0) 63 = some (tokOf 1 5) := by
  refine ⟨?_, ?_, ?_⟩ <;> decide +kernel
theorem test_meets_engine_error :
    let s := withWarp atEdge fun x => { x with errs := [.home (.mem 0 0) .zero, .cause .engine .zero, .command 0x1B2 1] }
    s.warp? w0 = some (warpAt s) ∧ atBoundary (warpAt s) = true ∧
    (warpAt s).errs.find? (fun e => match e with | .home _ _ => false | _ => true) = some (.cause .engine .zero) := by
  refine ⟨?_, ?_, ?_⟩ <;> decide +kernel
theorem test_meets_command_error :
    let s := withWarp atEdge fun x => { x with errs := [.command 0x1B2 1] }
    (warpAt s).errs.find? (fun e => match e with | .home _ _ => false | _ => true) = some (.command 0x1B2 1) ∧
    atBoundary (warpAt s) = true := by refine ⟨?_, ?_⟩ <;> decide +kernel
/-- The report of a home that came between two blocks, and nothing else. -/
theorem test_meets_home_error :
    (warpAt (withWarp atEdge fun x => { x with errs := [.home (.mem 0 0) .zero] })).errs = [.home (.mem 0 0) .zero] := by
  decide +kernel
theorem test_meets_home_events :
    let s := { atEdge with merges := [⟨.pad 0 0, 1, 5, lcc 5, w0⟩], reports := [⟨w0, .mem 0 0, .zero⟩] }
    s.merges.length = 1 ∧ s.reports.length = 1 ∧ s.warp? w0 = some (warpAt s) := by
  refine ⟨?_, ?_, ?_⟩ <;> decide +kernel
theorem test_meets_preempt :
    let s := withWarp { at_ (.null (fA 4 0)) with now := 4096 } fun x => { x with preempt := some 0 }
    (warpAt s).preempt = some 0 ∧ (warpAt s).blk = some (blkAt s) ∧ 0 + 4096 ≤ s.now ∧ (blkAt s).releasing = none := by
  refine ⟨?_, ?_, ?_, ?_⟩ <;> decide +kernel
/-- A captured block whose record is pending. -/
theorem test_meets_preempt_captured :
    let s := withWarp (at_ (.esc 0 (fA 0 0))) fun x => { x with
      preempt := some 0, blk := x.blk.map fun b => { b with capture := some ⟨0⟩ } }
    let t : State := match exec (.captureComplete w0) s with | .next t => { t with now := 4096 } | _ => s
    (blkAt t).capture = some ⟨0⟩ ∧ (t.recs.find? fun r => r.kind = 0x06 && r.agent = .warp w0).isSome = true ∧
    (warpAt t).preempt = some 0 ∧ (blkAt t).releasing = none := by refine ⟨?_, ?_, ?_, ?_⟩ <;> decide +kernel
theorem test_meets_wakes :
    let s := withWarp atEdge fun x => { x with park := .waitAny 0x8000 1, evpend := 0x8000 }
    (warpAt s).evpend &&& 0x8000 ≠ 0 ∧ mayWake s w0 (warpAt s) = true ∧
    (warpAt (withWarp atEdge fun x => { x with park := .waitAddr (.phys 0) 0 0 0 0x40 1, woken := true })).woken = true := by
  refine ⟨?_, ?_, ?_⟩ <;> decide +kernel
theorem test_meets_merge : (0x00FF0000 : Word) &&& ~~~(byteMask 4) = 0 ∧ (0 : Word) &&& ~~~(byteMask 0) = 0 ∧
    (0x80 : Byte) ≠ 0 ∧ (24 : Nat) ≤ 24 := by decide +kernel

/-! ## The truss -/

/-- The element at which `State.withFetchWord` places an instruction. -/
def e0 (op : Nat) : ElemId := ⟨0, 0, if 23 ≤ op && op ≤ 26 then 7 else 1⟩

/-- The state in which an element's instruction is the next to run. -/
def atElem (i : Instr) (op : Nat) : State :=
  { State.reset.withFetchWord 96 ((encodeElem i).getD 0).toNat with cur := .elem (e0 op), agenda := [] }

/-- Its region. -/
def g0 : Region := ⟨⟨0, 0⟩, 0, 0, 0, 8, 8, 0, some 0, true, true, false, false, 0, 0, none, [], []⟩

/-- `ElemFires`, as a test, with an element that no error will upset. -/
def elemB (s : State) (op : Nat) (x : ElemWord) : Bool :=
  decide (s.cur = .elem (e0 op)) && decide ((s.bay 0).regionAt 0 (e0 op).col = some g0) &&
    mayFire (s.bay 0) 0 (e0 op).col && elemReady (s.bay 0) 0 (e0 op).col op x &&
    !((s.bay 0).elem 0 (e0 op).col).glitch

/-- An element instruction without predicates: NEED, HTEST, sources, DEQ, IMM, LDST. -/
def fX (need : BitVec 4) (htest : BitVec 8) (a b : BitVec 3) (imm : BitVec 16) (ldst : BitVec 3) : ElemWord :=
  ⟨0, 0, need, htest, a, b, need, 1, 0, 0, 0, imm, ldst⟩

/-- An element's local rewritten. -/
def withLocal (s : State) (op k : Nat) (v : W40) : State :=
  s.modBay 0 fun b => b.modElem 0 (e0 op).col fun e => { e with locals := aset e.locals k v }

theorem test_meets_elem_value : (elemValue? (.elemFadd (fX 1 0 0 4 0 4))).isSome = true ∧
    elemB (atElem (.elemFadd (fX 1 0 0 4 0 4)) 3) 3 (fX 1 0 0 4 0 4) = true ∧
    goesOn (exec (.elemFadd (fX 1 0 0 4 0 4)) (atElem (.elemFadd (fX 1 0 0 4 0 4)) 3)) = true := by
  refine ⟨rfl, ?_, ?_⟩ <;> decide +kernel
theorem test_meets_elem_test : (elemTest? (.elemCmplt (fX 1 0 0 7 0x8000 4))).isSome = true ∧
    elemB (atElem (.elemCmplt (fX 1 0 0 7 0x8000 4)) 12) 12 (fX 1 0 0 7 0x8000 4) = true := by
  refine ⟨rfl, ?_⟩; decide +kernel
theorem test_meets_elem_pass : (elemPass? (.elemDeq (fX 8 0x80 3 0 0 4))).isSome = true ∧
    elemB (atElem (.elemDeq (fX 8 0x80 3 0 0 4)) 18) 18 (fX 8 0x80 3 0 0 4) = true ∧
    (reading (atElem (.elemDeq (fX 8 0x80 3 0 0 4)) 18) (e0 18) g0 18 (fX 8 0x80 3 0 0 4)).err = none := by
  refine ⟨rfl, ?_, ?_⟩ <;> decide +kernel
theorem test_meets_elem_other : (elemOther? (.elemGen (fX 0 0 0 0 1 0))).isSome = true ∧
    elemB (atElem (.elemGen (fX 0 0 0 0 1 0)) 27) 27 (fX 0 0 0 0 1 0) = true ∧
    good (reading (atElem (.elemGen (fX 0 0 0 0 1 0)) 27) (e0 27) g0 27 (fX 0 0 0 0 1 0)).cur = true ∧
    (reading (atElem (.elemGen (fX 0 0 0 0 1 0)) 27) (e0 27) g0 27 (fX 0 0 0 0 1 0)).err = none := by
  refine ⟨rfl, ?_, ?_, ?_⟩ <;> decide +kernel
/-- The last index inside the SRAM, and the first outside. -/
theorem test_meets_elem_sram : (elemSram? (.elemLd (fX 0 0 4 0 1023 4))).isSome = true ∧
    elemB (atElem (.elemLd (fX 0 0 4 0 1023 4)) 23) 23 (fX 0 0 4 0 1023 4) = true ∧
    sramAddr (reading (atElem (.elemLd (fX 0 0 4 0 1023 4)) 23) (e0 23) g0 23 (fX 0 0 4 0 1023 4)) (fX 0 0 4 0 1023 4) = 1023 ∧
    sramAddr (reading (atElem (.elemLd (fX 0 0 4 0 1024 4)) 23) (e0 23) g0 23 (fX 0 0 4 0 1024 4)) (fX 0 0 4 0 1024 4) = 1024 ∧
    elemB (atElem (.elemLd (fX 0 0 4 0 1024 4)) 23) 23 (fX 0 0 4 0 1024 4) = true := by
  refine ⟨rfl, ?_, ?_, ?_, ?_⟩ <;> decide +kernel
/-- A `TAS` with an error token among its operands. -/
theorem test_meets_tas_error :
    let s := withLocal (atElem (.elemTas (fX 0 0 4 0 0 4)) 25) 25 0 ⟨1, 0, false⟩
    elemB s 25 (fX 0 0 4 0 0 4) = true ∧ (reading s (e0 25) g0 25 (fX 0 0 4 0 0 4)).err.isSome = true := by
  refine ⟨?_, ?_⟩ <;> decide +kernel
theorem test_meets_elem_merge : elemB (atElem (.elemMerge (fX 9 0xC3 0 3 0 4)) 29) 29 (fX 9 0xC3 0 3 0 4) = true ∧
    (reading (atElem (.elemMerge (fX 9 0xC3 0 3 0 4)) 29) (e0 29) g0 29 (fX 9 0xC3 0 3 0 4)).a.tag ≠ 3 := by
  refine ⟨?_, ?_⟩ <;> decide +kernel
/-- A local with a wrong code is an error operand. -/
theorem test_meets_elem_error :
    let s := withLocal (atElem (.elemMov (fX 0 0 4 0 0 4)) 17) 17 0 ⟨1, 0, false⟩
    elemRow? (.elemMov (fX 0 0 4 0 0 4)) = some (17, fX 0 0 4 0 0 4) ∧ elemB s 17 (fX 0 0 4 0 0 4) = true ∧
    (reading s (e0 17) g0 17 (fX 0 0 4 0 0 4)).err.isSome = true := by
  refine ⟨rfl, ?_, ?_⟩ <;> decide +kernel

/-- Port 0 of a running region, with a token at input i. -/
def p0 : PortId := ⟨0, 0⟩
def portS (i : Nat) (t : TTok) (g : Port → Port) : State :=
  (rich (.add (fA 0 0))).modBay 0 fun b =>
    (b.modElem 0 0 fun e => { e with started := true, queues := [(i, [t])] }).modPort 0 g

theorem test_meets_port_request : portRegion (portS 2 ⟨fresh 4, 0⟩ id) p0 = some g0 ∧
    portHead (portS 2 ⟨fresh 4, 0⟩ id) p0 2 = some ⟨fresh 4, 0⟩ ∧
    (((portS 2 ⟨fresh 4, 0⟩ id).bay 0).port 0).reqs.length < 16 := by refine ⟨?_, ?_, ?_⟩ <;> decide +kernel
/-- LIMIT 8: offset 4 lies inside, offset 8 outside; a token passes. -/
theorem test_meets_port_reply :
    let s := portS 2 endTok fun q => { q with reqs := [⟨4, none⟩], cfg := [(2, fresh 8), (3, fresh 2)] }
    portRegion s p0 = some g0 ∧ portCredit s p0 2 = true ∧ (((s.bay 0).port 0).stalled) = none ∧
    (wordAt (portCfg ((s.bay 0).port 0)) 2).toNat = 8 ∧
    (match portLoc s p0 g0 (bitsOf (wordAt (portCfg ((s.bay 0).port 0)) 3) 2 0) 4 with
      | .ok l => (s.holdsOn l).all fun h => !h.2.write | .error _ => false) = true := by refine ⟨?_, ?_, ?_, ?_, ?_⟩ <;> decide +kernel
theorem test_meets_sink_drop : sinkLook (portS 3 endTok id) p0 = .drop ∧
    portHead (portS 3 endTok id) p0 3 = some endTok := by refine ⟨?_, ?_⟩ <;> decide +kernel
theorem test_meets_sink_room :
    sinkLook (portS 3 endTok fun q => { q with cfg := [(4, fresh 0), (5, fresh 1)] }) p0 = .room 0 0 := by decide +kernel
theorem test_meets_sink_full :
    let s := (portS 3 endTok fun q => { q with cfg := [(4, fresh 0), (5, fresh 1)] }).setHomeWord (.pad 0 0) (fresh 1)
    sinkLook s p0 = .full ∧ portRegion s p0 = some g0 := by refine ⟨?_, ?_⟩ <;> decide +kernel
theorem test_meets_sink_recheck :
    let s := portS 0 endTok fun q => { q with sinkWait := true, sinkKick := true }
    portRegion s p0 = some g0 ∧ ((s.bay 0).port 0).sinkKick = true ∧ sinkLook s p0 ≠ .held ∧
    portHead s p0 3 = none := by
  refine ⟨?_, ?_, ?_, ?_⟩ <;> decide +kernel

/-- A request of one word from scratchpad 0 to scratchpad 0x100. -/
def oneWord : List W40 := [fresh 0x04800000, fresh 4, .zero, .zero, fresh 0x100, .zero] ++ List.replicate 10 .zero

/-- A binding of port 0 to that request. -/
def bindTo (moved : Nat) : StreamBind := ⟨⟨0, 0⟩, w0, 0, oneWord, moved, none, false, 0⟩
/-- A state with that binding in a direction and a token at `i0`. -/
def streamS (dir : Bool) (moved : Nat) (t : TTok) : State := portS 0 t fun q => q.setBind dir (some (bindTo moved))

theorem test_meets_stream_in :
    let s := streamS false 0 endTok
    (liveBind s p0 false).map (·.1) = some (bindTo 0) ∧ (bindTo 0).moved < reqTotal (bindTo 0).req ∧
    portCredit s p0 0 = true ∧ ctlBit (bindTo 0).req 21 = false ∧
    (match bindLoc s (bindTo 0) (warpAt s) false with
      | .ok l => !(bindHolds s p0 false (bindTo 0) (warpAt s) l).engineWaits 0 (streamEngine 0 false) 0 l
      | .error _ => false) = true := by refine ⟨?_, ?_, ?_, ?_, ?_⟩ <;> decide +kernel
theorem test_meets_stream_in_end : (liveBind (streamS false 4 endTok) p0 false).map (·.1) = some (bindTo 4) ∧
    reqTotal (bindTo 4).req ≤ (bindTo 4).moved := by refine ⟨?_, ?_⟩ <;> decide +kernel
theorem test_meets_stream_out :
    let s := streamS true 0 ⟨fresh 7, 0⟩
    (liveBind s p0 true).map (·.1) = some (bindTo 0) ∧ portHead s p0 0 = some ⟨fresh 7, 0⟩ ∧
    (match bindLoc s (bindTo 0) (warpAt s) true with
      | .ok l => !(bindHolds s p0 true (bindTo 0) (warpAt s) l).engineWaits 0 (streamEngine 0 true) 0 l &&
          !bindWaits (bindHolds s p0 true (bindTo 0) (warpAt s) l) p0 true (bindTo 0)
      | .error _ => false) = true ∧ portHead (streamS true 0 ⟨fresh 7, 1⟩) p0 0 = some ⟨fresh 7, 1⟩ := by
  refine ⟨?_, ?_, ?_, ?_⟩ <;> decide +kernel
theorem test_meets_export_return :
    let s := portS 1 ⟨fresh 5, 0⟩ id
    let r := portS 1 ⟨fresh 5, 0⟩ fun q => { q with retMark := some ⟨fresh 0xFFF, 1⟩ }
    portHead s p0 1 = some ⟨fresh 5, 0⟩ ∧ ((s.bay 0).port 0).retMark = none ∧
    ((r.bay 0).port 0).retMark = some ⟨fresh 0xFFF, 1⟩ ∧ returnCount r p0 g0 0xFFF ≤ 1 := by
  refine ⟨?_, ?_, ?_, ?_⟩ <;> decide +kernel

/-- A route from output 3 of element (0, 1) to input 3 of (7, 7), with a token in flight. -/
theorem test_meets_hop :
    let s := (rich (.add (fA 0 0))).modBay 0 fun b =>
      b.modElem 0 1 fun e => { e with routes := [(3, ⟨7, 7, 3⟩)], flight := [(3, [endTok])] }
    aget ((s.bay 0).elem 0 1).routes 3 = some ⟨7, 7, 3⟩ ∧ ((s.bay 0).elem 0 1).flying 3 = [endTok] := by
  refine ⟨?_, ?_⟩ <;> decide +kernel
theorem test_meets_export_hop :
    let s := ((portS 0 endTok fun q => { q with exports := [endTok] }).modBay 0 fun b =>
      b.modElem 0 0 fun e => { e with routes := [(1, ⟨0, 1, 0⟩)] })
    exportNext (s.bay 0) 0 = some endTok ∧ ((s.bay 0).elem 0 0).flying 1 = [] := by refine ⟨?_, ?_⟩ <;> decide +kernel
/-- An empty region that was never scanned, one scanned at its firing count, and one that holds a token. -/
theorem test_meets_scan : ((rich (.add (fA 0 0))).bay 0).regions[0]? = some g0 ∧ g0.clocked = true ∧
    g0.loaded = true ∧ g0.quiet = false ∧ regionEmpty ((rich (.add (fA 0 0))).bay 0) g0 = true ∧ g0.scan ≠ some g0.fires ∧
    regionEmpty ((portS 0 endTok id).bay 0) g0 = false := by
  refine ⟨?_, ?_, ?_, ?_, ?_, ?_, ?_⟩ <;> decide +kernel
theorem test_meets_second_scan : ({ g0 with scan := some 0 } : Region).scan = some g0.fires ∧
    regionEmpty ((rich (.add (fA 0 0))).bay 0) { g0 with scan := some 0 } = true := by refine ⟨?_, ?_⟩ <;> decide +kernel
/-- A region with an image to load, and one with a packet of each kind that a clause names. -/
theorem test_meets_loading : ({ g0 with loads := [⟨w0, 0, none, 15, 0⟩] } : Region).packets = [] ∧
    ((([3, 4, 15].map fun k => ({ g0 with packets := [⟨k, 7, 7, 0, []⟩] } : Region)).map fun g => g.packets.length) =
      [1, 1, 1]) := by refine ⟨?_, ?_⟩ <;> decide +kernel

/-! ## Engines, the kingpost, leases -/

/-- A bay whose copy engine has the one-word request in progress. -/
def copyS (moved : Nat) (stalled : Option Nat) : State :=
  withBay (rich (.add (fA 0 0))) fun b => { b with copies := [⟨⟨⟨0, 0⟩, w0, 0, true, 0⟩, oneWord, moved, stalled, 0⟩] }

theorem test_meets_copy_start :
    let s := withBay (rich (.add (fA 0 0))) fun b => { b with kicks := [⟨⟨0, 0⟩, w0, 0, false, 0⟩] }
    (s.bay 0).kicks = [⟨⟨0, 0⟩, w0, 0, false, 0⟩] ∧ (s.bay 0).copies.length < 255 ∧
    (match s.team? 0 ⟨0, 0⟩ with
      | some t =>
        let u := (s.modBay 0 fun y => { y with kicks := y.kicks.drop 1 }).newSeq
        match requestWords u.2 0 t 0 with
        | some q => q.all good && requestOk u.2 t q true true && !requestWaits u.2 0 1 u.1 t 0
        | none => false
      | none => false) = true := by refine ⟨?_, ?_, ?_⟩ <;> decide +kernel
theorem test_meets_copy_chunk : ((runningCopy ((copyS 0 none).bay 0) 0).any fun c =>
      !chunkWaits ((copyS 0 none).bay 0) c) = true ∧ reqTotal oneWord = 4 ∧
    (match sideLoc (copyS 0 none) w0 (warpAt (copyS 0 none)) oneWord false 0,
        sideLoc (copyS 0 none) w0 (warpAt (copyS 0 none)) oneWord true 0 with
      | .ok l, .ok d =>
        let s1 := if lacksHold (copyS 0 none) 0 1 0 (heldOf oneWord l d) then
          takeRequestHolds (copyS 0 none) w0 (warpAt (copyS 0 none)) oneWord true true 1 0 0 else copyS 0 none
        lacksHold (copyS 0 none) 0 1 0 (heldOf oneWord l d) && !lacksHold s1 0 1 0 (heldOf oneWord l d) && !s1.engineWaits 0 1 0 l && !s1.engineWaits 0 1 0 d && !countWaits s1 w0 oneWord 1 0
      | _, _ => false) = true := by refine ⟨?_, ?_, ?_⟩ <;> decide +kernel
theorem test_meets_copy_done : ((runningCopy ((copyS 4 none).bay 0) 0).any fun c =>
      !chainWaits ((copyS 4 none).bay 0) c && !cwWaits (copyS 4 none) w0 c.req 1 0) = true ∧ ctlBit oneWord 20 = false := by
  refine ⟨?_, ?_⟩ <;> decide +kernel
/-- A completion word at address 0 of the mapped page. -/
theorem test_meets_copy_signal :
    let q := fresh 0x04900000 :: oneWord.drop 1
    ctlBit q 20 = true ∧ cwWaits (copyS 4 none) w0 q 1 0 = false ∧
    (match cwLoc (copyS 4 none) w0 (warpAt (copyS 4 none)) q with | .ok _ => true | .error _ => false) = true := by
  refine ⟨?_, ?_, ?_⟩ <;> decide +kernel
/-- A source in scratchpad memory beyond the team's. -/
theorem test_meets_copy_failure :
    let q := oneWord.take 2 ++ [fresh 65536] ++ oneWord.drop 3
    (match sideLoc (copyS 0 none) w0 (warpAt (copyS 0 none)) q false 0 with
      | .ok _ => false | .error f => (stalls f).isNone) = true := by decide +kernel

/-- A matrix engine with a command in progress. -/
def mxS (opc : Nat) (record : List W40) : State :=
  withBay (rich (.add (fA 0 0))) fun b => { b with
    mx := { b.mx with cur := some ⟨w0, ⟨0, 0⟩, opc, fE 0 0 0, 0, 0, 0, 0, record, false, 0⟩ } }

theorem test_meets_matrix : mxReady (mxS 0x1B3 []) 0 = true ∧ mxStopped (mxS 0x1B3 []) 0 = false := by
  refine ⟨?_, ?_⟩ <;> decide +kernel
/-- A plane laid out by rows, of a format of no width: the load reads no word. -/
theorem test_meets_plane_load :
    let s := mxS 0x1B0 (List.replicate 16 .zero)
    let c : MxCmd := ⟨w0, ⟨0, 0⟩, 0x1B0, fE 1 0 0, 0, 0, 0, 0, List.replicate 16 .zero, false, 0⟩
    let t := withBay s fun b => { b with mx := { b.mx with cur := some c } }
    mxReady t 0 = true ∧ (t.bay 0).mx.cur = some c ∧
    (match statPlane t 0 c with | .ok _ => true | .error _ => false) = true := by
  refine ⟨?_, ?_, ?_⟩ <;> decide +kernel
/-- The same where a word of the plane fails its check. -/
theorem test_meets_plane_error :
    let s := (mxS 0x1B0 (List.replicate 16 .zero)).setHomeWord (.pad 0 0) ⟨1, 0, false⟩
    mxReady s 0 = true ∧
    (match (s.bay 0).mx.cur with
      | some c => match statPlane s 0 c with | .ok _ => false | .error _ => true
      | none => false) = true := by refine ⟨?_, ?_⟩ <;> decide +kernel

/-- A grid of one team, device-launched, passed over at clock 0. -/
def grid1 (cls : Word) : Grid :=
  ⟨1, 0, List.replicate 3 .zero ++ [fresh cls] ++ List.replicate 28 .zero, none, 0, none, none, 1, 0, 0, 0, [], [], false, 0,
    some 0, false⟩
def kingS (cls : Word) : State := { State.reset with now := 16385, grids := [grid1 cls], devQueue := [1] }

theorem test_meets_round : roundNeeded { State.reset with handlers := [(0, 1 <<< 63, 0)] } = true := by decide +kernel
theorem test_meets_reservation : aget (kingS 0).resv 0 = none ∧
    ((levelWaiting (kingS 0) 0).find? fun k => ((kingS 0).grid? k).any fun g => overdue (kingS 0) g.passed) = some 1 ∧
    packetField (grid1 0).packet 112 1 = 0 ∧ ((kingS 0).bay 191).closed = false := by
  refine ⟨?_, ?_, ?_, ?_⟩ <;> decide +kernel
theorem test_meets_bent : packetField (grid1 0x10000).packet 112 1 = 1 ∧
    ((levelWaiting (kingS 0x10000) 0).find? fun k => ((kingS 0x10000).grid? k).any fun g =>
      overdue (kingS 0x10000) g.passed) = some 1 := by refine ⟨?_, ?_⟩ <;> decide +kernel
theorem test_meets_passed_over : (kingS 0).grid? 1 = some (grid1 0) ∧ 1 ∈ (kingS 0).devQueue ∧
    (grid1 0).named = false ∧ overdue (kingS 0) (grid1 0).passed = true := by refine ⟨?_, ?_, ?_, ?_⟩ <;> decide +kernel
theorem test_meets_team_retire :
    let s := withWarp atEdge fun x => { x with retired := true }
    (s.team? 0 ⟨0, 0⟩).any (fun t => !t.retired && !t.clustered) = true ∧ teamBusy s 0 ⟨0, 0⟩ = false := by
  refine ⟨?_, ?_⟩ <;> decide +kernel
theorem test_meets_grid_retire : ({ grid1 0 with retired := 1 } : Grid).nteam ≤ 1 ∧ (grid1 0).children = 0 := by
  refine ⟨?_, ?_⟩ <;> decide +kernel
theorem test_meets_lease_interval :
    1024 ≤ ((withBay atEdge fun b => { b with misses := 1024, intf := 64 }).bay 0).misses := by decide +kernel
theorem test_meets_lease_turn :
    let s := withBay atEdge fun b => { b with turn := [(3, 4096)] }
    4096 ≤ agetD (s.bay 0).turn 3 0 ∧ ((s.bay 0).waiting.filter fun p => windowOf p.1 = 3) = [] := by
  refine ⟨?_, ?_⟩ <;> decide +kernel

/-! ## Contexts, service, registers -/

/-- Context 0 with a table at 4096 that maps 1 GiB from 0x4000_0000. -/
def walkS : State :=
  { State.reset.modCtx 0 fun c => { c with root := 0x1001 } with
    mem := (Memory.empty.setWord 4096 (fresh 0x1001)).setWord 4104 (fresh 0x3B) }

theorem test_meets_walk : (walkS.cached 0 0x40000FF8).isNone = true ∧ canonical 0x40000FF8 = true ∧
    (match walk walkS 0 0x40000FF8 with
      | .ok l => match leafLoc (walkS.cacheLeaf 0 0x40000FF8 l) l 0x40000FF8 (accNeed .read) with
        | .ok p => decide (p = .phys 0xFF8) | .error _ => false
      | .error _ => false) = true := by refine ⟨?_, ?_, ?_⟩ <;> decide +kernel
/-- The request of the warp's fetch, or of an agent that no longer exists, and a walk of its page on its way. -/
def walkReq (va : Double) : WalkReq := ⟨.king, 0, va, .read, 0, 1⟩
def walkingS (va : Double) (qs : List WalkReq) : State := { walkS with walks := [⟨0, va.toNat / 4096, qs⟩] }
theorem test_meets_walk_start : walkOf walkS (walkReq 0x40000FF8) = none := by decide +kernel
theorem test_meets_walk_join :
    walkOf (walkingS 0x40000FF8 []) (walkReq 0x40000FF8) = some ⟨0, 0x40000, []⟩ := by decide +kernel
theorem test_meets_walk_end :
    let s := walkingS 0x40000FF8 [walkReq 0x40000FF8]
    let k : PageWalk := ⟨0, 0x40000, [walkReq 0x40000FF8]⟩
    walkOf s (walkReq 0x40000FF8) = some k ∧ k ∈ s.walks.take 64 ∧ (s.cached 0 0x40000FF8).isNone = true ∧
    (match walk (walkGone s k) 0 0x40000FF8 with | .ok _ => true | .error _ => false) = true := by
  refine ⟨?_, ?_, ?_, ?_⟩ <;> decide +kernel
theorem test_meets_walk_fault :
    (match walk walkS 0 0 with | .ok _ => false | .error f => f.kind = 1 && f.sub = 1) = true ∧
    (match walk (walkGone (walkingS 0 [walkReq 0]) ⟨0, 0, [walkReq 0]⟩) 0 0 with | .ok _ => false | .error _ => true) =
      true := by refine ⟨?_, ?_⟩ <;> decide +kernel
/-- A record held while the ring had no slots, and the ring set up since. -/
theorem test_meets_deferred_record :
    let s := (atEdge.takeFault w0 { kind := 0x05, sub := 0x10 } none).modCtx 0 ringCtx
    (heldRecord s 0).isSome = true ∧ canWrite s 0 = true := by refine ⟨?_, ?_⟩ <;> decide +kernel
theorem test_meets_invalidation :
    let s := atEdge.modCtx 0 fun c => { c with tlbQueue := [2] }
    (s.ctx 0).tlbQueue = [2] ∧ (s.allWarps.all fun p => p.2.blk.isNone) = true ∧ loadHoldsOld s 0 2 = false ∧
    s.merges = [] := by refine ⟨?_, ?_, ?_, ?_⟩ <;> decide +kernel
theorem test_meets_save :
    let s := State.reset.modCtx 0 fun c => { c with saving := true }
    (s.ctx 0).saving = true ∧ ((stoppedTeams s 0).all fun p => teamQuiet s p.1 p.2) = true := by
  refine ⟨?_, ?_⟩ <;> decide +kernel
theorem test_meets_safe_late :
    let s := State.reset.modCtx 0 fun c => { c with safeReq := true, safeLim := 1, safeCounts := [(w0, 257)] }
    (s.ctx 0).safeLate = false ∧ (w0, 257) ∈ (s.ctx 0).safeCounts ∧ (s.ctx 0).safeLim * 256 < 257 := by
  refine ⟨?_, ?_, ?_⟩ <;> decide +kernel
theorem test_meets_report : ({ Firmware.reset with attBusy := true } : Firmware).attBusy = true := by decide +kernel
/-- A component that is not the bays', and the bays' microcode while no block runs, and while one runs in bay 0 of two. -/
theorem test_meets_switch : ({ Firmware.reset with fwTodo := [(3, 7, [])] } : Firmware).fwTodo = [(3, 7, [])] ∧
    bayBusy atEdge 0 = false ∧ [0, 1].filter (bayBusy (at_ (.add (fA 0 0)))) = [0] := by decide +kernel
theorem test_meets_drift :
    let s := State.reset.modSill 11 fun y => { y with act := true, reg := 44, ptr := 0 }
    (s.sill 11).act = true ∧ (s.sill 11).ptr + 1 < regionLines 44 := by refine ⟨?_, ?_⟩ <;> decide +kernel
theorem test_meets_auto_retire :
    let s : State := withBay { atEdge with rel := { RelLog.reset with autoB := true } }
      fun b => { b with uncTimes := List.replicate 16 0 }
    s.rel.autoB = true ∧ retireDue (s.bay 0) = true ∧ (s.bay 0).closed = false := by
  refine ⟨?_, ?_, ?_⟩ <;> decide +kernel

/-- Bay 0 with one line in its L1: line 2, byte 0 of word 1 dirty. -/
def l1S (stale : Bool) : State :=
  withBay { atEdge with mem := Memory.empty.setWord 260 (fresh 0x0A0B0C0D) } fun b => { b with
    l1 := [(2, ⟨[(0, fresh 5), (1, fresh 0x0A0B0CEE)], 0x10, stale, false, [], none⟩)] }
/-- A word of a valid line, of a stale line with a dirty byte, of no line. -/
theorem test_meets_l1 : ((l1S false).bay 0).l1Find (260 / 128) = some ⟨[(0, fresh 5), (1, fresh 0x0A0B0CEE)], 0x10, false, false, [], none⟩ ∧
    ((l1S true).l1Read w0 260 0).2 = fresh 0x0A0B0CEE ∧ ((l1S false).bay 0).l1Find (512 / 128) = none ∧
    (((l1S false).bay 0).l1.map (·.1)).Nodup ∧ victimOf ((l1S false).bay 0).l1 = some 2 := by
  refine ⟨?_, ?_, ?_, ?_, ?_⟩ <;> decide +kernel
/-- A release at cluster scope takes the dirty byte home; an acquire drops the stale line. -/
theorem test_release : (((l1S false).release 0 3).mem.word 260) = fresh 0x0A0B0CEE ∧
    (((l1S true).acquire 0 2).bay 0).l1 = [] := by refine ⟨?_, ?_⟩ <;> decide +kernel
/-- Entry 0 of the table of `walkS` names the table itself; entry 1 is a leaf at level 2 and none at level 3 (Table 16.7). -/
theorem test_meets_table : EntryIs walkS 4096 0x1001 ∧ TableEntry 0x1001 4 ∧ LeafEntry 0x3B 2 ∧ ¬ LeafEntry 0x3B 3 ∧
    (field ((walkS.ctx 0).root) 51 12 * 4096 = 4096) := by
  refine ⟨⟨?_, ?_, ?_, ?_⟩, ?_, ?_, ?_, ?_⟩ <;> first | decide +kernel | (unfold TableEntry; decide +kernel) | (unfold LeafEntry; decide +kernel)
/-- The write in sequence, one before it and one after it. -/
theorem test_meets_remote_write :
    let s : State := { State.reset with vl := { State.reset.vl with winSize := 4096, ins := [(5 * 4096 + 7, ⟨9, []⟩)] } }
    (agetD s.vl.ins (5 * 4096 + 7) ⟨0, []⟩).expected = 9 ∧ rangePopulated (s.vl.winBase + 16) 4 = true := by
  refine ⟨?_, ?_⟩ <;> decide +kernel
/-- 1 + 2^-24 in FP32 (R93's own example): 1.0 to nearest, 1 + 2^-23 upwards. -/
theorem test_meets_rounding : fpAdd f32 ⟨0, .rne, 0⟩ 0x3F800000 0x33800000 0 = 0x3F800000 ∧
    fpAdd f32 ⟨0, .rup, 0⟩ 0x3F800000 0x33800000 0 = 0x3F800001 ∧
    (ratOf (f32.value (operandCode f32 0 false false 0x3F800000))).isSome = true ∧
    operandCode f32 1 true true 0x80000001 = 0x80000000 := by refine ⟨?_, ?_, ?_, ?_⟩ <;> decide +kernel

/-- The register that a BAR0 write of 4 or 8 bytes meets. -/
def meets (r : RegWrite) : Option Reg := match writeAsk State.reset r with | .one h => some h.reg | _ => none

theorem test_meets_register : meets ⟨0x10, 4, 0⟩ = some .kpCtl ∧ writeAsk State.reset ⟨0x2, 4, 0⟩ = .bad ∧
    writeAsk State.reset ⟨0xFFF0, 4, 0⟩ = .ignored ∧ writeAsk State.reset ⟨0x2000048, 4, 0⟩ = .bad := by
  refine ⟨?_, ?_, ?_, ?_⟩ <;> decide +kernel
theorem test_meets_effects : [meets ⟨0x2000048, 8, 0⟩, meets ⟨0x2FFF050, 8, 0⟩, meets ⟨0x2000100, 8, 1⟩,
    meets ⟨0x2000004, 4, 1⟩, meets ⟨0x1000000, 8, 0⟩, meets ⟨0x13FFFD8, 4, 1⟩, meets ⟨0x20004E0, 4, 0x10000⟩,
    meets ⟨0x2000600, 4, 1⟩] = [some (.resume 0), some (.tlbInv 4095), some .poisClr, some (.safeCtl 0), some (.kpqBase 0),
      some (.kpqCtx 65535), some .sillDrop, some .snapCtl] := by decide +kernel
theorem test_meets_doorbell : meets ⟨0x1000010, 4, 16⟩ = some (.kpqTail 0) ∧
    (16 + (2 ^ 32 - (State.reset.queue 0).head.toNat)) % 2 ^ 32 = 2 ^ (State.reset.queue 0).size ∧
    ¬ (17 + (2 ^ 32 - (State.reset.queue 0).head.toNat)) % 2 ^ 32 ≤ 2 ^ (State.reset.queue 0).size := by
  refine ⟨?_, ?_, ?_⟩ <;> decide +kernel
/-- The boundary of R395: CAP and FLOOR of the reset values sum to 1,500. -/
theorem test_meets_power : meets ⟨0x2000320, 4, 1500⟩ = some .pwrLimit ∧
    (powerWrite Power.reset ⟨.pwrLimit, 1500, 0xFFFFFFFF⟩).map (fun p => decide (powerSum p ≤ p.lim)) = some true ∧
    (powerWrite Power.reset ⟨.pwrLimit, 1499, 0xFFFFFFFF⟩).map (fun p => decide (p.lim < powerSum p)) = some true := by
  refine ⟨?_, ?_, ?_⟩ <;> decide +kernel
theorem test_meets_interval : (State.reset).power.next ≤ 4096 ∧ goesOn (exec (.powerInterval ⟨[400], [], 5⟩)
    { State.reset with now := 4096 }) = true ∧
    windowDraw (0 :: State.reset.power.draws) ≤ windowClocks * State.reset.power.lim := by
  refine ⟨?_, ?_, ?_⟩ <;> decide +kernel
theorem test_meets_outside : isOutside .coldReset = true ∧ isOutside (.bar2Read 0 4) = true := by decide
theorem test_meets_host_word : (State.reset.bar2 + 4) % 4 = 0 ∧ rangePopulated (State.reset.bar2 + 4) 4 = true := by
  refine ⟨?_, ?_⟩ <;> decide +kernel
theorem test_meets_scratch_store : bitsOf (fM 2 2).mod 3 0 = 2 ∧ (fM 2 2).space ≠ 0 ∧
    (rich (.st (fM 2 2))).storeHeld (.pad 0 65532) = false := by refine ⟨?_, ?_, ?_⟩ <;> decide +kernel
theorem test_meets_barrier :
    (rich (.add (fA 0 0))).homeWords (.pad 0 16) 4 = [fresh 0, fresh 0, fresh 0, fresh 0] := by decide +kernel
theorem test_meets_clocks : (aget (withBay atEdge id).bays 0).any (·.frac < 12) = true ∧
    aget (withBay atEdge id).bays 191 = none := by refine ⟨?_, ?_⟩ <;> decide +kernel
theorem test_meets_warm_reset : (aget (withBay atEdge id).bays 0).isSome = true := by decide +kernel

/-! ## Registers of a commit, special registers, memory under held stores, atomic operations -/

/-- A block of lanes 1 and 3 whose write entry 0 is e and whose slot holds two words for lane 3 and for lane 1. -/
def entryBlk (e : Double) : Blk :=
  { blkAt (at_ (.add (fA 0 0))) with
    m := 0xA, words := [0x0000800000000000, e]
    slots := [(writeKey 0, ⟨0xA, 0xA, [(3, tokOf 2 9), (1, tokOf 2 0x700000005)]⟩)] }
/-- Its lowest token is lane 1's; of an entry of uniform register 62, of `MODE` and of `EVMASK`. -/
theorem test_meets_entry_writes :
    ([0x4F80, 0x8200, 0x8280].map fun e => (bitsOf (writeEntry (entryBlk e).words 0) 15 14,
      bitsOf (writeEntry (entryBlk e).words 0) 13 6)) = [(1, 62), (2, 8), (2, 10)] ∧
    lanesOf (entryBlk 0).m = [1, 3] ∧ slotTok (entryBlk 0).slots (writeKey 0) 1 = some (tokOf 2 0x700000005) ∧
    (lanesOf 1).map (slotTok (entryBlk 0).slots (writeKey 0)) = [none] := by refine ⟨?_, ?_, ?_, ?_⟩ <;> decide +kernel
theorem test_meets_swr_commit : nodeAt (blkAt (at_ (.swr (fA 4 8)))).words 0 = (0x33, .a (fA 4 8)) ∧
    bitsOf (fA 4 8).ext 7 0 = 8 := by refine ⟨?_, ?_⟩ <;> decide +kernel

/-- A warp whose team and grid are resident. -/
def gridS : State := { rich (.add (fA 0 0)) with grids := [{ grid1 0 with gid := 0, depth := 3 }] }
theorem test_meets_special : gridS.warp? w0 = some (warpAt gridS) ∧
    (gridS.team? w0.bay (warpAt gridS).key).any (fun t => decide (0 < t.clsize ∧ t.clsize ≤ 2 ^ 4 ∧ t.rank < 2 ^ 4)) = true ∧
    (gridS.grid? (warpAt gridS).key.gid).isSome = true := by refine ⟨?_, ?_, ?_⟩ <;> decide +kernel

/-- Held stores of rising LSID into the team's scratchpad: widths, and lanes with their offsets and values. -/
def heldBlk (hs : List (BitVec 5 × List (Nat × Nat × Nat))) : Blk :=
  { blkAt (at_ (.add (fA 0 0))) with
    words := BitVec.ofNat 64 ((hs.length - 1) * 2 ^ 58) :: hs.map fun h => (encodeNode (.st (fM h.1 2))).getD 0
    held := hs.zipIdx.map fun h =>
      ⟨h.2, h.2, h.1.2.map fun n => ⟨n.1, [], tokOf 4 n.2.2, [], 0, some (.pad 0 n.2.1)⟩⟩ }
/-- A word, two lanes' bytes at one place, 16 bytes over them. -/
def overlaps : Blk := heldBlk [(2, [(0, 0, 0x11223344)]), (0, [(1, 2, 0xAA), (3, 2, 0xBB)]), (4, [(2, 0, 5)])]
theorem test_meets_overlap :
    ((List.range 3).map fun k => (nodeAt overlaps.words k).1) = [0x121, 0x121, 0x121] ∧
    overlaps.held.map (·.lsid) = [0, 1, 2] ∧ Loc.align (.pad 0 0) = .pad 0 0 ∧
    (overlaps.held.map fun h => h.lanes.map fun n => heldByte (fM (if h.lsid = 1 then 0 else if h.lsid = 0 then 2 else 4) 2)
      n (.pad 0 0) 2) = [[some 0x22], [some 0xAA, some 0xBB], [some 0]] := by refine ⟨?_, ?_, ?_, ?_⟩ <;> decide +kernel

/-- Words of the scratchpad that pass their checks, and a bad one. -/
theorem test_meets_atomic : typeWidth 5 = 32 * 2 ∧ Loc.align (.pad 0 8) = .pad 0 8 ∧
    ((valueLocs 2 2 (.pad 0 8)).map (homeOld gridS w0 (.pad 0 8) (valueLocs 2 2 (.pad 0 8))).1.homeWord).all good = true ∧
    ((valueLocs 2 2 (.pad 0 8)).any gridS.storeHeld) = false ∧ (AtomRow.redOpc .add).isSome = true ∧
    good ((gridS.setHomeWord (.pad 0 8) ⟨1, 0, false⟩).homeWord (.pad 0 8)) = false := by
  refine ⟨?_, ?_, ?_, ?_, ?_, ?_⟩ <;> decide +kernel

/-- An address of a warp-level node does not resolve. -/
def failsWarp (i : Instr) (s : State) : Bool :=
  fits s allWords && (performing (blkAt s) 0).head?.any fun p =>
    (warpAddr? i ((idle s).teamD w0 (warpAt s)) p.2).any fun q =>
      match (idle s).resolve w0 ((idle s).teamD w0 (warpAt s)) (warpAt s) 0 q.1 q.2.1 q.2.2.1 q.2.2.2.1 with
      | .ok _ => false
      | .error _ => true
/-- Pages that are not mapped; a record beyond the declaration. -/
theorem test_meets_warp_address : failsWarp (.binit (fE 0 0 0)) { at_ (.binit (fE 0 0 0)) with tlb := [] } = true ∧
    failsWarp (.tload (fE 0 0 0)) { rich (.tload (fE 0 0 0)) with tlb := [] } = true ∧
    failsWarp (.waitaddr (fE 0 0 0)) { at_ (.waitaddr (fE 0 0 0)) with tlb := [] } = true ∧
    failsWarp (.barv (fE 0 0 0)) (withTeam (rich (.barv (fE 0 0 0))) fun t => { t with bsp := 0, decl := 0 }) = true ∧
    failsWarp (.bgen (fE 0 0 0)) (withTeam (rich (.bgen (fE 0 0 0))) fun t => { t with bsp := 0, decl := 0 }) = true := by
  refine ⟨?_, ?_, ?_, ?_, ?_⟩ <;> decide +kernel
theorem test_meets_inj_fault : fits { at_ (.injCode (fE 0 0 0)) with tlb := [] } allWords = true ∧
    fails { at_ (.injCode (fE 0 0 0)) with tlb := [] } 0 4 ⟨2, false⟩ 0 = true := by refine ⟨?_, ?_⟩ <;> decide +kernel
theorem test_meets_unbound_read : fits (at_ (.bstat (fE 0 15 0))) allWords = true ∧
    (handleOf ((idle (at_ (.bstat (fE 0 15 0)))).teamD w0 (warpAt (at_ (.bstat (fE 0 15 0))))) 15).getLsbD 63 = false := by
  refine ⟨?_, ?_⟩ <;> decide +kernel

/-! ## Mailboxes, launches, events -/

/-- Mailbox 0 of bay 0 with some messages and spilled ones, of a grid with a spill slice of n slots in the mapped page. -/
def mailS (msgs spilled n : Nat) : State :=
  let p : List W40 := [.zero, .zero, .zero, .zero, .zero, .zero, fresh 0x10000] ++ List.replicate 9 .zero ++ [fresh 256] ++
    [.zero, fresh (BitVec.ofNat 32 n)] ++ List.replicate 13 .zero
  withBay { gridS with grids := [{ grid1 0 with gid := 0, packet := p }] } fun b => { b with
    mbox := [(0, ⟨some ⟨0, 0⟩, List.replicate msgs (tokOf 4 7), 0, spilled, false⟩)] }
/-- No such mailbox; room in hardware; no room and no slice; a full slice; room in the slice. -/
theorem test_meets_offer :
    (mailboxAt (mailS 0 0 0) 0 5).owner = none ∧ (mailboxAt (mailS 0 0 0) 0 0).owner = some ⟨0, 0⟩ ∧
    ((mailboxAt (mailS 31 0 0) 0 0).msgs.length < 32 ∧ (mailboxAt (mailS 31 0 0) 0 0).spillCount = 0 ∧
      ((mailS 31 0 0).team? 0 ⟨0, 0⟩).isSome = true ∧ ((mailS 31 0 0).bay 0).closed = false) ∧
    (¬ (mailboxAt (mailS 32 0 0) 0 0).msgs.length < 32 ∧ spillSlice (mailS 32 0 0) ⟨0, 0⟩ 0 = none) ∧
    (spillSlice (mailS 32 2 2) ⟨0, 0⟩ 0 = some (0, 256, 2) ∧ (mailboxAt (mailS 32 2 2) 0 0).spillCount = 2) ∧
    (canonical (256 + BitVec.ofNat 64 (16 * ((0 + 1) % 2))) = true ∧
      (match (mailS 32 1 2).translate 0 (256 + BitVec.ofNat 64 (16 * ((0 + 1) % 2))) ⟨2, false⟩ with
        | .ok _ => true | .error _ => false) = true) := by
  refine ⟨?_, ?_, ⟨?_, ?_, ?_, ?_⟩, ⟨?_, ?_⟩, ⟨?_, ?_⟩, ?_, ?_⟩ <;> decide +kernel
/-- The slot of the slice lies in device memory, aligned; the owner's grid is known. -/
theorem test_meets_spilled :
    (match (mailS 32 1 2).translate 0 (256 + BitVec.ofNat 64 (16 * ((0 + 1) % 2))) ⟨2, false⟩ with
      | .ok (.phys a) => decide (a % 4 = 0) | _ => false) = true ∧ (tokOf 4 7).length = 4 ∧
    ((mailS 32 2 2).grid? 0).isSome = true := by refine ⟨?_, ?_, ?_⟩ <;> decide +kernel
theorem test_meets_send_lane : (mailS 0 0 0).merges = [] ∧ releaseWaits (mailS 0 0 0) w0 0 = false := by
  refine ⟨?_, ?_⟩ <;> decide +kernel
/-- A message in hardware, none at all, and a spilled one whose page is mapped. -/
theorem test_meets_receive : (mailboxAt (mailS 1 0 0) 0 0).msgs = tokOf 4 7 :: [] ∧
    ((mailboxAt (mailS 0 0 0) 0 0).msgs = [] ∧ (mailboxAt (mailS 0 0 0) 0 0).spillCount = 0) ∧
    (mailboxAt (mailS 0 1 2) 0 0).spillCount ≠ 0 ∧
    (match (mailS 0 1 2).translate 0 (256 + BitVec.ofNat 64 (16 * (0 % 2))) (accNeed .read) with
      | .ok _ => true | .error _ => false) = true := by refine ⟨?_, ⟨?_, ?_⟩, ?_, ?_⟩ <;> decide +kernel

/-- A launching grid at a depth, and a descriptor at address 0 of one team of 32 lanes with 32 registers. -/
def launchS (depth : Nat) : State :=
  { gridS with grids := [{ grid1 0 with gid := 0, depth := depth }], mem := Memory.empty.setWord 12 (fresh 0x100020) }
theorem test_meets_launch :
    (match (launchS 15).resolve w0 ((launchS 15).teamD w0 (warpAt (launchS 15))) (warpAt (launchS 15)) 0 0 0 128
        (accNeed .read) with
      | .ok l => (drawEntry ((launchS 15).release 0 4) ⟨0, 0⟩ 15) = some 0 &&
          (match checkPacket (takeEntry ((launchS 15).release 0 4) ⟨0, 0⟩ 0 0) 0 (((launchS 15).release 0 4).homeWords l 32)
            false with | .ok _ => true | .error _ => false)
      | .error _ => false) = true ∧
    (launchS 16).merges = [] ∧ ((launchS 16).grid? 0).any (fun g => decide (16 ≤ g.depth)) = true ∧
    (warpAt (launchS 16)).wid = 0 := by refine ⟨?_, ?_, ?_, ?_⟩ <;> decide +kernel
/-- A depth beyond the reserves draws nothing once the shared entries are gone. -/
theorem test_meets_no_entry : (freeEntry { launchS 15 with pool := [(0, ⟨true, 0, 0, 0, none, none⟩)] } 0 1 none) = none := by
  decide +kernel

/-- The block of an event instruction that fired for lane 0, with warp 0 as the slot-a value and a handler address. -/
def eventB (i : Instr) (s : State) : Bool :=
  let h : HeldOp := ⟨0, 0, [⟨0, tokOf 1 0, [], [], 0x40, none⟩]⟩
  (match nodeAt (blkAt s).words 0 with | (_, .e f) => f.res.toNat < 16 | _ => false) && s.merges.isEmpty &&
    (releaseOp s w0 (blkAt s) h).isSome && decide (s.warp? w0 = some (warpAt s)) && (encodeNode i).isSome
theorem test_meets_events : ([.evbind (fE 0 3 0), .evbind (fE 2 15 0), .evunb (fE 0 3 0), .evmaskSet (fE 0 0 9),
    .evpost (fE 0 3 0), .evclr (fE 0 0 8)].all fun i => eventB i (rich i)) = true := by decide +kernel
/-- A warp with a mailbox event and one with a barrier event whose record's GEN has changed. -/
theorem test_meets_resume :
    let s := withWarp (rich (.add (fA 0 0))) fun x => { x with binds := [(4, ⟨0, 0, 0x40, 1, some (.pad 0 0)⟩)] }
    (∀ p ∈ (warpAt s).binds, p.2.kind ≠ 2) ∧ ((warpAt s).binds.all fun p =>
      (barBindLoc s w0 (warpAt s) p.2).isSome && (bindGen s w0 (warpAt s) p.2).v != p.2.gen) = true := by
  refine ⟨?_, ?_⟩ <;> decide +kernel

/-! ## Groups, rows of the tile, and other clauses -/

/-- A warp with a split stack whose block has the given join field and exits, which have voted for the given lanes. -/
def flowS (h : Double) (es : List (Instr × Mask)) (stack : List StackEntry) : State :=
  withWarp atEdge fun x => { x with
    stack := stack
    blk := (blkAt (at_ (.add (fA 0 0)))) |> fun b => some { b with
      words := (h + BitVec.ofNat 64 ((es.length - 1) * (2 ^ 58 + 2 ^ 39))) :: es.map fun p => (encodeNode p.1).getD 0
      votes := es.zipIdx.map fun p => ⟨p.2, p.1.2, []⟩ } }
/-- A branch of 8 words. -/
def br8 : Instr := .br ⟨0, 0, 8⟩
theorem test_meets_group :
    let b := blkAt (flowS 0 [(br8, 1)] [])
    (flowGroups b).map (fun g => (g.mask, g.act)) = [(1, .none)] ∧ kindLanes b 4 = 0 ∧ b.exporting = [] ∧
    (warpAt (flowS 0 [(br8, 1)] [])).spilled = 0 := by refine ⟨?_, ?_, ?_, ?_⟩ <;> decide +kernel
/-- Two groups, none at the join; the same with the join at the first one's target, and with both there. -/
theorem test_meets_groups :
    let b := blkAt (flowS 0 [(br8, 1), (.br ⟨0, 0, 16⟩, 2)] [])
    (flowGroups b).map (fun g => (g.mask, g.act)) = [(1, .none), (2, .none)] ∧ joinAddr b.addr b.words = 0 ∧
    (let c := blkAt (flowS 8 [(br8, 1), (.br ⟨0, 0, 16⟩, 2)] [])
     joinAddr c.addr c.words ≠ 0 ∧ (flowGroups c).map (fun g => decide (g.addr = joinAddr c.addr c.words)) = [true, false]) ∧
    (let c := blkAt (flowS 8 [(br8, 1), (br8, 2)] [])
     (flowGroups c).map (fun g => decide (g.addr = joinAddr c.addr c.words)) = [true, true]) := by
  refine ⟨?_, ?_, ⟨?_, ?_⟩, ?_⟩ <;> decide +kernel
/-- A call, and lanes that return to the call entry on top. -/
theorem test_meets_call :
    let b := blkAt (flowS 0 [(.call ⟨0, 0, 16⟩, 2)] [])
    (flowGroups b).map (fun g => (g.mask, g.act)) = [(2, .call 0x10)] ∧ kindLanes b 4 = 0 ∧
    (let s := flowS 0 [(.ret ⟨0, 0, 0⟩, 2)] [⟨.call, 0x40, 1, 0⟩]
     flowGroups (blkAt s) = [] ∧ kindLanes (blkAt s) 4 = 2 ∧ (warpAt s).stack = [⟨.call, 0x40, 1, 0⟩] ∧
      (warpAt s).acts = []) := by refine ⟨?_, ?_, ⟨?_, ?_, ?_, ?_⟩⟩ <;> decide +kernel
theorem test_meets_join_match : matchedJoin [⟨.pending, 0x40, 1, 0⟩, ⟨.join, 0x40, 1, 0⟩, ⟨.call, 0, 0, 0⟩] 0x40 = some 1 ∧
    matchedJoin [⟨.call, 0x40, 1, 0⟩, ⟨.join, 0x40, 1, 0⟩] 0x40 = none := by refine ⟨?_, ?_⟩ <;> decide +kernel

/-- A command of opcode `opc` on tile rows from 63 on with an offset, a stride and an immediate's upper bits. -/
def rowC (opc : Nat) (a b : Word) (imm : BitVec 24) : MxCmd :=
  ⟨w0, ⟨0, 0⟩, opc, fE 0 0 (imm ||| (63 <<< 6)), a, b, b, 0, List.replicate 16 .zero, false, 0⟩
/-- The last row of the tile: cleared, scaled, set from and written to bytes of E4M3 elements. -/
theorem test_meets_rows : bitsOf (rowC 0x1B3 0 0 0).f.imm 11 6 + 0 = 63 ∧
    (match readBytes gridS 0 0 (cmdRowAt (rowC 0x1B5 0 0 0) 0) 4 with | .ok _ => true | .error _ => false) = true ∧
    bitsOf (rowC 0x1B6 0 128 0x2E000).f.imm 17 13 = 0x17 ∧ accRowBytes 0x17 / 128 = 1 ∧
    (match readBytes gridS 0 0 (cmdRowAt (rowC 0x1B6 0 128 0x2E000) 0) 128 with | .ok _ => true | .error _ => false) = true ∧
    (0 + cmdRowAt (rowC 0x1B4 64 128 0x2E000) 0) % 4 = 0 ∧ accCodes.contains 0x17 = true := by
  refine ⟨?_, ?_, ?_, ?_, ?_, ?_, ?_⟩ <;> decide +kernel
/-- A plane of zeros of a format. -/
def zeroPlane (fmt : Nat) : MxPlane :=
  ⟨true, fmt, 0, [], [], [], List.replicate (512 / procWidth fmt) (sumX [.fin false 0 0]).dyadic⟩
/-- It is the engine's active plane. -/
def mmsS (fmt : Nat) : State := withBay gridS fun b => { b with mx := { b.mx with act := false, pa := zeroPlane fmt } }
/-- An `MMS` of activation elements of a format. -/
def mmsC (fmt : Word) : MxCmd :=
  ⟨w0, ⟨0, 0⟩, 0x1B2, fE 0 0 0, 0, 0, 64, 0, fresh fmt :: List.replicate 15 .zero, false, 0⟩

/-- Every column of a plane that holds no word is the same. -/
theorem zero_columns (p : MxPlane) (h : p.words = [] ∧ p.scales = [] ∧ p.bands = []) (n : Nat) :
    planeValues p n = .ok (rowValues p.fmt p.kind 0 [] 0) := by
  have hz : (List.range 16).map (fun _ : Nat => W40.zero) = List.replicate 16 W40.zero := by decide
  have hw : (List.map (fun i => agetD p.words (16 * n + i) W40.zero) (List.range 16)) = List.replicate 16 W40.zero := by
    rw [h.1, ← hz]; rfl
  have hg : (List.replicate 16 W40.zero).find? (fun w => !good w) = none := by decide +kernel
  have ht : tokVal (List.replicate 16 W40.zero) = 0 := by decide +kernel
  simp only [planeValues, planeColumn, hw, hg, ht, h.2.1, h.2.2]
  rfl

theorem all_ok_replicate {α : Type} (a : α) (n : Nat) :
    allOk (List.replicate n (.ok a : Except MxBad α)) = .ok (List.replicate n a) := by
  induction n with
  | zero => rfl
  | succ n ih => simp only [List.replicate_succ, allOk, ih]; rfl

/-- A row of zeros times a plane of zeros is applied, if its one column passes the check. -/
theorem zero_row (s : State) (c : MxCmd) (fmt : Nat) (hr : recPair c false = (fmt, 0)) (ho : c.opc = 0x1B2)
    (hp : (s.bay 0).mx.plane = zeroPlane fmt) (hd : modeDN c.mode = 0)
    (h0 : (readBytes s 0 (((s.team? 0 c.key).getD (noTeam c.key)).bspBase) (cmdRowAt c 0) 64).toOption = some 0)
    (hc : let a := rowValues fmt 0 (flushRow fmt 0 0) [] 0
      let p := (a.zip (rowValues fmt 0 0 [] 0)).map fun q => mulX q.1 q.2
      rowCheck (procWidth fmt) a (zeroPlane fmt).csum (List.replicate 128 p)
        (List.replicate 128 (groupSum (procWidth fmt) p)) = true) : ∃ t, applyRow s 0 c 0 = .ok t := by
  have hm : ∃ v, mmsRow s 0 c 0 = .ok v := by
    have hcols : (List.range 128).map (planeValues (zeroPlane fmt)) =
        List.replicate 128 (.ok (rowValues fmt 0 0 [] 0)) := by
      rw [show planeValues (zeroPlane fmt) = fun _ => .ok (rowValues fmt 0 0 [] 0) from
        funext fun n => zero_columns _ ⟨rfl, rfl, rfl⟩ n, List.map_const', List.length_range]
    have h1 : readBytes s 0 (((s.team? 0 c.key).getD (noTeam c.key)).bspBase) (cmdRowAt c 0) 64 = .ok 0 := by
      revert h0; cases readBytes s 0 (((s.team? 0 c.key).getD (noTeam c.key)).bspBase) (cmdRowAt c 0) 64 <;>
        simp [Except.toOption]
    have h2 : ∀ b o, readBytes s 0 b o 0 = .ok 0 := fun _ _ => rfl
    simp only [mmsRow, hr, hp, hcols, all_ok_replicate, hd, h1, bind, Except.bind, scaleSetBytes, if_true, h2, bytesOf,
      List.range_zero, List.map_nil, show ((0 : Nat) = 1) = False by decide, if_false, List.map_replicate, hc, Bool.not_true,
      Bool.false_eq_true]
    exact ⟨_, rfl⟩
  obtain ⟨v, hv⟩ := hm
  simp only [applyRow, ho, if_true, hv]
  exact ⟨_, rfl⟩
/-- A row of the integer class, and one of FP32 elements. -/
theorem test_meets_mms_row : (∃ t, applyRow (mmsS 0x10) 0 (mmsC 0x10) 0 = .ok t) ∧ integerClass 0x10 0 0x10 0 = true := by
  refine ⟨zero_row _ _ 0x10 ?_ ?_ ?_ ?_ ?_ ?_, ?_⟩ <;> decide +kernel
theorem test_meets_mms_float : (∃ t, applyRow (mmsS 0x0A) 0 (mmsC 0x0A) 0 = .ok t) ∧ integerClass 0x0A 0 0x0A 0 = false := by
  refine ⟨zero_row _ _ 0x0A ?_ ?_ ?_ ?_ ?_ ?_, ?_⟩ <;> decide +kernel

/-- A side of a request that fails at its chunk, the source being good. -/
theorem test_meets_copy_destination :
    let q := oneWord.take 4 ++ [fresh 65536] ++ oneWord.drop 5
    (match sideLoc (copyS 0 none) w0 (warpAt (copyS 0 none)) q false 0 with | .ok _ => true | .error _ => false) = true ∧
    (match sideLoc (copyS 0 none) w0 (warpAt (copyS 0 none)) q true 0 with
      | .ok _ => false | .error f => (stalls f).isNone) = true := by refine ⟨?_, ?_⟩ <;> decide +kernel
/-- A bank over the threshold, and one at it. -/
theorem test_meets_bank_interval :
    let s : State := { (State.reset.modSill 11 fun y => { y with corr := [(3, 5)] }) with
      rel := { RelLog.reset with autoD := true, thr := 4 } }
    s.rel.autoD = true ∧ s.rel.thr < agetD (s.sill 11).corr 3 0 ∧ ¬ s.rel.thr < agetD (s.sill 11).corr 4 0 := by
  refine ⟨?_, ?_, ?_⟩ <;> decide +kernel
/-- Status of a child: an entry of another use, of another grid, and of a child whose teams have retired. -/
theorem test_meets_child :
    childStatus ⟨true, 0, 3, 0, some ⟨0, 0⟩, none⟩ none 0 4 = 2 ∧ childStatus ⟨true, 0, 3, 0, some ⟨1, 0⟩, none⟩ none 0 3 = 3 ∧
    childStatus ⟨true, 0, 3, 1, some ⟨0, 0⟩, none⟩ (some { grid1 0 with retired := 1 }) 0 3 = 1 ∧
    childStatus ⟨true, 0, 3, 1, some ⟨0, 0⟩, none⟩ (some (grid1 0)) 0 3 = 0 := by refine ⟨?_, ?_, ?_, ?_⟩ <;> decide +kernel

/-! ## Steps -/

theorem test_meets_step_node :
    let s := State.reset.withFetchWord 64 0x2000_FFFF_F000_0001
    s.agenda = [(0, .issue 0 0)] ∧ (turned s 0 []).now < (turned s 0 []).power.next ∧
    firedNow ((turned s 0 []).bay 0) 0 = false ∧ (∀ j, j < 0 → mayFireNode (blkAt s) j = false) ∧
    issueOrder ((turned s 0 []).bay 0) 0 = [(0, warpAt s, blkAt s)] ∧ mayFireNode (blkAt s) 0 = true ∧
    nodeWalk (turned s 0 []) (warpIdOf 0 0) (warpAt (turned s 0 [])) (blkAt (turned s 0 [])) 0 = none := by
  refine ⟨?_, ?_, ?_, ?_, ?_, ?_, ?_⟩ <;> decide +kernel
theorem test_meets_step_elem :
    let s := State.reset.withFetchWord 96 0x0000_1028_C022_0000_0000_4000
    s.agenda = [(0, .elem (e0 17))] ∧
    (((turned s 0 []).bay 0).elem 0 1).slotWord false 0 = 0x0000_1028_C022_0000_0000_4000 := by
  refine ⟨?_, ?_⟩ <;> decide +kernel
theorem test_meets_step_agent :
    agentWork (turned { kingS 0 with agenda := [(1, .grid 1)] } 1 []) (.grid 1) =
      [.instr (.gridRetire 1), .instr (.deviceGridPassedOver 1)] ∧
    goesOn (exec (.leaseIntervalEnd 0) (withBay atEdge fun b => { b with misses := 1024 })) = true := by
  refine ⟨?_, ?_⟩ <;> decide +kernel
theorem test_meets_step_input :
    (inputRow State.reset (.registerWrite ⟨0x1000010, 4, 1⟩)).isSome = true ∧
    goesOn (exec .warmReset State.reset) = true := by refine ⟨?_, ?_⟩ <;> decide +kernel
theorem test_meets_step_interval :
    let s : State := { State.reset with agenda := [(4096, .king)] }
    (turned s 4096 []).power.next ≤ (turned s 4096 []).now ∧
    goesOn (exec (.powerInterval (demandNow (turned s 4096 []))) (turned s 4096 [])) = true := by
  refine ⟨?_, rfl⟩; decide +kernel
theorem test_meets_step_idle : (act (turned { State.reset with agenda := [(5, .king)] } 5 []) .king).isNone = true := by
  decide +kernel
theorem test_meets_encode : (Instr.trap ⟨3, 3, 0xFFFF⟩).wf = true ∧ (Instr.elemMov (fX 1 2 0 0 0 4)).wf = true := by decide
/-- Reset is canonical, and a step from a state that is answers one. -/
theorem test_meets_canonical : Memory.empty.wf = true ∧ State.reset.bays = [] ∧
    goesOn (step { State.reset with inbox := [.bar2Write 4 [1, 2, 3, 4]] }) = true := by
  refine ⟨?_, ?_, ?_⟩ <;> decide +kernel

end Sys2Proof.Tests
end

section
/-! What an entry in the reliability log leaves alone (R396, R397): everything but memory, the log, the interrupts and
the snapshot registers. -/

namespace Sys2Proof.Machine

/-! ## Folds -/

/-- A reading that no step of a fold changes is as it was at the end. -/
theorem foldl_keeps {α β γ : Type} (g : β → γ) {f : β → α → β} (h : ∀ t a, g (f t a) = g t) (l : List α) (t : β) :
    g (l.foldl f t) = g t := by
  induction l generalizing t with
  | nil => rfl
  | cons a r ih => rw [List.foldl_cons, ih, h]

/-! ## A warp after a change that is not its own -/

/-- A bay rewritten in other fields than its warps holds the warps that it held. -/
theorem warp_modBay {f : Bay → Bay} (hf : ∀ b, (f b).warps = b.warps) (s : State) (n : Nat) (w : WarpId) :
    (s.modBay n f).warp? w = s.warp? w := by
  simp only [State.warp?, bay_modBay]
  split
  · rename_i h
    rw [hf, h]
  · rfl

theorem warp_raise (s : State) (v : Nat) (w : WarpId) : (s.raise v).warp? w = s.warp? w := by
  rw [State.raise]; split <;> rfl

/-! ## The snapshot trigger and the log -/

/-- A reading that no rewriting of the latch and of bays' fields other than their warps changes is as it was before a
snapshot trigger (R407). -/
theorem trigger_keeps {α : Type} (g : State → α) (hs : ∀ t x, g { t with snap := x } = g t)
    (hb : ∀ t n (f : Bay → Bay), (∀ b, (f b).warps = b.warps) → g (t.modBay n f) = g t) (s : State) (tag : Nat) :
    g (s.trigger tag) = g s := by
  rw [State.trigger]
  split
  · exact hs ..
  · rw [latchBays, foldl_keeps g]
    · exact hs ..
    · exact fun t n => hb t n _ fun _ => rfl

/-- A reading that no rewriting of memory and the log, no interrupt and no snapshot trigger changes is as it was before
an entry in the log. -/
theorem logEvent_keeps {α : Type} (g : State → α) (hm : ∀ t m r, g { t with mem := m, rel := r } = g t)
    (hr : ∀ t v, g (t.raise v) = g t) (ht : ∀ t tag, g (t.trigger tag) = g t)
    (s : State) (cls unit num : Nat) (addr : Double) (syn ctx : Nat) :
    g (s.logEvent cls unit num addr syn ctx) = g s := by
  simp only [State.logEvent, apply_ite g, hm, hr, ht, ite_self]

/-! ## The fields that the log leaves alone -/

/-- What neither the log nor a snapshot trigger writes: the state with all that they write blanked. -/
def State.unlogged (s : State) : State :=
  { s with mem := .empty, rel := .reset, irqs := [], pend := 0, bays := [], snap := .reset }

theorem unlogged_raise (s : State) (v : Nat) : (s.raise v).unlogged = s.unlogged := by
  rw [State.raise]; split <;> rfl

section
variable (s : State) (cls unit num : Nat) (addr : Double) (syn ctx : Nat)

theorem unlogged_logEvent : (s.logEvent cls unit num addr syn ctx).unlogged = s.unlogged :=
  logEvent_keeps State.unlogged (fun _ _ _ => rfl) unlogged_raise
    (trigger_keeps State.unlogged (fun _ _ => rfl) fun _ _ _ _ => rfl) s cls unit num addr syn ctx

/-- A reading of what the log does not write is as it was before an entry in the log. -/
theorem logEvent_reads {α : Type} (g : State → α) (hg : ∀ t : State, g t.unlogged = g t) :
    g (s.logEvent cls unit num addr syn ctx) = g s := by
  rw [← hg, unlogged_logEvent, hg]

theorem warp_logEvent (w : WarpId) : (s.logEvent cls unit num addr syn ctx).warp? w = s.warp? w :=
  logEvent_keeps (State.warp? · w) (fun _ _ _ => rfl) (fun t v => warp_raise t v w)
    (trigger_keeps (State.warp? · w) (fun _ _ => rfl) fun t n _ hf => warp_modBay hf t n w) s cls unit num addr syn ctx

@[simp] theorem State.logEvent_grids : (s.logEvent cls unit num addr syn ctx).grids = s.grids :=
  logEvent_reads s cls unit num addr syn ctx State.grids fun _ => rfl

@[simp] theorem State.logEvent_queues : (s.logEvent cls unit num addr syn ctx).queues = s.queues :=
  logEvent_reads s cls unit num addr syn ctx State.queues fun _ => rfl

@[simp] theorem State.logEvent_vl : (s.logEvent cls unit num addr syn ctx).vl = s.vl :=
  logEvent_reads s cls unit num addr syn ctx State.vl fun _ => rfl

@[simp] theorem State.logEvent_ctxs : (s.logEvent cls unit num addr syn ctx).ctxs = s.ctxs :=
  logEvent_reads s cls unit num addr syn ctx State.ctxs fun _ => rfl

@[simp] theorem State.logEvent_poisoned : (s.logEvent cls unit num addr syn ctx).poisoned = s.poisoned :=
  logEvent_reads s cls unit num addr syn ctx State.poisoned fun _ => rfl

@[simp] theorem State.logEvent_recs : (s.logEvent cls unit num addr syn ctx).recs = s.recs :=
  logEvent_reads s cls unit num addr syn ctx State.recs fun _ => rfl

@[simp] theorem State.logEvent_fw : (s.logEvent cls unit num addr syn ctx).fw = s.fw :=
  logEvent_reads s cls unit num addr syn ctx State.fw fun _ => rfl

@[simp] theorem State.logEvent_power : (s.logEvent cls unit num addr syn ctx).power = s.power :=
  logEvent_reads s cls unit num addr syn ctx State.power fun _ => rfl

@[simp] theorem State.logEvent_sills : (s.logEvent cls unit num addr syn ctx).sills = s.sills :=
  logEvent_reads s cls unit num addr syn ctx State.sills fun _ => rfl

end

end Sys2Proof.Machine
end

section
/-! Writes at a home (R236, R246, R253): what a word that is written there leaves of memory and of the links. -/

namespace Sys2Proof.Machine

/-! ## Words of a memory beside a write -/

/-- A word other than the one that is written is as it was. -/
theorem word_setWord_other (m : Memory) {a k : Nat} (w : W40) (ha : a % 4 = 0) (hk : k % 4 = 0) (h : k ≠ a) :
    (m.setWord a w).word k = m.word k := by
  have hq : k / 4 ≠ a / 4 := by omega
  have hc : (m.setWord a w).code k = m.code k := by
    simp only [Memory.code, Memory.setWord]
    rw [agetD_aput, if_neg hq]
    rfl
  have hp : (m.setWord a w).poison.contains (k / 4) = m.poison.contains (k / 4) := by
    cases hw : w.p with
    | false => simp [Memory.setWord, Memory.setByte, hw, hq]
    | true =>
      by_cases hmem : a / 4 ∈ m.poison
      · simp [Memory.setWord, Memory.setByte, hw, hmem]
      · simp [Memory.setWord, Memory.setByte, hw, hmem, mem_insertNat, hq]
  have hb (i : Nat) (hi : i < 4) : (m.setWord a w).byte (k + i) = m.byte (k + i) :=
    byte_setWord_other m a (k + i) w (by omega)
  simp only [Memory.word, hc, hp, hb 1 (by omega), hb 2 (by omega), hb 3 (by omega),
    show (m.setWord a w).byte k = m.byte k from hb 0 (by omega)]

/-- Words written from an address on leave the word below it. -/
theorem word_setWords_below (m : Memory) {a k : Nat} (ws : List W40) (ha : a % 4 = 0) (hk : k % 4 = 0) (h : k < a) :
    (m.setWords a ws).word k = m.word k := by
  induction ws generalizing m a with
  | nil => rfl
  | cons w r ih =>
    rw [Memory.setWords, ih _ (by omega) (by omega), word_setWord_other m w ha hk (by omega)]

/-- Each of the words written is read back. -/
theorem word_setWords (m : Memory) {a i : Nat} {ws : List W40} {v : W40} (ha : a % 4 = 0) (h : ws[i]? = some v) :
    (m.setWords a ws).word (a + 4 * i) = v := by
  induction ws generalizing m a i with
  | nil => cases h
  | cons w r ih =>
    cases i with
    | zero =>
      obtain rfl : w = v := by simpa using h
      exact (word_setWords_below _ r (a := a + 4) (by omega) ha (by omega)).trans (word_setWord m a w)
    | succ n =>
      rw [Memory.setWords, show a + 4 * (n + 1) = a + 4 + 4 * n by omega]
      exact ih _ (by omega) (by simpa using h)

/-! ## What a write at a home sets off -/

@[simp] theorem State.afterWrite_mem (s : State) (l : Loc) : (s.afterWrite l).mem = s.mem := by
  cases l with
  | phys pa => simp only [State.afterWrite]; split <;> rfl
  | pad b o => simp only [State.afterWrite]; split <;> rfl
  | remote p pa => rfl

@[simp] theorem State.afterWrite_vl (s : State) (l : Loc) : (s.afterWrite l).vl = s.vl := by
  cases l with
  | phys pa => simp only [State.afterWrite]; split <;> rfl
  | pad b o => simp only [State.afterWrite]; split <;> rfl
  | remote p pa => rfl

@[simp] theorem State.putHomeWord_vl (s : State) (l : Loc) (w : W40) : (s.putHomeWord l w).vl = s.vl := by
  cases l <;> rfl

@[simp] theorem State.setHomeWord_vl (s : State) (l : Loc) (w : W40) : (s.setHomeWord l w).vl = s.vl := by
  cases l with
  | phys pa => exact State.afterWrite_vl ..
  | pad b o => exact State.afterWrite_vl ..
  | remote p pa => rfl

@[simp] theorem State.setHomeWords_vl (s : State) (l : Loc) (ws : List W40) : (s.setHomeWords l ws).vl = s.vl :=
  (foldl_keeps State.vl (fun t (p : Loc × W40) => t.afterWrite_vl p.1) _ _).trans
    (foldl_keeps State.vl (fun t (p : Loc × W40) => t.putHomeWord_vl p.1 p.2) _ _)

/-- Words put one after the other from an address of device memory. -/
theorem mem_putHomeWords (s : State) (a n : Nat) (ws : List W40) :
    ((((ws.zipIdx n).map fun p => ((Loc.phys a).add (4 * p.2), p.1)).foldl
      (fun t p => t.putHomeWord p.1 p.2) s)).mem = s.mem.setWords (a + 4 * n) ws := by
  induction ws generalizing s n with
  | nil => rfl
  | cons w r ih =>
    rw [List.zipIdx_cons, List.map_cons, List.foldl_cons, ih, Memory.setWords,
      show a + 4 * (n + 1) = a + 4 * n + 4 by omega]
    rfl

/-- Words written at a home in device memory. -/
theorem mem_setHomeWords (s : State) (a : Nat) (ws : List W40) :
    (s.setHomeWords (.phys a) ws).mem = s.mem.setWords a ws :=
  (foldl_keeps State.mem (fun t (p : Loc × W40) => t.afterWrite_mem p.1) _ _).trans (mem_putHomeWords s a 0 ws)

/-! ## The links beside records and merges -/

@[simp] theorem writeSlot_vl (s : State) (p seq : Nat) (words : Assoc W40) :
    (writeSlot s p seq words).vl = s.vl := by
  rw [writeSlot, State.setHomeWord_vl, State.setHomeWord_vl,
    foldl_keeps State.vl fun t (q : Nat × W40) => t.setHomeWord_vl (.phys (p + q.1)) q.2]

@[simp] theorem writeRecord_vl (s : State) (r : Record) : (writeRecord s r).vl = s.vl := by
  simp only [writeRecord, apply_ite State.vl, State.raise_vl, State.modCtx_vl, writeSlot_vl, ite_self]

@[simp] theorem State.addRecord_vl (s : State) (r : Record) : (s.addRecord r).vl = s.vl := by
  simp only [State.addRecord, apply_ite State.vl, writeRecord_vl, State.modCtx_vl, ite_self]

@[simp] theorem State.notice_vl (s : State) (ctx sub bay region port tid gid agent : Nat) (f020 : Double) (f028 : Nat)
    (f038 : Double) : (s.notice ctx sub bay region port tid gid agent f020 f028 f038).vl = s.vl :=
  State.addRecord_vl ..

@[simp] theorem homeMerge_vl (s : State) (pa : Nat) (m : BitVec 4) (n : Word) (cn : Byte) :
    (homeMerge s pa m n cn).vl = s.vl := by
  simp only [homeMerge, apply_ite State.vl, State.logEvent_vl, State.setHomeWord_vl, ite_self]

end Sys2Proof.Machine
end

section
/-! Step runs the agents' rows (O56): what the two forms of the schedule do, and what an agent does whose turn it is. -/

namespace Sys2Proof.Machine

open Sys2Proof.Claims

/-! ## The schedule -/

/-- A step with an entry of the schedule: the clocks pass, then the named agent acts if it can. -/
theorem step_agenda {s : State} {n : Nat} {a : Actor} {r : List (Nat × Actor)} (h : s.agenda = (n, a) :: r) :
    step s = .next ((act (turned s n r) a).getD (turned s n r)) := by
  simp only [step, h, turned]

/-- A step without a schedule: one clock passes, then the first agent that can acts. -/
theorem step_no_agenda {s : State} (h : s.agenda = []) :
    step s = .next ((firstAgent (tick 1 s) (agents (tick 1 s))).getD (tick 1 s)) := by
  simp only [step, h]

/-- Whatever the schedule holds, a step goes on. -/
theorem step_goes (s : State) : Goes s := by
  cases h : s.agenda with
  | nil => exact ⟨_, step_no_agenda h⟩
  | cons p r => exact ⟨_, step_agenda h⟩

/-! ## The agent that moves -/

theorem mover_not_due {s : State} (h : NoIntervalDue s) (a : Actor) : mover s a = a := if_neg (Nat.not_le.2 h)

theorem mover_due {s : State} (h : s.power.next ≤ s.now) (a : Actor) : mover s a = .power := if_pos h

theorem act_env {s : State} (h : NoIntervalDue s) : act s .env = takeInput s := by
  simp only [act, mover_not_due h]

/-- An agent other than the outside world does the first of its work that can be done. -/
theorem act_agent {s : State} {a : Actor} (h : NoIntervalDue s) (ha : a ≠ .env) :
    act s a = firstDone s (agentWork s a) := by
  rw [act, mover_not_due h]
  cases a with
  | env => exact absurd rfl ha
  | _ => rfl

/-- A power interval that is due comes first, whoever's turn it is (R393). -/
theorem act_due {s : State} (h : s.power.next ≤ s.now) (a : Actor) :
    act s a = firstDone s [.instr (.powerInterval (demandNow s))] := by
  simp only [act, mover_due h, agentWork]

/-- The first work of a list is done when it is a row that completes. -/
theorem firstDone_instr {s u : State} {i : Instr} (h : exec i s = .next u) (rest : List Work) :
    firstDone s (.instr i :: rest) = some u := by
  simp only [firstDone, runWork, h]

/-- The oldest input is performed in the row that its register gives it (R352). -/
theorem takeInput_row {s u : State} {i j : Instr} {rest : List Instr} (hi : s.inbox = i :: rest)
    (hj : inputRow { s with inbox := rest } i = some j) (hu : exec j { s with inbox := rest } = .next u) :
    takeInput s = some u := by
  simp only [takeInput, hi, hj, Option.map_some, hu]

/-- Without a schedule the outside world is the first agent asked. -/
theorem firstAgent_env {s u : State} (h : act s .env = some u) : firstAgent s (agents s) = some u := by
  simp only [agents, List.cons_append, firstAgent, h]

/-- Settles O56: each clause is a branch of `step`, of `mover` and of `act`. -/
theorem stepRunsTheAgentsRow : Obligations.StepRunsTheAgentsRow := by
  refine ⟨?agent, ?input, ?unscheduled, ?interval, ?idle, step_goes⟩
  case agent =>
    intro s n a i rest r u hs hq ha hw hu
    rw [step_agenda hs, act_agent hq ha, hw, firstDone_instr hu, Option.getD_some]
  case input =>
    intro s n i j rest r u hs hq hi hj hu
    rw [step_agenda hs, act_env hq, takeInput_row hi hj hu, Option.getD_some]
  case unscheduled =>
    intro s i j rest u hs hq hi hj hu
    have hact : act (tick 1 s) .env = some u := (act_env hq).trans (takeInput_row hi hj hu)
    rw [step_no_agenda hs, firstAgent_env hact, Option.getD_some]
  case interval =>
    intro s n a r u hs hd hu
    rw [step_agenda hs, act_due hd, firstDone_instr hu, Option.getD_some]
  case idle =>
    intro s n a r hs hn
    rw [step_agenda hs, hn, Option.getD_none]

end Sys2Proof.Machine
end

section
/-! The events of service and repair (O43): reports, live updates, drifts, the banks' intervals, bays that are due. -/

namespace Sys2Proof.Machine

open Sys2Proof.Claims

/-- A map with every value rewritten reads the rewritten value. -/
theorem aget_map {α β : Type} (m : Assoc α) (f : Nat → α → β) (k : Nat) :
    aget (m.map fun p => (p.1, f p.1 p.2)) k = (aget m k).map (f k) := by
  induction m with
  | nil => rfl
  | cons p r ih =>
    simp only [List.map_cons, aget]
    split
    · subst_vars; rfl
    · exact ih

/-! ## What a reset of the service registers leaves (R10) -/

/-- Every stack's count of corrected lines has its reset value. -/
theorem sill_serviceReset_total (s : State) (st : Nat) : ((serviceReset s).sill st).total = 0 := by
  have hget : aget (serviceReset s).sills st = (aget s.sills st).map fun x => { x with total := 0 } :=
    aget_map s.sills (fun _ (x : Sill) => ({ x with total := 0 } : Sill)) st
  rw [State.sill, agetD, hget]
  cases aget s.sills st <;> rfl

/-- Every warp is as it was. -/
theorem warp_serviceReset (s : State) (w : WarpId) : (serviceReset s).warp? w = s.warp? w := by
  have hget : aget (serviceReset s).bays w.bay = (aget s.bays w.bay).map Bay.countersReset :=
    aget_map s.bays (fun _ x => x.countersReset) w.bay
  rw [State.warp?, State.warp?, State.bay, State.bay, agetD, agetD, hget]
  cases aget s.bays w.bay <;> rfl

/-! ## A component switch (R406) -/

/-- The state in which component c has switched to a verified image. -/
def switched (s : State) (c svn : Nat) (d : List Word) (rest : List (Nat × Nat × List Word)) : State :=
  { s with fw := { s.fw with
    fwTodo := rest
    svns := aset s.fw.svns c svn
    digests := aset s.fw.digests c d
    svn := if c = 0 then svn else s.fw.svn } }

/-- The end of an update: the service registers reset, DONE set, the event logged. -/
def updateDone (s : State) : State :=
  ({ serviceReset s with fw := { (serviceReset s).fw with svn := s.fw.svn, fwDone := true } } : State).logEvent
    0x0F 2 0 0 0 0

/-- A component whose units can all switch does, and the last one ends the update. -/
theorem execFwComponentSwitch_quiet {s : State} {c svn : Nat} {d : List Word} {rest : List (Nat × Nat × List Word)}
    (h : s.fw.fwTodo = (c, svn, d) :: rest) (hq : c = 2 → ∀ b ∈ s.fw.fwUnits, bayBusy s b = false) :
    execFwComponentSwitch s =
      .next (if rest.isEmpty then updateDone (switched s c svn d rest) else switched s c svn d rest) := by
  have hleft : (c = 2 && !(if c = 2 then s.fw.fwUnits.filter (bayBusy s) else []).isEmpty) = false := by
    by_cases hc : c = 2
    · simp [hc, List.filter_eq_nil_iff.2 fun b hb => Bool.eq_false_iff.1 (hq hc b hb)]
    · simp [hc]
  simp only [execFwComponentSwitch, h, hleft]
  rfl

/-- Bays that run blocks keep their microcode until they do not. -/
theorem execFwComponentSwitch_left {s : State} {svn : Nat} {d : List Word} {rest : List (Nat × Nat × List Word)}
    (h : s.fw.fwTodo = (2, svn, d) :: rest) (hsome : s.fw.fwUnits.filter (bayBusy s) ≠ [])
    (hnew : s.fw.fwUnits.filter (bayBusy s) ≠ s.fw.fwUnits) :
    execFwComponentSwitch s = .next { s with fw := { s.fw with fwUnits := s.fw.fwUnits.filter (bayBusy s) } } := by
  have hlen : (s.fw.fwUnits.filter (bayBusy s)).length ≠ s.fw.fwUnits.length := fun e =>
    hnew (List.filter_sublist.eq_of_length e)
  simp [execFwComponentSwitch, h, hsome, hlen]

/-- The end of an update loses no grid, queue, record, context or warp. -/
theorem updateDone_keeps (s : State) : (updateDone s).grids = s.grids ∧ (updateDone s).queues = s.queues ∧
    (updateDone s).recs = s.recs ∧ (updateDone s).ctxs = s.ctxs ∧ ∀ w, (updateDone s).warp? w = s.warp? w :=
  ⟨State.logEvent_grids .., State.logEvent_queues .., State.logEvent_recs .., State.logEvent_ctxs .., fun w =>
    (warp_logEvent ..).trans (warp_serviceReset s w)⟩

/-- The end of an update shows DONE, with nothing left to switch. -/
theorem updateDone_fw (s : State) : (updateDone s).fw.fwTodo = [] ∧ (updateDone s).fw.svns = s.fw.svns ∧
    (updateDone s).fw.fwBusy = false ∧ (updateDone s).fw.fwDone = true := by
  rw [updateDone, State.logEvent_fw]
  exact ⟨rfl, rfl, rfl, rfl⟩

/-- The end of an update leaves the registers of Tables 16.6, 17.7 and 18.4 at their reset value. -/
theorem updateDone_resets (s : State) : (updateDone s).poisoned = [] ∧ (updateDone s).power.err = false ∧
    ∀ st, ((updateDone s).sill st).total = 0 := by
  refine ⟨State.logEvent_poisoned .., congrArg Power.err (State.logEvent_power ..), fun st => ?_⟩
  rw [State.sill, updateDone, State.logEvent_sills]
  exact sill_serviceReset_total s st

/-! ## Drifts and banks (R399, R400) -/

theorem execDriftLineMove_inside {s : State} {st : Nat} (ha : (s.sill st).act = true)
    (hp : (s.sill st).ptr + 1 < regionLines (s.sill st).reg) :
    execDriftLineMove st s = .next (s.modSill st fun y => { y with ptr := y.ptr + 1 }) := by
  simp [execDriftLineMove, ha, hp]

/-- Settles O43: a report and each event by the branch of its meaning, a component switch by what `switched` and
`updateDone` leave. -/
theorem serviceEvents : Obligations.ServiceEvents := by
  refine ⟨?report, ?switch, ?bayByBay, ?drift, ?interval, ?retire⟩
  case report =>
    intro s hb
    refine ⟨_, by rw [exec_attReportDone, execAttReportDone, if_neg (by simp [hb])], ?_, ?_⟩ <;> rw [State.raise_fw]
  case switch =>
    intro s c svn d rest h hq
    have hexec := (exec_fwComponentSwitch s).trans (execFwComponentSwitch_quiet h hq)
    cases rest with
    | cons p r =>
      exact ⟨_, hexec, rfl, aget_aset_same .., fun e => absurd e (List.cons_ne_nil p r)⟩
    | nil =>
      obtain ⟨htodo, hsvns, hbusy, hdone⟩ := updateDone_fw (switched s c svn d [])
      obtain ⟨hpois, herr, htot⟩ := updateDone_resets (switched s c svn d [])
      exact ⟨_, hexec, htodo, hsvns ▸ aget_aset_same .., fun _ =>
        ⟨hbusy, hdone, hpois, herr, htot, updateDone_keeps (switched s c svn d [])⟩⟩
  case bayByBay =>
    intro s svn d rest h left hsome hnew
    exact (exec_fwComponentSwitch s).trans (execFwComponentSwitch_left h hsome hnew)
  case drift =>
    intro s st ha hp
    exact (exec_driftLineMove st s).trans (execDriftLineMove_inside ha hp)
  case interval =>
    intro s st b u
    simp only [exec_bankCountInterval, execBankCountInterval, Bool.and_eq_true, decide_eq_true_eq]
    rfl
  case retire =>
    intro s b ha hc hb hd
    simp [exec_autoBayRetire, execAutoBayRetire, ha, hc, hb, hd]

end Sys2Proof.Machine
end

section
/-! Register writes complete (O44): a BAR0 write that meets a register finds, in the row of that register, a meaning
that answers a next state. -/

namespace Sys2Proof.Machine

open Sys2Proof.Claims

/-! ## REGISTER_WRITE -/

theorem execRegisterWrite_bad {s : State} {r : RegWrite} (h : writeAsk s r = .bad) :
    execRegisterWrite r s = .next (s.reply .unsupported) := by
  simp only [execRegisterWrite, h]

theorem execRegisterWrite_ignored {s : State} {r : RegWrite} (h : writeAsk s r = .ignored) :
    execRegisterWrite r s = .next s := by
  simp only [execRegisterWrite, h]

theorem execRegisterWrite_one {s : State} {r : RegWrite} {h : RegHit} (ha : writeAsk s r = .one h)
    (hr : rowOf s r h = .registerWrite r) : execRegisterWrite r s = .next (putReg s h) := by
  simp only [execRegisterWrite, ha, hr, if_true]

/-! ## The rows of a register with a behaviour of its own -/

/-- The row of the register that a write meets answers what its meaning gives on that register. -/
theorem onReg_some {s t : State} {r : RegWrite} {h : RegHit} {row : Instr} {f : RegHit → Option State}
    (ha : writeAsk s r = .one h) (hr : rowOf s r h = row) (hf : f h = some t) : onReg s r row f = .next t := by
  simp only [onReg, ha, hr, hf, if_true]

section
variable {s : State} {r : RegWrite} {h : RegHit}

/-- A row whose meaning is defined on the register that a write meets performs the write. -/
theorem runs_of_onReg {row : Instr} {f : RegHit → Option State} (ha : writeAsk s r = .one h) (hr : rowOf s r h = row)
    (he : exec row s = onReg s r row f) (hf : (f h).isSome) : Runs (rowOf s r h) s := by
  obtain ⟨t, ht⟩ := Option.isSome_iff_exists.1 hf
  exact ⟨t, by rw [hr, he, onReg_some ha hr ht]⟩

/-- REGISTER_WRITE performs a write that meets a register with no behaviour of its own. -/
theorem runs_of_registerWrite (ha : writeAsk s r = .one h) (hr : rowOf s r h = .registerWrite r) :
    Runs (rowOf s r h) s :=
  ⟨putReg s h, by rw [hr, exec_registerWrite, execRegisterWrite_one ha hr]⟩

/-- SAVE_CTL: a restore, a save, or the fields alone (R377). -/
theorem runs_saveCtl {c : Nat} (ha : writeAsk s r = .one h) (hreg : h.reg = .saveCtl c) : Runs (rowOf s r h) s := by
  cases hrst : vbit h 2 with
  | true =>
    refine runs_of_onReg ha (row := .ctxRestore r) (by simp [rowOf, hreg, hrst]) (exec_ctxRestore r s) ?_
    simp only [hreg]
    split <;> rfl
  | false =>
    cases hpreq : vbit h 0 with
    | true =>
      exact runs_of_onReg ha (row := .ctxSave r) (by simp [rowOf, hreg, hrst, hpreq]) (exec_ctxSave r s)
        (by simp [hreg])
    | false => exact runs_of_registerWrite ha (by simp [rowOf, hreg, hrst, hpreq])

/-- SAFE_CTL: REQ rises, falls, or stays (R346). -/
theorem runs_safeCtl {c : Nat} (ha : writeAsk s r = .one h) (hreg : h.reg = .safeCtl c) : Runs (rowOf s r h) s := by
  cases hnew : vbit h 0 <;> cases hold : (s.ctx c).safeReq
  case true.false =>
    exact runs_of_onReg ha (row := .safeStopRequest r) (by simp [rowOf, hreg, hnew, hold]) (exec_safeStopRequest r s)
      (by simp [hreg])
  case false.true =>
    exact runs_of_onReg ha (row := .safeRelease r) (by simp [rowOf, hreg, hnew, hold]) (exec_safeRelease r s)
      (by simp [hreg])
  case true.true => exact runs_of_registerWrite ha (by simp [rowOf, hreg, hnew, hold])
  case false.false => exact runs_of_registerWrite ha (by simp [rowOf, hreg, hnew, hold])

/-- POIS_CLR: the whole list, or one entry (R376). -/
theorem runs_poisClr (ha : writeAsk s r = .one h) (hreg : h.reg = .poisClr) : Runs (rowOf s r h) s := by
  cases hall : vbit h 0 with
  | true => exact runs_of_onReg ha (row := .poisClrAll r) (by simp [rowOf, hreg, hall]) (exec_poisClrAll r s) rfl
  | false => exact runs_of_onReg ha (row := .poisClrEntry r) (by simp [rowOf, hreg, hall]) (exec_poisClrEntry r s) rfl

/-- DBG_CTL: a break of every warp, or the fields alone (R380). -/
theorem runs_dbgCtl {c : Nat} (ha : writeAsk s r = .one h) (hreg : h.reg = .dbgCtl c) : Runs (rowOf s r h) s := by
  cases hbrk : vbit h 1 with
  | true =>
    exact runs_of_onReg ha (row := .brkallWrite r) (by simp [rowOf, hreg, hbrk]) (exec_brkallWrite r s) (by simp [hreg])
  | false => exact runs_of_registerWrite ha (by simp [rowOf, hreg, hbrk])

/-- SNAP_CTL: the latch armed, or the fields alone (R407). -/
theorem runs_snapCtl (ha : writeAsk s r = .one h) (hreg : h.reg = .snapCtl) : Runs (rowOf s r h) s := by
  cases harm : vbit h 0 with
  | true => exact runs_of_onReg ha (row := .snapArmWrite r) (by simp [rowOf, hreg, harm]) (exec_snapArmWrite r s) rfl
  | false => exact runs_of_registerWrite ha (by simp [rowOf, hreg, harm])

/-- DBG_STEP: a write that names no break record completes too (R381). -/
theorem runs_dbgStep {c : Nat} (ha : writeAsk s r = .one h) (hreg : h.reg = .dbgStep c) : Runs (rowOf s r h) s := by
  refine runs_of_onReg ha (row := .dbgStepWrite r) (by simp [rowOf, hreg]) (exec_dbgStepWrite r s) ?_
  simp only [hreg]
  split
  · rfl
  · split
    · rfl
    · split <;> rfl

/-- A doorbell is accepted or refused (R354). -/
theorem runs_kpqTail {k : Nat} (ha : writeAsk s r = .one h) (hreg : h.reg = .kpqTail k) : Runs (rowOf s r h) s := by
  refine runs_of_onReg ha (row := .queueDoorbell r) (by simp [rowOf, hreg]) (exec_queueDoorbell r s) ?_
  simp only [hreg]
  split <;> rfl

/-- ATT_REQ: nothing asked, refused, or begun (R390). -/
theorem runs_attReq (ha : writeAsk s r = .one h) (hreg : h.reg = .attReq) : Runs (rowOf s r h) s := by
  refine runs_of_onReg ha (row := .attRequest r) (by simp [rowOf, hreg]) (exec_attRequest r s) ?_
  dsimp only
  split
  · rfl
  · split <;> rfl

/-- BAY_RETIRE: nothing asked, one that goes on, or a new one (R403). -/
theorem runs_bayRetire (ha : writeAsk s r = .one h) (hreg : h.reg = .bayRetire) : Runs (rowOf s r h) s := by
  refine runs_of_onReg ha (row := .bayRetireWrite r) (by simp [rowOf, hreg]) (exec_bayRetireWrite r s) ?_
  dsimp only
  split
  · rfl
  · split <;> rfl

/-- FW_UPD: busy, nothing asked, a bad count, a bad image, or begun (R406). -/
theorem runs_fwUpd (ha : writeAsk s r = .one h) (hreg : h.reg = .fwUpd) : Runs (rowOf s r h) s := by
  refine runs_of_onReg ha (row := .fwUpdWrite r) (by simp [rowOf, hreg]) (exec_fwUpdWrite r s) ?_
  dsimp only
  split
  · rfl
  · split
    · rfl
    · split
      · rfl
      · split <;> rfl

/-- R352: whichever register a write meets, the row of that register completes. -/
theorem rowOf_runs (ha : writeAsk s r = .one h) : Runs (rowOf s r h) s := by
  cases hreg : h.reg with
  | saveCtl c => exact runs_saveCtl ha hreg
  | safeCtl c => exact runs_safeCtl ha hreg
  | poisClr => exact runs_poisClr ha hreg
  | dbgCtl c => exact runs_dbgCtl ha hreg
  | snapCtl => exact runs_snapCtl ha hreg
  | dbgStep c => exact runs_dbgStep ha hreg
  | kpqTail k => exact runs_kpqTail ha hreg
  | attReq => exact runs_attReq ha hreg
  | bayRetire => exact runs_bayRetire ha hreg
  | fwUpd => exact runs_fwUpd ha hreg
  | resume c => exact runs_of_onReg ha (by simp [rowOf, hreg]) (exec_resumeWrite r s) (by simp [hreg])
  | tlbInv c => exact runs_of_onReg ha (by simp [rowOf, hreg]) (exec_tlbInvWrite r s) (by simp [hreg])
  | kpqSched k => exact runs_of_onReg ha (by simp [rowOf, hreg]) (exec_queueSchedWrite r s) (by simp [hreg])
  | kpqBase k => exact runs_of_onReg ha (by simp [rowOf, hreg]) (exec_queueConfigWrite r s) (by simp [hreg])
  | kpqSize k => exact runs_of_onReg ha (by simp [rowOf, hreg]) (exec_queueConfigWrite r s) (by simp [hreg])
  | kpqCtx k => exact runs_of_onReg ha (by simp [rowOf, hreg]) (exec_queueConfigWrite r s) (by simp [hreg])
  | pwrLimit =>
    exact runs_of_onReg ha (by simp [rowOf, hreg]) (exec_powerRegisterWrite r s) (by simp [powerWrite, hreg])
  | pwrDom d =>
    exact runs_of_onReg ha (by simp [rowOf, hreg]) (exec_powerRegisterWrite r s) (by simp [powerWrite, hreg])
  | sillDrop => exact runs_of_onReg ha (by simp [rowOf, hreg]) (exec_sillDropWrite r s) rfl
  | _ => exact runs_of_registerWrite ha (by simp [rowOf, hreg])

end

/-- Settles O44, by the register that the write meets. -/
theorem registerWritesComplete : Obligations.RegisterWritesComplete := by
  refine ⟨?met, ?bad, ?ignored, ?put⟩
  case met =>
    rintro s r h i ha rfl
    exact rowOf_runs ha
  case bad =>
    intro s r ha
    rw [exec_registerWrite, execRegisterWrite_bad ha]
  case ignored =>
    intro s r ha
    rw [exec_registerWrite, execRegisterWrite_ignored ha]
  case put =>
    intro s r h ha hr
    rw [exec_registerWrite, execRegisterWrite_one ha hr]

end Sys2Proof.Machine
end

section
/-! Inputs of the outside world (O49): each completes, and the receiving side of a Voling stream (R251, R364). -/

namespace Sys2Proof.Machine

open Sys2Proof.Claims

/-! ## The state of a stream at the receiver -/

theorem volingIn_setVolingIn (s : State) (k : Nat) (x : VolingIn) : volingIn (setVolingIn s k x) k = x :=
  (agetD_aset ..).trans (if_pos rfl)

/-- A write performed at its home changes no stream. -/
@[simp] theorem performRemote_vl (s : State) (m : VolingWrite) : (performRemote s m).vl = s.vl := by
  simp only [performRemote, apply_ite State.vl, State.notice_vl, State.setHomeWords_vl, homeMerge_vl, ite_self]

/-- A write of whole words inside the window stands at its home. -/
theorem mem_performRemote {s : State} {m : VolingWrite} (hwin : m.addr + m.len ≤ s.vl.winSize)
    (hpop : rangePopulated (s.vl.winBase + m.addr) m.len = true) (hlen : m.len % 4 = 0)
    (ha : (s.vl.winBase + m.addr) % 4 = 0) (hws : m.words.length = m.len / 4) :
    (performRemote s m).mem = s.mem.setWords (s.vl.winBase + m.addr) m.words := by
  simp only [performRemote, Nat.not_lt.2 hwin, hpop, hlen, ha, ← hws, List.take_length, decide_false, decide_true,
    Bool.not_true, Bool.or_self, Bool.and_self, Bool.false_eq_true, if_false, if_true, mem_setHomeWords]

/-! ## A write in sequence -/

/-- It moves the expected number on. -/
theorem volingIn_acceptRemote (s : State) (k : Nat) (m : VolingWrite) : volingIn (acceptRemote s k m) k =
    ⟨((volingIn s k).expected + 1) % 2 ^ 48, (volingIn s k).held⟩ := by
  have hin : volingIn (performRemote s m) k = volingIn s k := by
    rw [volingIn, performRemote_vl, volingIn]
  exact (volingIn_setVolingIn ..).trans (by rw [hin])

/-- It is acknowledged. -/
theorem acks_acceptRemote (s : State) (k : Nat) (m : VolingWrite) :
    (acceptRemote s k m).vl.acks = s.vl.acks ++ [(m.src, m.stream, m.seq)] := by
  change (performRemote s m).vl.acks ++ [(m.src, m.stream, m.seq)] = _
  rw [performRemote_vl]

theorem mem_acceptRemote (s : State) (k : Nat) (m : VolingWrite) :
    (acceptRemote s k m).mem = (performRemote s m).mem := by
  rw [acceptRemote, acknowledge, setVolingIn]

/-! ## The held writes that follow -/

/-- Nothing follows when no held write has the expected number. -/
theorem drainHeld_none {s : State} {k : Nat} (h : ∀ x ∈ (volingIn s k).held, x.seq ≠ (volingIn s k).expected)
    (n : Nat) :
    drainHeld s k n = s := by
  cases n with
  | zero => rfl
  | succ n =>
    have hf : (volingIn s k).held.find? (·.seq == (volingIn s k).expected) = none :=
      List.find?_eq_none.2 fun x hx => by simpa using h x hx
    simp only [drainHeld, hf]

/-- The only held write follows when it has the expected number. -/
theorem drainHeld_one {s : State} {k : Nat} {x : VolingWrite} (h : volingIn s k = ⟨x.seq, [x]⟩) (n : Nat) :
    drainHeld s k (n + 1) = acceptRemote (setVolingIn s k ⟨x.seq, []⟩) k x := by
  have hnone : ∀ y ∈ (volingIn (acceptRemote (setVolingIn s k ⟨x.seq, []⟩) k x) k).held,
      y.seq ≠ (volingIn (acceptRemote (setVolingIn s k ⟨x.seq, []⟩) k x) k).expected := by
    simp [volingIn_acceptRemote, volingIn_setVolingIn]
  rw [← drainHeld_none hnone n]
  simp [drainHeld, h]

/-! ## The cases of R251 -/

section
variable {s : State} {m : VolingWrite} {x : VolingIn} (hx : volingIn s (streamKey m.src m.stream) = x)
include hx

/-- A write below the expected number is acknowledged again. -/
theorem execVolingWriteReceive_old (h : m.seq < x.expected) : execVolingWriteReceive m s = .next (acknowledge s m) := by
  simp only [execVolingWriteReceive, hx, Nat.ne_of_lt h, h, if_false, if_true]

/-- A write above it that is held already, or for which there is no room, is discarded. -/
theorem execVolingWriteReceive_drop (h : x.expected < m.seq)
    (hd : (∃ y ∈ x.held, y.seq = m.seq) ∨ 64 ≤ x.held.length) : execVolingWriteReceive m s = .next s := by
  have hd' : (x.held.any (·.seq == m.seq) || 64 ≤ x.held.length) = true := by simpa using hd
  simp only [execVolingWriteReceive, hx, Nat.ne_of_gt h, Nat.lt_asymm h, hd', if_false, if_true]

/-- A write above it for which there is room is held. -/
theorem execVolingWriteReceive_hold (h : x.expected < m.seq) (hnew : ∀ y ∈ x.held, y.seq ≠ m.seq)
    (hroom : x.held.length < 64) : execVolingWriteReceive m s =
      .next (setVolingIn s (streamKey m.src m.stream) { x with held := x.held ++ [m] }) := by
  have hd : (x.held.any (·.seq == m.seq) || 64 ≤ x.held.length) = false := by simpa using ⟨hnew, hroom⟩
  simp only [execVolingWriteReceive, hx, Nat.ne_of_gt h, Nat.lt_asymm h, hd, if_false, Bool.false_eq_true]

/-- The expected write is performed, and nothing else, when no held one is then in sequence. -/
theorem execVolingWriteReceive_next (h : m.seq = x.expected) (hnone : ∀ y ∈ x.held, y.seq ≠ (x.expected + 1) % 2 ^ 48) :
    execVolingWriteReceive m s = .next (acceptRemote s (streamKey m.src m.stream) m) := by
  have hin := volingIn_acceptRemote s (streamKey m.src m.stream) m
  rw [hx] at hin
  simp only [execVolingWriteReceive, hx, h, if_true]
  rw [drainHeld_none (by rw [hin]; exact hnone)]

/-- The only held write follows the expected one when it is then in sequence. -/
theorem execVolingWriteReceive_chain {n : VolingWrite} (h : m.seq = x.expected) (hheld : x.held = [n])
    (hn : n.seq = (x.expected + 1) % 2 ^ 48) : execVolingWriteReceive m s =
      .next (acceptRemote (setVolingIn (acceptRemote s (streamKey m.src m.stream) m) (streamKey m.src m.stream)
        ⟨n.seq, []⟩) (streamKey m.src m.stream) n) := by
  have hin := volingIn_acceptRemote s (streamKey m.src m.stream) m
  rw [hx, hheld, ← hn] at hin
  simp only [execVolingWriteReceive, hx, h, if_true]
  rw [drainHeld_one hin 63]

end

/-! ## Every input completes -/

theorem runs_bar2Write (ofs : Nat) (data : List Byte) (s : State) : Runs (.bar2Write ofs data) s := by
  rw [Runs, exec_bar2Write, execBar2Write]
  dsimp only
  split <;> exact ⟨_, rfl⟩

theorem runs_bar2Read (ofs n : Nat) (s : State) : Runs (.bar2Read ofs n) s := by
  rw [Runs, exec_bar2Read, execBar2Read]
  dsimp only
  split <;> exact ⟨_, rfl⟩

theorem runs_volingWriteReceive (m : VolingWrite) (s : State) : Runs (.volingWriteReceive m) s := by
  rw [Runs, exec_volingWriteReceive, execVolingWriteReceive]
  split
  · exact ⟨_, rfl⟩
  · split
    · exact ⟨_, rfl⟩
    · split <;> exact ⟨_, rfl⟩

theorem runs_volingAckReceive (p t n : Nat) (o : Bool) (s : State) : Runs (.volingAckReceive p t n o) s := by
  rw [Runs, exec_volingAckReceive, execVolingAckReceive]
  dsimp only
  split <;> exact ⟨_, rfl⟩

theorem runs_coldReset (s : State) : Runs .coldReset s := by
  rw [Runs, exec_coldReset, execColdReset]
  dsimp only
  split
  · exact ⟨_, rfl⟩
  · split
    · exact ⟨_, rfl⟩
    · split
      · exact ⟨_, rfl⟩
      · split <;> exact ⟨_, rfl⟩

theorem runs_linkLaneReplace (l : LinkId) (s : State) : Runs (.linkLaneReplace l) s := by
  cases l <;> exact ⟨_, rfl⟩

theorem runs_moduleLoad (c : Nat) (b : Double) (s : State) : Runs (.moduleLoad c b) s := by
  rw [Runs, exec_moduleLoad, execModuleLoad]
  split <;> exact ⟨_, rfl⟩

/-- A translation is kept as the source of a move, sets up a table, binds a word, or finds nothing to do. -/
theorem runs_handlerTranslate (t : Translation) (s : State) : Runs (.handlerTranslate t) s := by
  rw [Runs, exec_handlerTranslate, execHandlerTranslate]
  split
  · exact ⟨_, rfl⟩
  · split
    · exact ⟨_, rfl⟩
    · split
      · exact ⟨_, rfl⟩
      · split
        · exact ⟨_, rfl⟩
        · split <;> exact ⟨_, rfl⟩

theorem runs_rcRegisterRead (o n : Nat) (s : State) : Runs (.rcRegisterRead o n) s := by
  rw [Runs, exec_rcRegisterRead, execRcRegisterRead]
  split
  · exact ⟨_, rfl⟩
  · dsimp only
    split <;> exact ⟨_, rfl⟩

/-- A soft error strikes what lies at its site, if anything does (R254). -/
theorem runs_softError (e : SoftError) (s : State) : Runs (.softError e) s := by
  rw [Runs, exec_softError, execSoftError]
  cases e.site with
  | pad b o => exact ⟨_, rfl⟩
  | sram q i => exact ⟨_, rfl⟩
  | plane b p i => exact ⟨_, rfl⟩
  | firing q => exact ⟨_, rfl⟩
  | _ => dsimp only; split <;> exact ⟨_, rfl⟩

/-- R10: an input of the outside world that is no BAR0 write completes in every state. -/
theorem outside_runs {i : Instr} (h : isOutside i = true) (s : State) : Runs i s := by
  cases i with
  | bar2Write o d => exact runs_bar2Write o d s
  | bar2Read o n => exact runs_bar2Read o n s
  | volingWriteReceive m => exact runs_volingWriteReceive m s
  | volingAckReceive p t n o => exact runs_volingAckReceive p t n o s
  | volingLinkFailure p t => exact ⟨_, exec_volingLinkFailure p t s⟩
  | coldReset => exact runs_coldReset s
  | warmReset => exact ⟨_, exec_warmReset s⟩
  | linkLaneReplace l => exact runs_linkLaneReplace l s
  | mgmtSnapTrigger => exact ⟨_, exec_mgmtSnapTrigger s⟩
  | moduleLoad c b => exact runs_moduleLoad c b s
  | handlerTranslate t => exact runs_handlerTranslate t s
  | rcRegisterRead o n => exact runs_rcRegisterRead o n s
  | fusedMinimumRaise c v => exact ⟨_, exec_fusedMinimumRaise c v s⟩
  | softError e => exact runs_softError e s
  | _ => cases h

/-- Settles O49: `outside_runs`, and the five cases of the receiver of a stream. -/
theorem outsideInputsComplete : Obligations.OutsideInputsComplete := by
  refine ⟨fun i s h => outside_runs h s, ?_⟩
  intro s m x at_
  refine ⟨?old, ?drop, ?hold, ?next, ?chain⟩
  case old => exact fun h => execVolingWriteReceive_old rfl h
  case drop => exact fun h hd => execVolingWriteReceive_drop rfl h hd
  case hold =>
    exact fun h hnew hroom => ⟨_, execVolingWriteReceive_hold rfl h hnew hroom, volingIn_setVolingIn .., rfl, rfl⟩
  case next =>
    intro h hnone
    refine ⟨_, execVolingWriteReceive_next rfl h hnone, volingIn_acceptRemote .., acks_acceptRemote .., ?_⟩
    intro hwin hpop hlen ha hws i v hv
    rw [mem_acceptRemote, mem_performRemote hwin hpop hlen ha hws, word_setWords _ ha hv]
  case chain =>
    intro n h hheld hn
    refine ⟨_, execVolingWriteReceive_chain rfl h hheld hn, ?_, ?_⟩
    · exact (volingIn_acceptRemote ..).trans (by rw [volingIn_setVolingIn])
    · rw [acks_acceptRemote]
      exact (congrArg (· ++ _) (acks_acceptRemote s _ m)).trans (List.append_assoc ..)

end Sys2Proof.Machine
end

section
/-! The passing of clocks (O53): what n nominal clocks leave of the module's clock and of each bay's. -/

namespace Sys2Proof.Machine

/-! ## A bay's clock (R392) -/

/-- Twelve nominal clocks are a whole number of a bay's own at any step, so no part of one is carried over. -/
theorem tickBay_twelve (m : Nat) (x : Bay) (h : x.frac < 12) :
    tickBay (12 * m) x = { x with clk := x.clk + m * (12 - x.fstep) } := by
  have hdiv : (12 * m * (12 - x.fstep) + x.frac) / 12 = m * (12 - x.fstep) := by
    rw [Nat.mul_assoc, Nat.mul_add_div (by decide), Nat.div_eq_of_lt h, Nat.add_zero]
  have hmod : (12 * m * (12 - x.fstep) + x.frac) % 12 = x.frac := by
    rw [Nat.mul_assoc, Nat.mul_add_mod, Nat.mod_eq_of_lt h]
  simp only [tickBay, hdiv, hmod]

/-- The carried part of a clock makes a bay count the same whether its clocks pass at once or in two parts. -/
theorem tickBay_tickBay (m n : Nat) (x : Bay) : tickBay n (tickBay m x) = tickBay (m + n) x := by
  have hsum : (m + n) * (12 - x.fstep) = m * (12 - x.fstep) + n * (12 - x.fstep) := Nat.add_mul ..
  simp only [tickBay, hsum, Bay.mk.injEq, true_and, and_true]
  omega

/-! ## The bays of a module whose clocks pass -/

theorem bays_tick_tick (m n : Nat) (s : State) : (tick n (tick m s)).bays = (tick (m + n) s).bays :=
  List.map_map.trans (List.map_congr_left fun p _ => congrArg (p.1, ·) (tickBay_tickBay m n p.2))

theorem tick_tick (m n : Nat) (s : State) : tick n (tick m s) = tick (m + n) s := by
  have hbays := bays_tick_tick m n s
  simp only [tick, Nat.add_assoc] at hbays ⊢
  rw [hbays]

theorem aget_bays_tick (n : Nat) (s : State) (b : Nat) :
    aget (tick n s).bays b = (aget s.bays b).map (tickBay n) :=
  aget_map s.bays (fun _ => tickBay n) b

theorem bay_tick_listed {s : State} {b : Nat} {x : Bay} (n : Nat) (h : aget s.bays b = some x) :
    (tick n s).bay b = tickBay n x := by
  rw [State.bay, agetD, aget_bays_tick, h, Option.map_some, Option.getD_some]

/-- A bay that is not listed stays so, and reads its clock off the module's. -/
theorem bay_tick_unlisted {s : State} {b : Nat} (n : Nat) (h : aget s.bays b = none) :
    (tick n s).bay b = { Bay.reset b with clk := s.now + n - s.coldAt } := by
  rw [State.bay, agetD, aget_bays_tick, h, Option.map_none, Option.getD_none]
  rfl

/-- Settles O53: the clocks of a listed bay, of an unlisted one, and `tick_tick`. -/
theorem clocksPass : Obligations.ClocksPass := by
  refine ⟨?listed, ?unlisted, fun s m n => tick_tick m n s⟩
  case listed =>
    intro s m b x hx hfrac
    rw [bay_tick_listed _ hx, tickBay_twelve m x hfrac]
    exact ⟨rfl, rfl⟩
  case unlisted =>
    intro s n b hb
    rw [bay_tick_unlisted n hb]

end Sys2Proof.Machine
end

section
/-! Decode of encode (O57): the family of laws `DecodesBack` covers every instruction (R78 to R82, R220). -/

namespace Sys2Proof.Laws.DecodesBack

/-- Each row of the opcode table by its own law: events first, then element operations, then nodes by format X, E, M, K,
I and A. -/
theorem statement_of_instr : ∀ i : Instr, Statement i
  | .blockDispatch w => blockDispatch w | .captureComplete w => captureComplete w | .blockCommit w => blockCommit w
  | .subwordMerge => subwordMerge | .homeCheckFailure => homeCheckFailure | .engineError w => engineError w
  | .preemptBlockTimeout w => preemptBlockTimeout w | .waitanyWake w => waitanyWake w
  | .waitaddrWake w => waitaddrWake w | .exportReturn p => exportReturn p
  | .teamRetire bay gid tid => teamRetire bay gid tid | .gridRetire gid => gridRetire gid
  | .kingpostRound => kingpostRound | .reservation level => reservation level
  | .deviceGridPassedOver gid => deviceGridPassedOver gid | .leaseTurnEnd bay window => leaseTurnEnd bay window
  | .leaseIntervalEnd bay => leaseIntervalEnd bay | .copyRequestStart bay => copyRequestStart bay
  | .copyChunkLand c => copyChunkLand c | .copyCompletion c => copyCompletion c
  | .matrixRowGroupComplete bay => matrixRowGroupComplete bay | .portLoadRequest p => portLoadRequest p
  | .portLoadReply p => portLoadReply p | .sinkDequeue p => sinkDequeue p | .sinkRecheck p => sinkRecheck p
  | .streamInWord p => streamInWord p | .streamOutWord p => streamOutWord p
  | .quiescenceScan bay region => quiescenceScan bay region
  | .trussImageLoad bay region => trussImageLoad bay region
  | .configPacketDeliver bay region => configPacketDeliver bay region | .pageWalk q => pageWalk q
  | .recordDeferredWrite ctx => recordDeferredWrite ctx | .resumeWrite r => resumeWrite r
  | .tlbInvWrite r => tlbInvWrite r | .tlbInvalidationDone ctx => tlbInvalidationDone ctx
  | .poisClrEntry r => poisClrEntry r | .poisClrAll r => poisClrAll r | .ctxSave r => ctxSave r
  | .ctxSaveDone ctx => ctxSaveDone ctx | .ctxRestore r => ctxRestore r | .brkallWrite r => brkallWrite r
  | .dbgStepWrite r => dbgStepWrite r | .safeStopRequest r => safeStopRequest r | .safeRelease r => safeRelease r
  | .safeLate ctx => safeLate ctx | .queueDoorbell r => queueDoorbell r | .queueSchedWrite r => queueSchedWrite r
  | .queueConfigWrite r => queueConfigWrite r | .registerWrite r => registerWrite r
  | .bar2Write ofs data => bar2Write ofs data | .bar2Read ofs n => bar2Read ofs n
  | .volingWriteReceive m => volingWriteReceive m
  | .volingAckReceive peer stream seq outside => volingAckReceive peer stream seq outside
  | .volingLinkFailure peer stream => volingLinkFailure peer stream | .coldReset => coldReset
  | .warmReset => warmReset | .attRequest r => attRequest r | .attReportDone => attReportDone
  | .powerInterval d => powerInterval d | .powerRegisterWrite r => powerRegisterWrite r
  | .bankCountInterval stack bank => bankCountInterval stack bank | .sillDropWrite r => sillDropWrite r
  | .driftLineMove stack => driftLineMove stack | .bayRetireWrite r => bayRetireWrite r
  | .autoBayRetire bay => autoBayRetire bay | .linkLaneReplace l => linkLaneReplace l
  | .fwUpdWrite r => fwUpdWrite r | .fwComponentSwitch => fwComponentSwitch | .mgmtSnapTrigger => mgmtSnapTrigger
  | .snapArmWrite r => snapArmWrite r | .moduleLoad ctx base => moduleLoad ctx base
  | .handlerTranslate t => handlerTranslate t | .tokenHop e k => tokenHop e k
  | .planeLoadComplete bay => planeLoadComplete bay | .rcRegisterRead ofs size => rcRegisterRead ofs size
  | .fusedMinimumRaise comp value => fusedMinimumRaise comp value | .softError e => softError e
  | .elemAdd x => elemAdd x | .elemSub x => elemSub x | .elemMul x => elemMul x | .elemFadd x => elemFadd x
  | .elemFmul x => elemFmul x | .elemFfma x => elemFfma x | .elemAnd x => elemAnd x | .elemOr x => elemOr x
  | .elemXor x => elemXor x | .elemShl x => elemShl x | .elemShr x => elemShr x | .elemCmpeq x => elemCmpeq x
  | .elemCmplt x => elemCmplt x | .elemCmpltn x => elemCmpltn x | .elemMin x => elemMin x | .elemMax x => elemMax x
  | .elemSel x => elemSel x | .elemMov x => elemMov x | .elemDeq x => elemDeq x | .elemTag x => elemTag x
  | .elemPset x => elemPset x | .elemPclr x => elemPclr x | .elemCnt x => elemCnt x | .elemLd x => elemLd x
  | .elemSt x => elemSt x | .elemTas x => elemTas x | .elemUpd x => elemUpd x | .elemGen x => elemGen x
  | .elemSteer x => elemSteer x | .elemMerge x => elemMerge x | .elemJoin x => elemJoin x | .elemErr x => elemErr x
  | .br f => br f | .bri f => bri f | .call f => call f | .calli f => calli f | .ret f => ret f | .halt f => halt f
  | .trap f => trap f | .brk f => brk f | .binit f => binit f | .bret f => bret f | .bbind f => bbind f
  | .barv f => barv f | .barx f => barx f | .bgen f => bgen f | .bpar f => bpar f | .bstat f => bstat f
  | .evbind f => evbind f | .evunb f => evunb f | .evmaskSet f => evmaskSet f | .evmaskClr f => evmaskClr f
  | .evmaskWr f => evmaskWr f | .evpost f => evpost f | .evclr f => evclr f | .waitany f => waitany f
  | .waitaddr f => waitaddr f | .send f => send f | .tryrecv f => tryrecv f | .mbstat f => mbstat f
  | .cpkick f => cpkick f | .cpstat f => cpstat f | .strbind f => strbind f | .tload f => tload f
  | .tstart f => tstart f | .tstop f => tstop f | .tstat f => tstat f | .ldstat f => ldstat f
  | .swapst f => swapst f | .mms f => mms f | .accz f => accz f | .accrd f => accrd f | .accsc f => accsc f
  | .accld f => accld f | .mestat f => mestat f | .launch f => launch f | .lstat f => lstat f
  | .leaseSet f => leaseSet f | .leaseMeas f => leaseMeas f | .snap f => snap f | .tret f => tret f
  | .injCode f => injCode f | .injData f => injData f | .ld f => ld f | .st f => st f | .pref f => pref f
  | .fence f => fence f | .cinv f => cinv f | .cwb f => cwb f | .atomAdd f => atomAdd f | .atomMin f => atomMin f
  | .atomMax f => atomMax f | .atomAnd f => atomAnd f | .atomOr f => atomOr f | .atomXor f => atomXor f
  | .atomExch f => atomExch f | .atomCas f => atomCas f | .atomInc f => atomInc f | .atomDec f => atomDec f
  | .atomFadd f => atomFadd f | .atomBfadd2 f => atomBfadd2 f | .redAdd f => redAdd f | .redMin f => redMin f
  | .redMax f => redMax f | .redAnd f => redAnd f | .redOr f => redOr f | .redXor f => redXor f
  | .redInc f => redInc f | .redDec f => redDec f | .redFadd f => redFadd f | .redBfadd2 f => redBfadd2 f
  | .movi f => movi f | .movhi f => movhi f | .addI f => addI f | .subI f => subI f | .addsatI f => addsatI f
  | .subsatI f => subsatI f | .mulI f => mulI f | .mulhiI f => mulhiI f | .madI f => madI f | .madhiI f => madhiI f
  | .divI f => divI f | .remI f => remI f | .minI f => minI f | .maxI f => maxI f | .sadI f => sadI f
  | .leaI f => leaI f | .andI f => andI f | .orI f => orI f | .xorI f => xorI f | .andnI f => andnI f
  | .ornI f => ornI f | .shlI f => shlI f | .shrI f => shrI f | .sarI f => sarI f | .rolI f => rolI f
  | .rorI f => rorI f | .fshlI f => fshlI f | .bfeI f => bfeI f | .bfiI f => bfiI f | .prmtI f => prmtI f
  | .tstI f => tstI f | .cmpEqI f => cmpEqI f | .cmpNeI f => cmpNeI f | .cmpLtI f => cmpLtI f
  | .cmpLeI f => cmpLeI f | .cmpGtI f => cmpGtI f | .cmpGeI f => cmpGeI f | .selI f => selI f
  | .shflIdxI f => shflIdxI f | .shflUpI f => shflUpI f | .shflDownI f => shflDownI f | .shflXorI f => shflXorI f
  | .add f => add f | .sub f => sub f | .addsat f => addsat f | .subsat f => subsat f | .mul f => mul f
  | .mulhi f => mulhi f | .mad f => mad f | .madhi f => madhi f | .div f => div f | .rem f => rem f
  | .min f => min f | .max f => max f | .sad f => sad f | .lea f => lea f | .neg f => neg f | .abs f => abs f
  | .and f => and f | .or f => or f | .xor f => xor f | .andn f => andn f | .orn f => orn f | .not f => not f
  | .shl f => shl f | .shr f => shr f | .sar f => sar f | .rol f => rol f | .ror f => ror f | .fshl f => fshl f
  | .popc f => popc f | .clz f => clz f | .ctz f => ctz f | .brev f => brev f | .bfe f => bfe f | .bfi f => bfi f
  | .prmt f => prmt f | .tst f => tst f | .cmpEq f => cmpEq f | .cmpNe f => cmpNe f | .cmpLt f => cmpLt f
  | .cmpLe f => cmpLe f | .cmpGt f => cmpGt f | .cmpGe f => cmpGe f | .sel f => sel f | .pand f => pand f
  | .por f => por f | .pxor f => pxor f | .pnot f => pnot f | .mov f => mov f | .mov4 f => mov4 f
  | .null f => null f | .srd f => srd f | .swr f => swr f | .fadd f => fadd f | .fsub f => fsub f
  | .fmul f => fmul f | .ffma f => ffma f | .fmin f => fmin f | .fmax f => fmax f | .fclass f => fclass f
  | .frcp f => frcp f | .frsq f => frsq f | .fsqrt f => fsqrt f | .fdiv f => fdiv f | .fexp2 f => fexp2 f
  | .flog2 f => flog2 f | .fsin f => fsin f | .fcos f => fcos f | .ftanh f => ftanh f | .fcmpEq f => fcmpEq f
  | .fcmpNe f => fcmpNe f | .fcmpLt f => fcmpLt f | .fcmpLe f => fcmpLe f | .fcmpGt f => fcmpGt f
  | .fcmpGe f => fcmpGe f | .dadd f => dadd f | .dmul f => dmul f | .dfma f => dfma f | .dmin f => dmin f
  | .dmax f => dmax f | .ddiv f => ddiv f | .dsqrt f => dsqrt f | .dcmpEq f => dcmpEq f | .dcmpNe f => dcmpNe f
  | .dcmpLt f => dcmpLt f | .dcmpLe f => dcmpLe f | .dcmpGt f => dcmpGt f | .dcmpGe f => dcmpGe f
  | .hadd2 f => hadd2 f | .hmul2 f => hmul2 f | .hfma2 f => hfma2 f | .hmin2 f => hmin2 f | .hmax2 f => hmax2 f
  | .hcmp2Eq f => hcmp2Eq f | .hcmp2Ne f => hcmp2Ne f | .hcmp2Lt f => hcmp2Lt f | .hcmp2Le f => hcmp2Le f
  | .hcmp2Gt f => hcmp2Gt f | .hcmp2Ge f => hcmp2Ge f | .cvt f => cvt f | .cvtpk f => cvtpk f | .cvtsc f => cvtsc f
  | .shflIdx f => shflIdx f | .shflUp f => shflUp f | .shflDown f => shflDown f | .shflXor f => shflXor f
  | .ballot f => ballot f | .voteAny f => voteAny f | .voteAll f => voteAll f | .voteUni f => voteUni f
  | .redux f => redux f | .scan f => scan f | .matchLanes f => matchLanes f | .esc k f => esc k f

end Sys2Proof.Laws.DecodesBack

namespace Sys2Proof.Laws

/-- Settles O57, row by row of the opcode table. -/
theorem decodeOfEncodeIsIdentity : Obligations.DecodeOfEncodeIsIdentity := DecodesBack.statement_of_instr

end Sys2Proof.Laws
end

section
/-! Encode of decode (O58): a word that decodes is rebuilt from the fields read off it. And the words of the spec that the
decoder is run on (O54). -/

namespace Sys2Proof

/-! ## A word is the word of the fields read off it (Tables 3.10 and 7.2) -/

theorem pack_unpackA (w : Double) : packNode (w.extractLsb' 55 9) (.a (unpackA w)) = w := by
  simp only [packNode, unpackA]
  repeat rw [BitVec.extractLsb'_append_extractLsb'_eq_extractLsb' (by decide)]
  simp

theorem pack_unpackI (w : Double) : packNode (w.extractLsb' 55 9) (.i (unpackI w)) = w := by
  simp only [packNode, unpackI]
  repeat rw [BitVec.extractLsb'_append_extractLsb'_eq_extractLsb' (by decide)]
  simp

theorem pack_unpackM (w : Double) : packNode (w.extractLsb' 55 9) (.m (unpackM w)) = w := by
  simp only [packNode, unpackM]
  repeat rw [BitVec.extractLsb'_append_extractLsb'_eq_extractLsb' (by decide)]
  simp

theorem pack_unpackE (w : Double) : packNode (w.extractLsb' 55 9) (.e (unpackE w)) = w := by
  simp only [packNode, unpackE]
  repeat rw [BitVec.extractLsb'_append_extractLsb'_eq_extractLsb' (by decide)]
  simp

theorem pack_unpackX (w : Double) : packNode (w.extractLsb' 55 9) (.x (w.extractLsb' 48 3) (unpackX w)) = w := by
  simp only [packNode, unpackX]
  repeat rw [BitVec.extractLsb'_append_extractLsb'_eq_extractLsb' (by decide)]
  simp

/-- Format K leaves three bits unread, which must be zero (R82). -/
theorem pack_unpackK {w : Double} (h : w.extractLsb' 32 3 = 0) :
    packNode (w.extractLsb' 55 9) (.k (unpackK w)) = w := by
  simp only [packNode, unpackK, ← h]
  repeat rw [BitVec.extractLsb'_append_extractLsb'_eq_extractLsb' (by decide)]
  simp

/-- The lowest twelve bits of an element's word are unread and must be zero (R220). -/
theorem pack_unpackElem {w : BitVec 96} (h : w.extractLsb' 0 12 = 0) :
    packElem (w.extractLsb' 63 5) (unpackElem w) = w := by
  simp only [packElem, unpackElem, ← h]
  repeat rw [BitVec.extractLsb'_append_extractLsb'_eq_extractLsb' (by decide)]
  simp

/-! ## Each table builds nodes of its own opcodes and format (Tables 3.12 to 3.14, 7.3) -/

/-- What a table says of all its rows holds of the row that a field of a word looks up. -/
theorem of_lookup {α β : Type} {m : Nat} {l : List (Nat × α)} {g : α → β} {r : BitVec m → β}
    (hl : l.map (fun p => g p.2) = l.map fun p => r (BitVec.ofNat m p.1)) {o : BitVec m} {k : α}
    (h : l.lookup o.toNat = some k) : g k = r o := by
  obtain ⟨l₁, l₂, rfl, -⟩ := List.lookup_eq_some_iff.1 h
  simpa using List.map_inj_left.1 hl (o.toNat, k) (by simp)

section
variable {o : BitVec 9}

theorem node_of_opsA {k : FmtA → Instr} (h : opsA.lookup o.toNat = some k) (f : FmtA) :
    (k f).node = some (o, .a f) :=
  of_lookup (g := fun k => (k f).node) (r := fun o => some (o, .a f)) rfl h

theorem node_of_opsI {k : FmtI → Instr} (h : opsI.lookup o.toNat = some k) (f : FmtI) :
    (k f).node = some (o, .i f) :=
  of_lookup (g := fun k => (k f).node) (r := fun o => some (o, .i f)) rfl h

theorem node_of_opsM {k : FmtM → Instr} (h : opsM.lookup o.toNat = some k) (f : FmtM) :
    (k f).node = some (o, .m f) :=
  of_lookup (g := fun k => (k f).node) (r := fun o => some (o, .m f)) rfl h

theorem node_of_opsE {k : FmtE → Instr} (h : opsE.lookup o.toNat = some k) (f : FmtE) :
    (k f).node = some (o, .e f) :=
  of_lookup (g := fun k => (k f).node) (r := fun o => some (o, .e f)) rfl h

theorem node_of_opsK {k : FmtK → Instr} (h : opsK.lookup o.toNat = some k) (f : FmtK) :
    (k f).node = some (o, .k f) :=
  of_lookup (g := fun k => (k f).node) (r := fun o => some (o, .k f)) rfl h

/-- The rows that MOD tells apart share their opcode. -/
theorem node_of_byMod {f : FmtE} {i : Instr} (h : byMod o.toNat f = some i) : i.node = some (o, .e f) := by
  simp only [byMod] at h
  split at h
  next ho =>
    obtain rfl : o = 0x172 := BitVec.eq_of_toNat_eq ho
    cases h
    split
    · rfl
    · split <;> rfl
  split at h
  next ho =>
    obtain rfl : o = 0x1CA := BitVec.eq_of_toNat_eq ho
    cases h
    split <;> rfl
  split at h
  next ho =>
    obtain rfl : o = 0x1E2 := BitVec.eq_of_toNat_eq ho
    cases h
    split <;> rfl
  exact nomatch h

/-- The opcodes from 0x1F0 up are `ESC`'s, told apart by their low four bits (R321). -/
theorem node_of_esc (h : 0x1F0 ≤ o.toNat) (f : FmtA) : (Instr.esc (o.extractLsb' 0 4) f).node = some (o, .a f) := by
  have hopc : 0x1F0 + (o.extractLsb' 0 4).setWidth 9 = o := by
    apply BitVec.eq_of_toNat_eq
    simp [BitVec.extractLsb'_toNat]
    omega
  exact congrArg (fun opc => some (opc, NodeFmt.a f)) hopc

end

theorem node_of_opsX {kind : BitVec 3} {k : FmtX → Instr} (h : opsX.lookup kind.toNat = some k) (f : FmtX) :
    (k f).node = some (0x1C0, .x kind f) :=
  of_lookup (g := fun k => (k f).node) (r := fun kind => some (0x1C0, .x kind f)) rfl h

theorem elem_of_opsElem {op : BitVec 5} {k : ElemWord → Instr} (h : opsElem.lookup op.toNat = some k) (x : ElemWord) :
    (k x).elem = some (op, x) :=
  of_lookup (g := fun k => (k x).elem) (r := fun op => some (op, x)) rfl h

/-! ## The node that a word builds -/

/-- A word builds a node of the opcode that it holds, with fields of which the word is the packing. -/
theorem node_of_build {w : Double} {i : Instr} (h : buildNode w = some i) :
    ∃ f, i.node = some (w.extractLsb' 55 9, f) ∧
      (wordZeroOk w f = true → packNode (w.extractLsb' 55 9) f = w) := by
  simp only [buildNode] at h
  split at h
  next k hk => cases h; exact ⟨_, node_of_opsA hk _, fun _ => pack_unpackA w⟩
  split at h
  next k hk => cases h; exact ⟨_, node_of_opsI hk _, fun _ => pack_unpackI w⟩
  split at h
  next k hk => cases h; exact ⟨_, node_of_opsM hk _, fun _ => pack_unpackM w⟩
  split at h
  next k hk => cases h; exact ⟨_, node_of_opsE hk _, fun _ => pack_unpackE w⟩
  split at h
  next k hk => cases h; exact ⟨_, node_of_opsK hk _, fun hz => pack_unpackK (beq_iff_eq.1 hz)⟩
  split at h
  next ho =>
    obtain ⟨k, hk, rfl⟩ := Option.map_eq_some_iff.1 h
    have ho : w.extractLsb' 55 9 = 0x1C0 := BitVec.eq_of_toNat_eq ho
    exact ⟨_, ho ▸ node_of_opsX hk _, fun _ => pack_unpackX w⟩
  split at h
  next ho =>
    cases h
    have hlow : w.extractLsb' 55 4 = (w.extractLsb' 55 9).extractLsb' 0 4 := by ext; simp; omega
    exact ⟨_, hlow ▸ node_of_esc ho _, fun _ => pack_unpackA w⟩
  next => exact ⟨_, node_of_byMod h, fun _ => pack_unpackE w⟩

/-! ## The word that a decoded instruction encodes to -/

theorem encodeNode_of_node {i : Instr} {opc : BitVec 9} {f : NodeFmt} (h : i.node = some (opc, f)) :
    encodeNode i = some (packNode opc f) := by rw [encodeNode, h]; rfl

theorem encodeElem_of_elem {i : Instr} {op : BitVec 5} {x : ElemWord} (h : i.elem = some (op, x)) :
    encodeElem i = some (packElem op x) := by rw [encodeElem, h]; rfl

/-- A word decodes to the node that it builds, and its bits pass R82. -/
theorem build_of_decodeNode {w : Double} {i : Instr} (h : decodeNode w = .ok i) :
    buildNode w = some i ∧ nodeZeroOk w i = true := by
  simp only [decodeNode] at h
  split at h
  next => exact nomatch h
  next j hb =>
    split at h
    next => exact nomatch h
    next hz =>
      split at h
      next => exact nomatch h
      next =>
        cases h
        exact ⟨hb, by simpa using hz⟩

theorem encode_of_decodeNode {w : Double} {i : Instr} (h : decodeNode w = .ok i) : encodeNode i = some w := by
  obtain ⟨hb, hz⟩ := build_of_decodeNode h
  obtain ⟨f, hn, hpack⟩ := node_of_build hb
  simp only [nodeZeroOk, hn, Bool.and_eq_true] at hz
  rw [encodeNode_of_node hn, hpack hz.2]

/-- A word decodes to an element operation of its own OP and fields, and its unread bits are zero (R220). -/
theorem elem_of_decodeElem {w : BitVec 96} {i : Instr} (h : decodeElem w = .ok i) :
    i.elem = some (w.extractLsb' 63 5, unpackElem w) ∧ w.extractLsb' 0 12 = 0 := by
  simp only [decodeElem] at h
  split at h
  next => exact nomatch h
  next j hb =>
    obtain ⟨k, hk, rfl⟩ := Option.map_eq_some_iff.1 hb
    have he := elem_of_opsElem hk (unpackElem w)
    simp only [he] at h
    split at h
    next hz =>
      cases h
      exact ⟨he, beq_iff_eq.1 (Bool.and_eq_true_iff.1 hz).1⟩
    next => exact nomatch h

theorem encode_of_decodeElem {w : BitVec 96} {i : Instr} (h : decodeElem w = .ok i) : encodeElem i = some w := by
  obtain ⟨he, hz⟩ := elem_of_decodeElem h
  rw [encodeElem_of_elem he, pack_unpackElem hz]

/-- Settles O58: node words by `encode_of_decodeNode`, element words by `encode_of_decodeElem`. -/
theorem encodeOfDecodeIsIdentity : Obligations.EncodeOfDecodeIsIdentity :=
  ⟨fun _ _ => encode_of_decodeNode, fun _ _ => encode_of_decodeElem⟩

/-- Settles O54, by running the decoder on each of the words. -/
theorem specWordsDecode : Obligations.SpecWordsDecode := ⟨rfl, rfl, rfl, rfl, rfl, rfl⟩

end Sys2Proof
end

section
/-! The constant operand of a format I node (O2): its width, its value and its codes (R75, R98, R121). -/

namespace Sys2Proof.Machine

open Sys2Proof.Claims

/-! ## Tokens of fresh words -/

theorem good_fresh (x : Word) : good (fresh x) = true := by simp [good, fresh]

@[simp] theorem length_tokOf (n x : Nat) : (tokOf n x).length = n := by simp [tokOf]

theorem good_of_mem_tokOf {n x : Nat} {v : W40} (h : v ∈ tokOf n x) : good v = true := by
  obtain ⟨i, -, rfl⟩ := List.mem_map.1 h
  exact good_fresh _

/-- The lowest word of a value, then the words of what lies above it. -/
theorem tokOf_succ (n x : Nat) : tokOf (n + 1) x = fresh (BitVec.ofNat 32 x) :: tokOf n (x >>> 32) := by
  simp [tokOf, List.range_succ_eq_map, ← Nat.shiftRight_add, Nat.mul_add, Nat.add_comm]

theorem tokVal_cons (w : W40) (r : Tok) : tokVal (w :: r) = w.v.toNat + (tokVal r) <<< 32 := rfl

/-- A token of n words holds its value modulo 2^(32 n). -/
theorem tokVal_tokOf (n x : Nat) : tokVal (tokOf n x) = x % 2 ^ (32 * n) := by
  induction n generalizing x with
  | zero => exact (Nat.mod_one x).symm
  | succ n ih =>
    calc tokVal (tokOf (n + 1) x)
      _ = x % 2 ^ 32 + (x / 2 ^ 32 % 2 ^ (32 * n)) * 2 ^ 32 := by
        rw [tokOf_succ, tokVal_cons, ih, Nat.shiftRight_eq_div_pow, Nat.shiftLeft_eq]; rfl
      _ = x % (2 ^ 32 * 2 ^ (32 * n)) := by rw [Nat.mod_mul, Nat.mul_comm (2 ^ 32) (_ % _)]
      _ = x % 2 ^ (32 * (n + 1)) := by rw [← Nat.pow_add, Nat.mul_succ, Nat.add_comm]

/-! ## The width of operand b -/

/-- Slot b of an integer node is of the type's width or one word wide (Table 4.1). -/
theorem intShape_b {opc w n : Nat} : (intShape opc w false).b = some n → n = w ∨ n = 32 := by
  unfold intShape
  repeat' apply iteInduction (motive := fun sh : NodeShape => sh.b = some n → n = w ∨ n = 32) <;> intro _
  all_goals rintro ⟨⟩ <;> simp

/-- A type code's width is a whole number of words, four at most (Table 3.11). -/
theorem typeWidth_words (t : Nat) : ∃ m ≤ 4, typeWidth t = 32 * m := by
  unfold typeWidth
  split
  · exact ⟨1, by decide, rfl⟩
  · split
    · exact ⟨2, by decide, rfl⟩
    · split
      · exact ⟨4, by decide, rfl⟩
      · exact ⟨0, by decide, rfl⟩

theorem immBits_words {opc n : Nat} {f : FmtI} (h : immBits opc f = some n) : ∃ m ≤ 4, n = 32 * m := by
  unfold immBits at h
  split at h
  · exact ⟨1, by decide, (Option.some.inj h).symm⟩
  · split at h
    · obtain rfl | rfl := intShape_b h
      · exact typeWidth_words _
      · exact ⟨1, by decide, rfl⟩
    · exact nomatch h

/-- Of assigned field values, the width that the model takes is the description's. -/
theorem immWidth_eq {opc n : Nat} {f : FmtI} (hf : fieldOkI opc f = true) (h : immBits opc f = some n) :
    immWidth opc f = n := by
  unfold immBits at h
  split at h
  · rename_i hshfl
    rw [immWidth, if_pos hshfl.1]
    exact Option.some.inj h
  · split at h
    · rename_i hint
      rw [immWidth, if_neg (by omega)]
      simp [hf, h]
    · exact nomatch h

/-! ## Operand b -/

/-- The low bits of a sign extension are the sign extension to fewer bits. -/
theorem toNat_signExtend_mod {w m n : Nat} (x : BitVec w) (h : m ≤ n) :
    (x.signExtend n).toNat % 2 ^ m = (x.signExtend m).toNat := by
  rw [← BitVec.toNat_setWidth]
  congr 1
  ext i hi
  simp [BitVec.getElem_signExtend, Nat.lt_of_lt_of_le hi h]

/-- A slot that no producer feeds holds no token. -/
theorem slotTok_none {slots : Assoc Slot} {key : Nat} (h : aget slots key = none) (lane : Nat) :
    slotTok slots key lane = none := by
  rw [slotTok, h, Option.bind_none]

/-- A performing lane of a format I node whose slot b has no producer gets the constant as operand b. -/
theorem performing_immOperand {b : Blk} {k : Nat} {opc : BitVec 9} {f : FmtI} (hn : nodeAt b.words k = (opc, .i f))
    (hb : aget b.slots (slotKey 1 k) = none) {p : Nat × LaneOps} (hp : p ∈ performing b k) :
    p.2.b = immOperand opc.toNat f := by
  obtain ⟨l, -, hl⟩ := List.mem_filterMap.1 hp
  obtain ⟨o, ho, rfl⟩ := Option.map_eq_some_iff.1 hl
  simp only [laneOps, hn, slotTok_none hb, Option.getD_none] at ho
  split at ho
  · exact nomatch ho
  · split at ho
    · exact nomatch ho
    · rw [← Option.some.inj ho]

/-- Settles O2, from the width that `immWidth_eq` gives and the value that `tokVal_tokOf` reads back. -/
theorem immediateOperandIsSignExtended : Obligations.ImmediateOperandIsSignExtended := by
  intro b k opc f n hn hf himm hb p hp
  obtain ⟨m, hm, rfl⟩ := immBits_words himm
  have hdiv : 32 * m / 32 = m := Nat.mul_div_cancel_left m (by decide)
  rw [performing_immOperand hn hb hp, immOperand, immWidth_eq hf himm, hdiv]
  refine ⟨?value, length_tokOf .., fun v hv => good_of_mem_tokOf hv⟩
  case value => rw [tokVal_tokOf, toNat_signExtend_mod _ (by omega)]

end Sys2Proof.Machine
end

section
/-! Ports and sinks (O35): what a request leaves in its port, what the oldest request's reply is, and what becomes of
the token at `i3` for each answer of the sink's look at its count word. -/

namespace Sys2Proof.Machine

open Sys2Proof.Claims

/-! ## Requests and replies (R212, R290) -/

section
variable {s : State} {p : PortId} {g : Region} {t : TTok}

/-- A request takes the next of the 16 places. -/
theorem execPortLoadRequest_next (h : PortHas s p g 2 t) (hlen : ((s.bay p.bay).port p.row).reqs.length < 16) :
    execPortLoadRequest p s = .next ((portPop s p 2).modPort p fun q => { q with reqs := q.reqs ++
      [if t.tag ≠ 0 then ⟨0, some t⟩ else if good t.w then ⟨t.w.v, none⟩
       else ⟨0, some (errTok 0x02 (g.elemNum p.row 0) 0)⟩] }) := by
  obtain ⟨hg, ht⟩ := h
  simp only [execPortLoadRequest, hg, ht, Nat.not_le.2 hlen, if_false, bne_iff_ne]

/-- A port that runs, whose `o2` holds credit and which no fault stalls, sends a token that passes in a request's
place. -/
theorem execPortLoadReply_pass {rest : List PortReq} (hg : portRegion s p = some g)
    (hr : ((s.bay p.bay).port p.row).reqs = ⟨0, some t⟩ :: rest) (hc : portCredit s p 2 = true)
    (hs : ((s.bay p.bay).port p.row).stalled = none) : execPortLoadReply p s = .next (portReply s p g t) := by
  simp [execPortLoadReply, hg, hr, hc, hs]

section
variable {ofs : Word} {rest : List PortReq} (hg : portRegion s p = some g)
  (hr : ((s.bay p.bay).port p.row).reqs = ⟨ofs, none⟩ :: rest) (hc : portCredit s p 2 = true)
  (hs : ((s.bay p.bay).port p.row).stalled = none)
include hg hr hc hs

/-- An offset that is not 4-aligned or whose word ends past LIMIT is answered by an error token. -/
theorem execPortLoadReply_outside
    (ho : ofs.toNat % 4 ≠ 0 ∨ (wordAt (portCfg ((s.bay p.bay).port p.row)) 2).toNat < ofs.toNat + 4) :
    execPortLoadReply p s = .next (portReply s p g (errTok 0x01 (g.elemNum p.row 0) ofs.toNat)) := by
  simp [execPortLoadReply, hg, hr, hc, hs, ho]

/-- A word inside LIMIT whose line no engine holds as a destination is read at its home. -/
theorem execPortLoadReply_inside {l : Loc} (ha : ofs.toNat % 4 = 0)
    (hlim : ofs.toNat + 4 ≤ (wordAt (portCfg ((s.bay p.bay).port p.row)) 2).toNat)
    (hl : portLoc s p g (bitsOf (wordAt (portCfg ((s.bay p.bay).port p.row)) 3) 2 0)
      (doubleAt (portCfg ((s.bay p.bay).port p.row)) 0 + ofs.setWidth 64) = .ok l)
    (hh : ∀ h ∈ s.holdsOn l, h.2.write = false) :
    execPortLoadReply p s = .next (portReply s p g ⟨engineRead s p.bay l, 0⟩) := by
  have hfree : (s.holdsOn l).any (·.2.write) = false := by simpa using hh
  simp [execPortLoadReply, hg, hr, hc, hs, ha, Nat.not_lt.2 hlim, hl, hfree]

end

/-! ## The sink (R213) -/

/-- What a sink that is not stopped does with a token, by what it finds at its count word. -/
theorem sinkHead_of_look (hstop : ((s.bay p.bay).port p.row).sinkStop = false) :
    sinkHead s p g t = match sinkLook s p with
      | .drop => portPop s p 3
      | .held => s
      | .room base n => portPop (sinkWrite s p.bay g base n t) p 3
      | .full => s.modPort p fun q => { q with sinkWait := true, sinkKick := false }
      | .bad ofs w => sinkFault s p g ofs w := by
  simp only [sinkHead, sinkTake, hstop, Bool.false_eq_true, if_false]
  cases sinkLook s p <;> rfl

/-- A sink that is neither waiting nor stopped takes up the token at `i3`, unless an engine holds its lines. -/
theorem execSinkDequeue_next (h : PortHas s p g 3 t) (hwait : ((s.bay p.bay).port p.row).sinkWait = false)
    (hstop : ((s.bay p.bay).port p.row).sinkStop = false) (hlook : sinkLook s p ≠ .held) :
    execSinkDequeue p s = .next (sinkHead s p g t) := by
  obtain ⟨hg, ht⟩ := h
  simp [execSinkDequeue, hg, ht, hwait, hstop, hlook]

end

/-- A port rewritten keeps the tokens at its inputs. -/
theorem portHead_modPort (s : State) (p : PortId) (f : Port → Port) (i : Nat) :
    portHead (s.modPort p f) p i = portHead s p i := by
  simp only [portHead, State.modPort, bay_modBay, if_true]
  rfl

/-- Settles O35: the requests and replies by their own lemmas, the sink's cases by `sinkHead_of_look`. -/
theorem portsAndSinks : Obligations.PortsAndSinks := by
  refine ⟨⟨?request, ?pass, ?load⟩, ?dequeue, ?recheck⟩
  case request => exact fun s p g t h hlen => execPortLoadRequest_next h hlen
  case pass => exact fun s p g t rest hg hr hc hs => execPortLoadReply_pass hg hr hc hs
  case load =>
    exact fun s p g ofs rest hg hr hc hs => ⟨execPortLoadReply_outside hg hr hc hs,
      fun l ha hlim hl hh => execPortLoadReply_inside hg hr hc hs ha hlim hl hh⟩
  case dequeue =>
    intro s p g t h hwait hstop
    have hnext (hlook : sinkLook s p ≠ .held) := execSinkDequeue_next h hwait hstop hlook
    refine ⟨fun base n hl => ?_, fun hl => ?_, fun hl => ?_⟩ <;>
      rw [exec_sinkDequeue, hnext (by simp [hl]), sinkHead_of_look hstop, hl]
  case recheck =>
    intro s p g hg hwait hkick hlook
    refine ⟨_, by simp [exec_sinkRecheck, execSinkRecheck, hg, hwait, hkick, hlook]; rfl, fun hnone => ?_⟩
    simp only [portHead_modPort, hnone]

end Sys2Proof.Machine
end

section
/-! Words written into a scratchpad (R229, R246): what a token written at its home leaves, and what stays as it was. -/

namespace Sys2Proof.Machine

/-! ## Bytes of words written to a memory -/

/-- A write of consecutive words leaves every byte outside them alone. -/
theorem byte_setWords_other (m : Memory) {a c : Nat} (ws : List W40) (h : c < a ∨ a + 4 * ws.length ≤ c) :
    (m.setWords a ws).byte c = m.byte c := by
  induction ws generalizing m a with
  | nil => rfl
  | cons w r ih =>
    rw [List.length_cons] at h
    rw [Memory.setWords, ih _ (by omega), byte_setWord_other _ _ _ _ (by omega)]

/-- The bytes of a word are those of any number that it holds modulo 2^32. -/
theorem byte_setWord_ofNat (m : Memory) (a x : Nat) {i : Nat} (hi : i < 4) :
    (m.setWord a (fresh (BitVec.ofNat 32 x))).byte (a + i) = BitVec.ofNat 8 (x / 2 ^ (8 * i)) := by
  have hbyte : (BitVec.ofNat 32 x).extractLsb' (8 * i) 8 = BitVec.ofNat 8 (x / 2 ^ (8 * i)) := by
    ext j hj
    have hlt : j + 8 * i < 32 := by omega
    rw [BitVec.getElem_extractLsb', ← BitVec.getLsbD_eq_getElem, BitVec.getLsbD_ofNat, BitVec.getLsbD_ofNat,
      Nat.testBit_div_two_pow, Nat.add_comm, decide_eq_true hlt, decide_eq_true hj]
  rw [← hbyte, byte_setWord]
  obtain rfl | rfl | rfl | rfl : i = 0 ∨ i = 1 ∨ i = 2 ∨ i = 3 := by omega
  all_goals simp [fresh]

/-- The bytes of a token written to a memory are those of its number, least significant first. -/
theorem byte_setWords_tokOf (m : Memory) (a n x : Nat) {i : Nat} (hi : i < 4 * n) :
    (m.setWords a (tokOf n x)).byte (a + i) = BitVec.ofNat 8 (x / 2 ^ (8 * i)) := by
  induction n generalizing m a x i with
  | zero => omega
  | succ n ih =>
    rw [tokOf_succ, Memory.setWords]
    by_cases h : i < 4
    · rw [byte_setWords_other _ _ (by omega), byte_setWord_ofNat _ _ _ h]
    · obtain ⟨j, rfl⟩ : ∃ j, i = j + 4 := ⟨i - 4, by omega⟩
      rw [show a + (j + 4) = a + 4 + j by omega, ih _ _ _ (by omega), Nat.shiftRight_eq_div_pow, Nat.div_div_eq_div_mul,
        ← Nat.pow_add, show 32 + 8 * j = 8 * (j + 4) by omega]

/-- Every word of a token written to a memory has a fresh code. -/
theorem good_word_setWords_tokOf (m : Memory) {a n k : Nat} (x : Nat) (ha : a % 4 = 0) (hk : k < n) :
    good ((m.setWords a (tokOf n x)).word (a + 4 * k)) = true := by
  have hlen : k < (tokOf n x).length := by rwa [length_tokOf]
  rw [word_setWords m ha (List.getElem?_eq_getElem hlen)]
  exact good_of_mem_tokOf (List.getElem_mem hlen)

/-! ## What a write at a home leaves of a bay -/

/-- Warps rewritten leave every other field of a bay as it was. -/
theorem bay_mapWarps_keeps {α : Type} (g : Bay → α) (hg : ∀ (x : Bay) ws, g { x with warps := ws } = g x) (s : State)
    (f : WarpId → Warp → Warp) (b : Nat) : g ((s.mapWarps f).bay b) = g (s.bay b) := by
  have hget : aget (s.mapWarps f).bays b = (aget s.bays b).map fun x : Bay =>
      { x with warps := x.warps.map fun (k, y) => (k, f (warpIdOf b k) y) } :=
    aget_map (β := Bay) s.bays (fun i x => { x with warps := x.warps.map fun (k, y) => (k, f (warpIdOf i k) y) }) b
  rw [State.bay, agetD, hget, State.bay, agetD]
  cases aget s.bays b with
  | none => rfl
  | some x => exact hg ..

theorem bay_evalDeps (s : State) (b : Nat) : (evalDeps s).bay b = s.bay b := rfl

/-- What a write at a home sets off touches warps and ports of bays only (R149, R213, R264). -/
theorem bay_afterWrite_keeps {α : Type} (g : Bay → α) (hw : ∀ (x : Bay) ws, g { x with warps := ws } = g x)
    (hp : ∀ (x : Bay) ps, g { x with ports := ps } = g x) (s : State) (l : Loc) (b : Nat) :
    g ((s.afterWrite l).bay b) = g (s.bay b) := by
  have hmap := bay_mapWarps_keeps g hw s
  unfold State.afterWrite
  cases l with
  | phys pa =>
    dsimp only
    split
    · rw [bay_evalDeps, hmap]
    · exact hmap ..
  | pad c o =>
    dsimp only
    split
    · rw [bay_modBay]
      split
      · subst_vars; exact (hp ..).trans (hmap ..)
      · exact hmap ..
    · exact hmap ..
  | remote p pa => exact hmap ..

/-- Words put one after the other into a scratchpad change that scratchpad only. -/
theorem bay_putHomeWords (s : State) (b o n : Nat) (ws : List W40) (c : Nat) :
    ((((ws.zipIdx n).map fun p => ((Loc.pad b o).add (4 * p.2), p.1)).foldl
      (fun t p => t.putHomeWord p.1 p.2) s).bay c) =
      if c = b then { s.bay b with pad := (s.bay b).pad.setWords (o + 4 * n) ws } else s.bay c := by
  induction ws generalizing s n with
  | nil =>
    split
    · subst_vars; rfl
    · rfl
  | cons w r ih =>
    rw [List.zipIdx_cons, List.map_cons, List.foldl_cons, ih]
    simp only [State.putHomeWord, Loc.add, bay_modBay, if_true, Memory.setWords]
    split
    · rw [show o + 4 * (n + 1) = o + 4 * n + 4 by omega]
    · rfl

section
variable (s : State) (b o : Nat) (ws : List W40)

/-- A reading of bays that looks at neither warps nor ports, after words are written into a scratchpad. -/
theorem bay_setHomeWords_pad {α : Type} (g : Bay → α) (hw : ∀ (x : Bay) ws, g { x with warps := ws } = g x)
    (hp : ∀ (x : Bay) ps, g { x with ports := ps } = g x) (c : Nat) :
    g ((s.setHomeWords (.pad b o) ws).bay c) =
      g (if c = b then { s.bay b with pad := (s.bay b).pad.setWords o ws } else s.bay c) := by
  rw [State.setHomeWords, State.writeWhole,
    foldl_keeps (fun t : State => g (t.bay c)) fun t (p : Loc × W40) => bay_afterWrite_keeps g hw hp t p.1 c,
    bay_putHomeWords]
  rfl

/-- A scratchpad after words are written into one. -/
theorem pad_setHomeWords_pad (c : Nat) : ((s.setHomeWords (.pad b o) ws).bay c).pad =
    if c = b then (s.bay b).pad.setWords o ws else (s.bay c).pad := by
  rw [bay_setHomeWords_pad s b o ws Bay.pad (fun _ _ => rfl) fun _ _ => rfl, apply_ite Bay.pad]

/-- A matrix engine after words are written into a scratchpad. -/
theorem mx_setHomeWords_pad (c : Nat) : ((s.setHomeWords (.pad b o) ws).bay c).mx = (s.bay c).mx := by
  rw [bay_setHomeWords_pad s b o ws Bay.mx (fun _ _ => rfl) fun _ _ => rfl]
  split
  · subst_vars; rfl
  · rfl

/-- Device memory after words are written into a scratchpad. -/
theorem mem_setHomeWords_pad : (s.setHomeWords (.pad b o) ws).mem = s.mem := by
  rw [State.setHomeWords, State.writeWhole, foldl_keeps State.mem fun t (p : Loc × W40) => t.afterWrite_mem p.1]
  suffices h : ∀ n (t : State), (((ws.zipIdx n).map fun p => ((Loc.pad b o).add (4 * p.2), p.1)).foldl
      (fun t p => t.putHomeWord p.1 p.2) t).mem = t.mem from h 0 s
  intro n t
  induction ws generalizing n t with
  | nil => rfl
  | cons w r ih => rw [List.zipIdx_cons, List.map_cons, List.foldl_cons, ih]; rfl

end

end Sys2Proof.Machine
end

section
/-! Numbers of the matrix engine (R91, R93, R164 to R175): packed elements, the range of a rounded code, exact sums of
integers, and the tree of R175. -/

namespace Sys2Proof.Machine

open Sys2Proof.Claims

/-! ## Elements packed into one number -/

/-- The number that n elements of w bits make, put side by side from the lowest bit up. -/
def packed (w n : Nat) (f : Nat → Nat) : Nat := (List.range n).foldl (fun r k => r + f k * 2 ^ (w * k)) 0

theorem packed_succ (w n : Nat) (f : Nat → Nat) : packed w (n + 1) f = packed w n f + f n * 2 ^ (w * n) := by
  rw [packed, List.range_succ, List.foldl_append]
  rfl

theorem packed_lt {w n : Nat} {f : Nat → Nat} (hf : ∀ i < n, f i < 2 ^ w) : packed w n f < 2 ^ (w * n) := by
  induction n with
  | zero => exact Nat.two_pow_pos _
  | succ n ih =>
    have hlow := ih fun i hi => hf i (by omega)
    have htop : (f n + 1) * 2 ^ (w * n) ≤ 2 ^ w * 2 ^ (w * n) := Nat.mul_le_mul_right _ (hf n (by omega))
    rw [packed_succ, Nat.mul_succ, Nat.pow_add, Nat.mul_comm (2 ^ (w * n))]
    rw [Nat.succ_mul] at htop
    omega

/-- An element read off the number that elements were packed into. -/
theorem digit_packed {w n k : Nat} {f : Nat → Nat} (hf : ∀ i < n, f i < 2 ^ w) (hk : k < n) :
    packed w n f / 2 ^ (w * k) % 2 ^ w = f k := by
  induction n with
  | zero => omega
  | succ n ih =>
    have hbelow (i : Nat) (hi : i < n) : f i < 2 ^ w := hf i (by omega)
    rw [packed_succ]
    by_cases h : k = n
    · subst h
      rw [Nat.add_mul_div_right _ _ (Nat.two_pow_pos _), Nat.div_eq_of_lt (packed_lt hbelow), Nat.zero_add,
        Nat.mod_eq_of_lt (hf k hk)]
    · obtain ⟨d, rfl⟩ : ∃ d, n = k + 1 + d := ⟨n - (k + 1), by omega⟩
      have hpow : f (k + 1 + d) * 2 ^ (w * (k + 1 + d)) = f (k + 1 + d) * 2 ^ (w * d) * 2 ^ w * 2 ^ (w * k) := by
        rw [Nat.mul_assoc, Nat.mul_assoc, ← Nat.pow_add, ← Nat.pow_add, show w * (k + 1 + d) = w * d + (w + w * k) by
          rw [Nat.mul_add, Nat.mul_succ]; omega]
      rw [hpow, Nat.add_mul_div_right _ _ (Nat.two_pow_pos _), Nat.add_mul_mod_self_right, ih hbelow (by omega)]

/-- A byte of an element is a byte of the number that it is packed into. -/
theorem byte_of_digit {v w k x j : Nat} (h : v / 2 ^ (w * k) % 2 ^ w = x) (hj : 8 * j + 8 ≤ w) :
    BitVec.ofNat 8 (v / 2 ^ (w * k + 8 * j)) = BitVec.ofNat 8 (x / 2 ^ (8 * j)) := by
  subst h
  ext i hi
  have hlt : i + 8 * j < w := by omega
  rw [← BitVec.getLsbD_eq_getElem, ← BitVec.getLsbD_eq_getElem, BitVec.getLsbD_ofNat, BitVec.getLsbD_ofNat,
    Nat.testBit_div_two_pow, Nat.testBit_div_two_pow, Nat.testBit_mod_two_pow, Nat.testBit_div_two_pow,
    decide_eq_true hlt, Bool.true_and, show i + 8 * j + w * k = i + (w * k + 8 * j) by omega]

/-- An integer wrapped to n bits is below 2^n. -/
theorem wrapI_lt (x : Int) (n : Nat) : wrapI x n < 2 ^ n := by
  have hpos : (0 : Int) < (2 ^ n : Nat) := by exact_mod_cast Nat.two_pow_pos n
  have hlt := Int.emod_lt_of_pos x hpos
  have hnn := Int.emod_nonneg x (Int.ne_of_gt hpos)
  rw [wrapI]
  omega

/-! ## Codes of a format (R93, R166) -/

section
variable (F : Fmt)

/-- The fraction's codes stand above the infinity's. -/
theorem infCode_add : F.infCode + 2 ^ F.m = F.sgn := by
  rw [Fmt.infCode, Fmt.sgn, ← Nat.succ_mul, Nat.succ_eq_add_one, Nat.sub_add_cancel Nat.one_le_two_pow, Nat.pow_add,
    Nat.mul_comm]

theorem infCode_lt : F.infCode < F.sgn := by
  have := infCode_add F
  have := Nat.two_pow_pos F.m
  omega

theorem maxCode_lt : F.maxCode < F.sgn := by
  have hinf := infCode_lt F
  have hpos : 0 < 2 ^ (F.m + F.ew) := Nat.two_pow_pos _
  rw [Fmt.maxCode]
  split
  · omega
  · rw [Fmt.sgn]; omega

theorem qnan_lt : F.qnan < 2 * F.sgn := by
  have hinf := infCode_add F
  have hpos : 0 < F.sgn := Nat.two_pow_pos _
  have hle : 2 ^ (F.m - 1) ≤ 2 ^ F.m := Nat.pow_le_pow_right (by decide) (by omega)
  rw [Fmt.qnan]
  split <;> omega

/-- The sign's weight or nothing, and a code below it, stay below twice the sign's weight. -/
theorem sign_add_lt {neg : Bool} {g : Nat} (h : g < F.sgn) : (if neg then F.sgn else 0) + g < 2 * F.sgn := by
  split <;> omega

theorem roundRat_lt (rm : Rm) (dn : Nat) (neg : Bool) (num den : Nat) : roundRat F rm dn neg num den < 2 * F.sgn := by
  unfold roundRat
  extract_lets e q k s g away
  split
  · refine sign_add_lt F ?_
    split
    · exact infCode_lt F
    · exact maxCode_lt F
  · split
    · exact sign_add_lt F (g := 0) (Nat.two_pow_pos _)
    · next hmax _ => exact sign_add_lt F (Nat.lt_of_le_of_lt (Nat.not_lt.1 hmax) (maxCode_lt F))

/-- A rounded value is a code of its format. -/
theorem roundFp_lt (rm : Rm) (dn : Nat) (x : XVal) : roundFp F rm dn x < 2 * F.sgn := by
  cases x with
  | nan => exact qnan_lt F
  | inf neg =>
    refine sign_add_lt F ?_
    split
    · exact infCode_lt F
    · exact maxCode_lt F
  | fin neg m e =>
    rw [roundFp]
    split
    · exact sign_add_lt F (g := 0) (Nat.two_pow_pos _)
    · exact roundRat_lt F ..

theorem satInf_le (sat : Bool) (r : Nat) : satInf F sat r ≤ r := by
  rw [satInf]
  split <;> omega

end

/-! ## Exact integers -/

/-- An exact value is the integer v, written without an exponent. -/
def IsInt (x : XVal) (v : Int) : Prop := ∃ neg m, x = .fin neg m 0 ∧ signed neg m = v

/-- An integer is its sign and its magnitude. -/
theorem signed_natAbs (v : Int) : signed (v < 0) v.natAbs = v := by
  rw [signed]
  split
  · next h => rw [decide_eq_true_eq] at h; omega
  · next h => rw [decide_eq_true_eq] at h; omega

theorem isInt_ofInt (v : Int) : IsInt (ofInt v) v := ⟨_, _, rfl, signed_natAbs v⟩

/-- The sign of a product is that of its factors. -/
theorem signed_mul (a b : Bool) (m n : Nat) : signed (a != b) (m * n) = signed a m * signed b n := by
  cases a <;> cases b
  case false.false => exact Int.natCast_mul m n
  case false.true => exact (congrArg Neg.neg (Int.natCast_mul m n)).trans (Int.mul_neg ..).symm
  case true.false => exact (congrArg Neg.neg (Int.natCast_mul m n)).trans (Int.neg_mul ..).symm
  case true.true => exact (Int.natCast_mul m n).trans (Int.neg_mul_neg ..).symm

theorem isInt_one : IsInt (.fin false 1 0) 1 := ⟨_, _, rfl, rfl⟩

/-- The product of integers is their exact product. -/
theorem IsInt.mulX {x y : XVal} {u v : Int} (hx : IsInt x u) (hy : IsInt y v) : IsInt (mulX x y) (u * v) := by
  obtain ⟨a, m, rfl, rfl⟩ := hx
  obtain ⟨b, n, rfl, rfl⟩ := hy
  exact ⟨_, _, rfl, signed_mul ..⟩

/-- The sum of integers is their exact sum. -/
theorem IsInt.addX {x y : XVal} {u v : Int} (rm : Rm) (hx : IsInt x u) (hy : IsInt y v) :
    IsInt (addX rm x y) (u + v) := by
  obtain ⟨a, m, rfl, rfl⟩ := hx
  obtain ⟨b, n, rfl, rfl⟩ := hy
  simp only [Machine.addX, show min (0 : Int) 0 = 0 from rfl, Int.sub_self, Int.toNat_zero, Nat.pow_zero, Nat.mul_one]
  split
  · next h => exact ⟨_, _, rfl, by rw [h]; simp [signed]⟩
  · exact ⟨_, _, rfl, signed_natAbs _⟩

/-- The sum of R174 over products that are integers. -/
theorem isInt_sumX {α : Type} {f : α → XVal} {g : α → Int} {l : List α} (h : ∀ a ∈ l, IsInt (f a) (g a)) :
    IsInt (sumX (l.map f)) (l.map g).sum := by
  suffices hacc : ∀ x u, IsInt x u → IsInt ((l.map f).foldl (Machine.addX .rne) x) (u + (l.map g).sum) by
    simpa [sumX] using hacc (.fin false 0 0) 0 ⟨_, _, rfl, rfl⟩
  induction l with
  | nil => intro x u hx; simpa using hx
  | cons a r ih =>
    intro x u hx
    rw [List.map_cons, List.map_cons, List.foldl_cons, List.sum_cons, ← Int.add_assoc]
    exact ih (fun b hb => h b (List.mem_cons_of_mem _ hb)) _ _ (hx.addX .rne (h a List.mem_cons_self))

/-- An integer added to an element of a tile wraps (R173). -/
theorem accumulate_isInt {x : XVal} {v : Int} (h : IsInt x v) (old : Nat) :
    accumulate true old x = wrapI (sval old 128 + v) 128 := by
  obtain ⟨neg, m, rfl, rfl⟩ := h
  simp [accumulate]

/-! ## The tree (R175) -/

theorem length_treeLevel {l : List XVal} {k : Nat} (h : l.length = 2 * k) : (treeLevel l).length = k := by
  induction k generalizing l with
  | zero => rw [List.length_eq_zero_iff.1 h]; rfl
  | succ k ih =>
    match l, h with
    | a :: b :: r, h => simp [treeLevel, ih (l := r) (by simpa [Nat.mul_succ] using h)]

/-- A node of the first level is the rounded sum of its two products. -/
theorem treeAt_treeLevel_zero {l : List XVal} {k i : Nat} (h : l.length = 2 * k) (hi : i < k) :
    treeAt (treeLevel l) 0 i = treeAt l 1 i := by
  induction k generalizing l i with
  | zero => omega
  | succ k ih =>
    match l, h with
    | a :: b :: r, h =>
      cases i with
      | zero => rfl
      | succ i => exact ih (l := r) (by simpa [Nat.mul_succ] using h) (by omega)

/-- The tree over a level is the tree over its products, one level further. -/
theorem treeAt_treeLevel {l : List XVal} {k j i : Nat} (h : l.length = 2 * k) (hi : (i + 1) * 2 ^ j ≤ k) :
    treeAt (treeLevel l) j i = treeAt l (j + 1) i := by
  induction j generalizing i with
  | zero => exact treeAt_treeLevel_zero h (by omega)
  | succ j ih =>
    have hk : (2 * i + 2) * 2 ^ j ≤ k := by
      rwa [Nat.pow_succ, Nat.mul_comm (2 ^ j), ← Nat.mul_assoc, Nat.mul_comm _ 2, Nat.mul_add] at hi
    have hlow : (2 * i + 1) * 2 ^ j ≤ k := Nat.le_trans (Nat.mul_le_mul_right _ (by omega)) hk
    rw [treeAt, ih hlow, ih (i := 2 * i + 1) hk]
    rfl

/-- The model's tree is the root of R175's. -/
theorem treeSum_eq_treeAt {n : Nat} {l : List XVal} (h : l.length = 2 ^ n) : treeSum n l = treeAt l n 0 := by
  induction n generalizing l with
  | zero => cases l <;> rfl
  | succ n ih =>
    have h2 : l.length = 2 * 2 ^ n := by rw [h, Nat.pow_succ, Nat.mul_comm]
    rw [treeSum, ih (length_treeLevel h2), treeAt_treeLevel h2 (by omega)]

end Sys2Proof.Machine
end

section
/-! The matrix engine (O39): its two events, the rows of a tile that a command writes, and the elements that `ACCLD` and
`ACCRD` convert. -/

namespace Sys2Proof.Machine

open Sys2Proof.Claims

/-! ## The events (R187, R189) -/

section
variable {s : State} {bay : Nat} {c : MxCmd} (hc : (s.bay bay).mx.cur = some c) (hr : mxReady s bay = true)
include hc hr

/-- A command that steps through rows does its next group. -/
theorem execMatrixRowGroupComplete_next (hs : mxStopped s bay = false) (ho : c.opc ≠ 0x1B0) :
    execMatrixRowGroupComplete bay s = .next (groupStep s bay c (s.bay bay).mx.rows) := by
  simp [execMatrixRowGroupComplete, hc, hr, hs, ho]

/-- An `LDSTAT` whose plane is built loads it into the plane that it names. -/
theorem execPlaneLoadComplete_ok {p : MxPlane} (ho : c.opc = 0x1B0) (hp : statPlane s bay c = .ok p) :
    execPlaneLoadComplete bay s =
      .next (mxFinish (s.modBay bay fun y => { y with mx := loadPlane c p y.mx }) bay c) := by
  simp [execPlaneLoadComplete, hc, hr, ho, hp, loadPlane]

/-- An `LDSTAT` that meets a bad word ends in a data error. -/
theorem execPlaneLoadComplete_error {e : MxBad} (ho : c.opc = 0x1B0) (hp : statPlane s bay c = .error e) :
    execPlaneLoadComplete bay s = .next (mxNext (dataError s bay c e) bay) := by
  simp [execPlaneLoadComplete, hc, hr, ho, hp]

end

/-! ## Rows of a tile -/

/-- Values listed with their positions. -/
theorem zipIdx_map_range {α : Type} (n : Nat) (f : Nat → α) :
    ((List.range n).map f).zipIdx = (List.range n).map fun k => (f k, k) := by
  apply List.ext_getElem <;> simp

/-- Values put side by side in a tile's store are read back at their places, and nothing else has changed. -/
theorem agetD_foldl_aput (acc : Assoc (BitVec 128)) (o n : Nat) (v : Nat → Nat) (j : Nat) :
    agetD ((List.range n).foldl (fun a k => aput a (o + k) 0 (BitVec.ofNat 128 (v k))) acc) j 0 =
      if o ≤ j ∧ j < o + n then BitVec.ofNat 128 (v (j - o)) else agetD acc j 0 := by
  induction n with
  | zero => rw [if_neg (by omega)]; rfl
  | succ n ih =>
    rw [List.range_succ, List.foldl_append, List.foldl_cons, List.foldl_nil, agetD_aput, ih]
    by_cases hj : j = o + n
    · subst hj
      rw [if_pos rfl, if_pos (by omega), Nat.add_sub_cancel_left]
    · simp only [hj, if_false, show (o ≤ j ∧ j < o + (n + 1)) ↔ (o ≤ j ∧ j < o + n) by omega]

/-- A row of a tile after a row is written, by the tile's and the row's numbers. -/
theorem tileAt_writeTile (m : Matrix) {tile row t r n : Nat} (v : Nat → Nat) (hrow : row < 64) (hr : r < 64)
    (hn : n < 128) : tileAt (writeTile m tile row ((List.range 128).map v)) t r n =
      if t = tile ∧ r = row then v n % 2 ^ 128 else tileAt m t r n := by
  simp only [tileAt, writeTile, zipIdx_map_range, List.foldl_map]
  rw [agetD_foldl_aput]
  by_cases h : t = tile ∧ r = row
  · obtain ⟨rfl, rfl⟩ := h
    rw [if_pos (by omega), if_pos ⟨rfl, rfl⟩, Nat.add_sub_cancel_left, BitVec.toNat_ofNat]
  · rw [if_neg (by omega), if_neg h]

/-- The state in which row i of a command's rows of its tile has been written. -/
def putRow (s : State) (bay : Nat) (c : MxCmd) (i : Nat) (v : Nat → Nat) : State :=
  s.modBay bay fun y => { y with
    mx := writeTile y.mx (c.f.mod.getLsbD 0).toNat (bitsOf c.f.imm 11 6 + i) ((List.range 128).map v) }

section
variable {s : State} {bay : Nat} {c : MxCmd} {i : Nat}

/-- A written row changes no other row and no byte of memory. -/
theorem rowBecomes_putRow (hrow : bitsOf c.f.imm 11 6 + i < 64) (v : Nat → Nat) :
    RowBecomes s (putRow s bay c i v) bay c i v where
  row n hn := by
    simp only [accElem, putRow, bay_modBay, if_true, tileAt_writeTile _ v hrow hrow hn, and_self]
  rest tile r n _ hr hn hne := by
    simp only [putRow, bay_modBay, if_true, tileAt_writeTile _ v hrow hr hn]
    rw [if_neg fun ⟨htile, hrow⟩ => hne.elim (· htile) (· hrow)]
  memory := by
    refine ⟨rfl, fun b => ?_⟩
    rw [putRow, bay_modBay]
    split
    · subst_vars; rfl
    · rfl

theorem accElem_lt (s : State) (bay : Nat) (c : MxCmd) (i n : Nat) : accElem s bay c i n < 2 ^ 128 := BitVec.isLt _

/-! ## What a row's command does (R189 to R193) -/

/-- The number of the tile that a command names. -/
theorem tile_eq (c : MxCmd) : (if c.f.mod.getLsbD 0 then 1 else 0) = (c.f.mod.getLsbD 0).toNat := by
  cases c.f.mod.getLsbD 0 <;> rfl

theorem applyRow_mms (h : c.opc = 0x1B2) : applyRow s bay c i =
    (mmsRow s bay c i).map fun vs => s.modBay bay fun y => { y with
      mx := writeTile y.mx (c.f.mod.getLsbD 0).toNat (bitsOf c.f.imm 11 6 + i) vs } := by
  simp only [applyRow, h, if_true, tile_eq]

theorem applyRow_accz (h : c.opc = 0x1B3) : applyRow s bay c i = .ok (putRow s bay c i fun _ => 0) := by
  simp only [applyRow, tile_eq, putRow, List.map_const', List.length_range]
  simp [h]

theorem applyRow_accsc {v : Nat} (h : c.opc = 0x1B5) (hv : RowReads s bay c i 4 v) : applyRow s bay c i =
    .ok (putRow s bay c i fun n => roundFp fB128 .rne 0 (mulX (fB128.value (accElem s bay c i n)) (f32.value v))) := by
  rw [RowReads] at hv
  simp only [applyRow, tile_eq, putRow, accElem, hv, bind, Except.bind, List.map_map, Function.comp_def]
  simp [h]

theorem applyRow_accld {v : Nat} (h : c.opc = 0x1B6)
    (hv : RowReads s bay c i (128 * accElemBytes (bitsOf c.f.imm 17 13)) v) : applyRow s bay c i =
    .ok (putRow s bay c i fun n => loadElem c (v / 2 ^ (8 * accElemBytes (bitsOf c.f.imm 17 13) * n) %
      2 ^ (8 * accElemBytes (bitsOf c.f.imm 17 13)))) := by
  rw [RowReads] at hv
  simp only [applyRow, tile_eq, putRow, hv, bind, Except.bind]
  simp [h]

/-- The number that the converted elements of a row are packed into. -/
def readoutRow (s : State) (bay : Nat) (c : MxCmd) (i : Nat) : Nat :=
  packed (8 * accElemBytes (bitsOf c.f.imm 17 13)) 128 fun n => readout c (accElem s bay c i n)

theorem applyRow_accrd (h : c.opc = 0x1B4) : applyRow s bay c i =
    .ok (s.setHomeWords (.pad bay (((s.team? bay c.key).getD (noTeam c.key)).bspBase + cmdRowAt c i))
      (tokOf (32 * accElemBytes (bitsOf c.f.imm 17 13)) (readoutRow s bay c i))) := by
  simp only [applyRow, tile_eq, readoutRow, packed, accElem, zipIdx_map_range, List.foldl_map]
  simp [h]

end

/-! ## Conversions (R170, R191, R193) -/

/-- An element as `ACCLD` converts it is the spec's. -/
theorem loadElem_eq_accIn (c : MxCmd) (v : Nat) : loadElem c v = accIn c v := by
  simp only [loadElem, accIn]
  cases intFmt (bitsOf c.f.imm 17 13) with
  | some q => rfl
  | none =>
    cases hF : fmtOf (bitsOf c.f.imm 17 13) with
    | none => rfl
    | some F => simp [flushElem, hF]

/-- An element as `ACCRD` converts it is the spec's: SAT acts on an infinity only when it is set. -/
theorem readout_eq_accOut (c : MxCmd) (x : Nat) : readout c x = accOut c x := by
  simp only [readout, accOut]
  cases intFmt (bitsOf c.f.imm 17 13) with
  | some q => rfl
  | none =>
    cases fmtOf (bitsOf c.f.imm 17 13) with
    | none => rfl
    | some F => cases c.f.imm.getLsbD 18 <;> rfl

/-- A converted element has no more bits than its format; one that is not converted has those of the tile. -/
theorem accOut_lt {c : MxCmd} {x b : Nat} (hx : x < 2 ^ 128) (hb : fmtBits (bitsOf c.f.imm 17 13) ≤ b)
    (h0 : fmtBits (bitsOf c.f.imm 17 13) = 0 → 128 ≤ b) : accOut c x < 2 ^ b := by
  unfold fmtBits at hb h0
  unfold accOut
  cases hi : intFmt (bitsOf c.f.imm 17 13) with
  | some q =>
    simp only [hi] at hb ⊢
    refine Nat.lt_of_lt_of_le ?_ (Nat.pow_le_pow_right (by decide) hb)
    split <;> exact wrapI_lt ..
  | none =>
    cases hF : fmtOf (bitsOf c.f.imm 17 13) with
    | none =>
      simp only [hi, hF, forall_const] at h0 ⊢
      exact Nat.lt_of_lt_of_le hx (Nat.pow_le_pow_right (by decide) h0)
    | some F =>
      simp only [hi, hF] at hb ⊢
      refine Nat.lt_of_lt_of_le (m := 2 * F.sgn) ?_ ?_
      · split
        · exact qnan_lt F
        · split
          · exact Nat.lt_of_le_of_lt (satInf_le ..) (roundFp_lt ..)
          · exact roundFp_lt ..
      · calc 2 * F.sgn = 2 ^ (F.m + F.ew + 1) := by rw [Nat.pow_succ, Nat.mul_comm, Fmt.sgn]
          _ ≤ 2 ^ b := Nat.pow_le_pow_right (by decide) hb

/-- The elements of Table 6.8 fit their bytes. -/
theorem fmtBits_le_bytes :
    ∀ t ∈ accCodes, fmtBits t ≤ 8 * accElemBytes t ∧ (fmtBits t = 0 → 128 ≤ 8 * accElemBytes t) := by decide

end Sys2Proof.Machine
end

section
/-! The rows of the matrix engine (O39), continued: the bytes that `ACCRD` writes, the operands and sums of a row of
`MMS`. -/

namespace Sys2Proof.Machine

open Sys2Proof.Claims

/-! ## The bytes that `ACCRD` writes (R191) -/

/-- Byte j of element n of a row whose elements are packed side by side. -/
theorem byte_readoutRow (s : State) (bay : Nat) (c : MxCmd) (i : Nat) (ht : bitsOf c.f.imm 17 13 ∈ accCodes) {n j : Nat}
    (hn : n < 128) (hj : j < accElemBytes (bitsOf c.f.imm 17 13)) :
    BitVec.ofNat 8 (readoutRow s bay c i / 2 ^ (8 * (accElemBytes (bitsOf c.f.imm 17 13) * n + j))) =
      BitVec.ofNat 8 (accOut c (accElem s bay c i n) / 2 ^ (8 * j)) := by
  obtain ⟨hb, h0⟩ := fmtBits_le_bytes _ ht
  have hfit (k : Nat) (_ : k < 128) :
      readout c (accElem s bay c i k) < 2 ^ (8 * accElemBytes (bitsOf c.f.imm 17 13)) := by
    rw [readout_eq_accOut]
    exact accOut_lt (accElem_lt ..) hb h0
  rw [readoutRow, Nat.mul_add, ← Nat.mul_assoc, byte_of_digit (digit_packed hfit hn) (by omega), readout_eq_accOut]

/-! ## The operands of a row of `MMS` (R169, R172) -/

/-- The code of an element of a format of the integer class. -/
def IsIntFmt (fmt : Nat) : Prop := fmt = 0x10 ∨ fmt = 0x11 ∨ fmt = 0x12 ∨ fmt = 0x13

/-- A pair of the integer class has integer formats and no scales (Table 6.5). -/
theorem integerClass_true {fa ka fb kb : Nat} (h : integerClass fa ka fb kb = true) :
    IsIntFmt fa ∧ ka = 0 ∧ IsIntFmt fb ∧ kb = 0 := by
  simp only [integerClass, Bool.and_eq_true, Bool.or_eq_true, decide_eq_true_eq] at h
  unfold IsIntFmt
  omega

theorem procWidth_cases (fmt : Nat) :
    procWidth fmt = 0 ∨ procWidth fmt = 4 ∨ procWidth fmt = 8 ∨ procWidth fmt = 16 ∨ procWidth fmt = 32 := by
  unfold procWidth
  repeat' split
  all_goals simp

section
variable {fmt : Nat} (hf : IsIntFmt fmt)
include hf

/-- Elements of the integer class are 4 or 8 bits wide. -/
theorem procWidth_isIntFmt : procWidth fmt = 4 ∨ procWidth fmt = 8 := by
  obtain rfl | rfl | rfl | rfl := hf <;> decide

/-- An element reads the same number whether its row is cut to the element or not. -/
theorem elemInt_elemAt (row k : Nat) :
    elemInt fmt (elemAt fmt row k) = elemInt fmt (row / 2 ^ (k * procWidth fmt)) := by
  obtain rfl | rfl | rfl | rfl := hf <;> simp [elemInt, elemAt, procWidth, sval]

/-- The scaled value of an element without scales is the element's integer. -/
theorem isInt_scaledValue (code : Nat) :
    IsInt (scaledValue fmt 0 code (.fin false 1 0) (.fin false 1 0)) (elemInt fmt code) := by
  have hval : elemValue fmt code = ofInt (elemInt fmt code) := by
    obtain rfl | rfl | rfl | rfl := hf <;> rfl
  have h := ((isInt_ofInt (elemInt fmt code)).mulX isInt_one).mulX isInt_one
  rw [Int.mul_one, Int.mul_one] at h
  simpa [scaledValue, hval, ofInt] using h

/-- R170 flushes no integer element, so a flushed row has the row's elements. -/
theorem elemAt_flushRow (dn row : Nat) {k : Nat} (hk : k < 512 / procWidth fmt) :
    elemAt fmt (flushRow fmt dn row) k = elemAt fmt row k := by
  have hkeep (e : Nat) : flushElem fmt dn e = e := by
    obtain h | h := procWidth_isIntFmt hf <;> simp [flushElem, h]
  have h := digit_packed (w := procWidth fmt) (f := elemAt fmt row) (fun _ _ => Nat.mod_lt _ (Nat.two_pow_pos _)) hk
  simpa only [elemAt, flushRow, packed, hkeep, Nat.mul_comm] using h

end

/-- The values of a row that has no scales. -/
theorem rowValues_unscaled (fmt row : Nat) (set : List Byte) (band : Nat) : rowValues fmt 0 row set band =
    (List.range (512 / procWidth fmt)).map fun k =>
      scaledValue fmt 0 (elemAt fmt row k) (.fin false 1 0) (.fin false 1 0) := rfl

theorem length_rowValues (fmt kind row : Nat) (set : List Byte) (band : Nat) :
    (rowValues fmt kind row set band).length = 512 / procWidth fmt := by
  simp [rowValues]

/-- Value k of a row is its element's exact value times its scales (R169). -/
theorem getElem?_rowValues {fmt kind row band k : Nat} {set : List Byte} (hk : k < 512 / procWidth fmt)
    (hkind : kind < 4) : (rowValues fmt kind row set band)[k]? = some (mulX (mulX
      (elemExact fmt kind (row / 2 ^ (k * procWidth fmt) % 2 ^ procWidth fmt)) (scaleOf kind set k))
      (if kind = 1 then fBF.value band else .fin false 1 0)) := by
  have hscale : setScale kind set k = scaleOf kind set k := by
    obtain rfl | rfl | rfl | rfl : kind = 0 ∨ kind = 1 ∨ kind = 2 ∨ kind = 3 := by omega
    all_goals rfl
  have hx (v : Nat) (g h : XVal) : scaledValue fmt kind v g h = mulX (mulX (elemExact fmt kind v) g) h := by
    simp only [scaledValue, elemExact]
    cases elemValue fmt v <;> simp
  simp [rowValues, hk, hscale, hx, elemAt, bandScale]

/-! ## The sums of a row of `MMS` (R173 to R175) -/

/-- The products of a row and a column. -/
def products (a b : List XVal) : List XVal := (a.zip b).map fun q => mulX q.1 q.2

/-- The sum that a column adds for a row of 512 bits: exact, or by R175's tree. -/
theorem groupSum_eq {fmt : Nat} {l : List XVal} (hl : l.length = 512 / procWidth fmt) : groupSum (procWidth fmt) l =
    if procWidth fmt ≤ 8 then sumX l else treeAt l (if procWidth fmt = 16 then 5 else 4) 0 := by
  rw [groupSum]
  split
  · rfl
  · next hw =>
    refine treeSum_eq_treeAt ?_
    rw [hl]
    obtain h | h | h | h | h := procWidth_cases fmt <;> simp_all

/-- A row and a column of the integer class add the exact sum of their products. -/
theorem isInt_groupSum {fa fb : Nat} (ha : IsIntFmt fa) (hb : IsIntFmt fb) (hw : procWidth fb = procWidth fa)
    (dn raw col : Nat) (sa sb : List Byte) (ba bb : Nat) :
    IsInt (groupSum (procWidth fa) (products (rowValues fa 0 (flushRow fa dn raw) sa ba) (rowValues fb 0 col sb bb)))
      ((List.range (512 / procWidth fa)).map fun k =>
        elemInt fa (raw / 2 ^ (k * procWidth fa)) * elemInt fb (col / 2 ^ (k * procWidth fa))).sum := by
  have hnarrow : procWidth fa ≤ 8 := by
    obtain h | h := procWidth_isIntFmt ha <;> omega
  rw [groupSum, if_pos hnarrow, rowValues_unscaled, rowValues_unscaled, hw, products, List.zip_map', List.map_map]
  refine isInt_sumX fun k hk => ?_
  rw [Function.comp_apply, elemAt_flushRow ha _ _ (List.mem_range.1 hk), ← elemInt_elemAt ha, ← hw, ← elemInt_elemAt hb]
  exact (isInt_scaledValue ha _).mulX (isInt_scaledValue hb _)

/-! ## A row of `MMS` (R189) -/

/-- The scaled values of a column of a plane whose elements make the number v. -/
def columnValues (p : MxPlane) (n v : Nat) : List XVal :=
  rowValues p.fmt p.kind v (agetD p.scales n []) (p.bands[n / 64]?.getD 0).toNat

theorem planeValues_of_planeColumn {p : MxPlane} {n v : Nat} (h : planeColumn p n = .ok v) :
    planeValues p n = .ok (columnValues p n v) := by
  rw [planeValues, h]; rfl

theorem length_of_planeValues {p : MxPlane} {n : Nat} {b : List XVal} (h : planeValues p n = .ok b) :
    b.length = 512 / procWidth p.fmt := by
  cases hc : planeColumn p n with
  | error e => rw [planeValues, hc] at h; exact nomatch h
  | ok v =>
    rw [planeValues_of_planeColumn hc] at h
    rw [← Except.ok.inj h, columnValues, length_rowValues]

/-- A list of which every entry is good. -/
theorem allOk_map {α β : Type} {f : α → Except MxBad β} {g : α → β} {l : List α} (h : ∀ a ∈ l, f a = .ok (g a)) :
    allOk (l.map f) = .ok (l.map g) := by
  induction l with
  | nil => rfl
  | cons a r ih =>
    rw [List.map_cons, h a List.mem_cons_self, allOk, ih fun b hb => h b (List.mem_cons_of_mem _ hb)]
    rfl

section
variable {s : State} {bay : Nat} {c : MxCmd} {i : Nat}

/-- The values of a row's 128 elements are all that a row is told by. -/
theorem rowBecomes_congr {t : State} {u v : Nat → Nat} (h : RowBecomes s t bay c i u) (he : ∀ n < 128, u n = v n) :
    RowBecomes s t bay c i v where
  row n hn := by rw [h.row n hn, he n hn]
  rest := h.rest
  memory := h.memory

/-- The scaled values of row i of an `MMS`, from its bytes, its scale set and its band scale. -/
def rowOperand (c : MxCmd) (raw set band : Nat) : List XVal :=
  rowValues (recPair c false).1 (recPair c false).2 (flushRow (recPair c false).1 (modeDN c.mode) raw)
    (bytesOf (scaleSetBytes (recPair c false).1 (recPair c false).2) set) band

/-- The element that a row of an `MMS` adds to: zero where the command clears the tile first. -/
def mmsOld (s : State) (bay : Nat) (c : MxCmd) (i n : Nat) : Nat :=
  if c.f.mod.getLsbD 2 then 0 else accElem s bay c i n

/-- The operands of row i of an `MMS`, every word of them good: its bytes, its scale set, its band scale, and the scaled
values of the plane's columns. -/
structure MmsReads (s : State) (bay : Nat) (c : MxCmd) (i raw set band : Nat) (b : Nat → List XVal) : Prop where
  row : RowReads s bay c i 64 raw
  scales : readBytes s bay ((s.team? bay c.key).getD (noTeam c.key)).bspBase (scaleAt c false i)
    (scaleSetBytes (recPair c false).1 (recPair c false).2) = .ok set
  bands : readBytes s bay ((s.team? bay c.key).getD (noTeam c.key)).bspBase (recField c 95 64)
    (if (recPair c false).2 = 1 then 2 else 0) = .ok band
  columns : ∀ n < 128, planeValues (s.bay bay).mx.plane n = .ok (b n)

/-- What a row of an `MMS` whose operands are good leaves, if it passes its check. -/
theorem mmsRow_ok {vs : List Nat} {raw set band : Nat} {b : Nat → List XVal} (hr : MmsReads s bay c i raw set band b)
    (h : mmsRow s bay c i = .ok vs) : vs = (List.range 128).map fun n => accumulate
      (integerClass (recPair c false).1 (recPair c false).2 (s.bay bay).mx.plane.fmt (s.bay bay).mx.plane.kind)
      (mmsOld s bay c i n) (groupSum (procWidth (recPair c false).1) (products (rowOperand c raw set band) (b n))) := by
  obtain ⟨hrow, hset, hband, hcols⟩ := hr
  have hall := allOk_map (l := List.range 128) fun n hn => hcols n (List.mem_range.1 hn)
  rw [RowReads] at hrow
  simp only [mmsRow, tile_eq, hrow, hset, hband, hall, bind, Except.bind, List.map_map, zipIdx_map_range] at h
  split at h
  · exact nomatch h
  · exact (Except.ok.inj h).symm

section
variable {t : State} (hrow : bitsOf c.f.imm 11 6 + i < 64) (ho : c.opc = 0x1B2) (h : applyRow s bay c i = .ok t)
include hrow ho h

/-- A row of an `MMS` that completes has written a row of its tile and nothing else. -/
theorem rowBecomes_mms {raw set band : Nat} {b : Nat → List XVal} (hr : MmsReads s bay c i raw set band b) :
    RowBecomes s t bay c i fun n => accumulate
      (integerClass (recPair c false).1 (recPair c false).2 (s.bay bay).mx.plane.fmt (s.bay bay).mx.plane.kind)
      (mmsOld s bay c i n) (groupSum (procWidth (recPair c false).1) (products (rowOperand c raw set band) (b n))) := by
  rw [applyRow_mms ho] at h
  cases hm : mmsRow s bay c i with
  | error e => rw [hm] at h; exact nomatch h
  | ok vs =>
    rw [hm] at h
    rw [← Except.ok.inj h, mmsRow_ok hr hm]
    exact rowBecomes_putRow hrow _

/-- A completed row of an `MMS` of the integer class adds the exact sum of the products and wraps (R173). -/
theorem rowBecomes_mms_integer {raw : Nat} {col : Nat → Nat} (hraw : RowReads s bay c i 64 raw)
    (hw : procWidth (s.bay bay).mx.plane.fmt = procWidth (recPair c false).1)
    (hint : integerClass (recPair c false).1 (recPair c false).2 (s.bay bay).mx.plane.fmt
      (s.bay bay).mx.plane.kind = true) (hcol : ∀ n < 128, planeColumn (s.bay bay).mx.plane n = .ok (col n)) :
    RowBecomes s t bay c i fun n => wrapI (sval (mmsOld s bay c i n) 128 +
      ((List.range (512 / procWidth (recPair c false).1)).map fun k =>
        elemInt (recPair c false).1 (raw / 2 ^ (k * procWidth (recPair c false).1)) *
          elemInt (s.bay bay).mx.plane.fmt (col n / 2 ^ (k * procWidth (recPair c false).1))).sum) 128 := by
  obtain ⟨hfa, hka, hfb, hkb⟩ := integerClass_true hint
  have hreads : MmsReads s bay c i raw 0 0 fun n => columnValues (s.bay bay).mx.plane n (col n) :=
    { row := hraw
      scales := by rw [hka]; rfl
      bands := by rw [hka]; rfl
      columns := fun n hn => planeValues_of_planeColumn (hcol n hn) }
  refine rowBecomes_congr (rowBecomes_mms hrow ho h hreads) fun n _ => ?_
  rw [hint, rowOperand, columnValues, hka, hkb]
  exact accumulate_isInt (isInt_groupSum hfa hfb hw ..) _

/-- A completed row of an `MMS` of another class adds the sum of its products, exact or by the tree, and rounds once
(R173 to R175). -/
theorem rowBecomes_mms_float {raw set band : Nat} {b : Nat → List XVal} (hr : MmsReads s bay c i raw set band b)
    (hw : procWidth (s.bay bay).mx.plane.fmt = procWidth (recPair c false).1)
    (hint : integerClass (recPair c false).1 (recPair c false).2 (s.bay bay).mx.plane.fmt
      (s.bay bay).mx.plane.kind = false) :
    RowBecomes s t bay c i fun n => roundFp fB128 .rne 0 (addX .rne (fB128.value (mmsOld s bay c i n))
      (if procWidth (recPair c false).1 ≤ 8 then sumX (products (rowOperand c raw set band) (b n))
        else treeAt (products (rowOperand c raw set band) (b n))
          (if procWidth (recPair c false).1 = 16 then 5 else 4) 0)) := by
  refine rowBecomes_congr (rowBecomes_mms hrow ho h hr) fun n hn => ?_
  have hlen : (products (rowOperand c raw set band) (b n)).length = 512 / procWidth (recPair c false).1 := by
    simp [products, rowOperand, length_rowValues, length_of_planeValues (hr.columns n hn), hw]
  rw [hint, ← groupSum_eq hlen]
  rfl

end

/-- What `ACCRD` leaves of a row: its bytes, their codes, and everything else as it was (R191). -/
theorem accrd_row (ho : c.opc = 0x1B4) (ht : bitsOf c.f.imm 17 13 ∈ accCodes) {base size : Nat}
    (hbase : base = ((s.team? bay c.key).getD (noTeam c.key)).bspBase)
    (hsize : size = accElemBytes (bitsOf c.f.imm 17 13))
    (ha : (base + cmdRowAt c i) % 4 = 0) :
    ∃ t, applyRow s bay c i = .ok t ∧ t.mem = s.mem ∧
      (∀ n < 128, ∀ j < size, (t.bay bay).pad.byte (base + cmdRowAt c i + size * n + j) =
        BitVec.ofNat 8 (accOut c (accElem s bay c i n) / 2 ^ (8 * j))) ∧
      (∀ k < 32 * size, good ((t.bay bay).pad.word (base + cmdRowAt c i + 4 * k)) = true) ∧
      (∀ b a, (b ≠ bay ∨ a < base + cmdRowAt c i ∨ base + cmdRowAt c i + 128 * size ≤ a) →
        (t.bay b).pad.byte a = (s.bay b).pad.byte a) ∧ (t.bay bay).mx.acc = (s.bay bay).mx.acc := by
  refine ⟨_, applyRow_accrd ho, mem_setHomeWords_pad .., ?bytes, ?codes, ?frame, by rw [mx_setHomeWords_pad]⟩
  all_goals simp only [pad_setHomeWords_pad, if_true, ← hbase, ← hsize]
  case bytes =>
    intro n hn j hj
    have hin : size * n + j < 4 * (32 * size) := by
      have hle : size * (n + 1) ≤ size * 128 := Nat.mul_le_mul_left size hn
      rw [Nat.mul_succ] at hle
      omega
    rw [Nat.add_assoc _ (size * n), byte_setWords_tokOf _ _ _ _ hin]
    subst hsize
    exact byte_readoutRow s bay c i ht hn hj
  case codes => exact fun k hk => good_word_setWords_tokOf _ _ ha hk
  case frame =>
    intro b a h
    split
    · subst_vars
      exact byte_setWords_other _ _ (by rw [length_tokOf]; omega)
    · rfl

end

/-- Settles O39: the events by their own lemmas, each command's row by what `applyRow` does for its opcode. -/
theorem matrixEngine : Obligations.MatrixEngine := by
  refine ⟨⟨?groups, ?loaded, ?failed⟩, fun s bay c i hrow => ⟨?accz, ?accsc, ?accld, ?accrd, ?mms, ?values⟩⟩
  case groups => exact fun s bay c hc hr hs ho => execMatrixRowGroupComplete_next hc hr hs ho
  case loaded => exact fun s bay c p hc hr ho hp => execPlaneLoadComplete_ok hc hr ho hp
  case failed => exact fun s bay c e hc hr ho hp => execPlaneLoadComplete_error hc hr ho hp
  case accz => exact fun ho => ⟨_, applyRow_accz ho, rowBecomes_putRow hrow _⟩
  case accsc => exact fun v ho hv => ⟨_, applyRow_accsc ho hv, rowBecomes_putRow hrow _⟩
  case accld =>
    intro v ho _ hv
    refine ⟨_, applyRow_accld ho hv, ?_⟩
    simp only [loadElem_eq_accIn]
    exact rowBecomes_putRow hrow _
  case accrd => exact fun ho ht ha => accrd_row ho ht rfl rfl ha
  case mms =>
    exact fun t raw col ho h hraw hw => ⟨fun hint hcol => rowBecomes_mms_integer hrow ho h hraw hw hint hcol,
      fun set band b hint hset hband hcols => rowBecomes_mms_float hrow ho h ⟨hraw, hset, hband, hcols⟩ hw hint⟩
  case values => exact fun fmt kind row set band k hk hkind => getElem?_rowValues hk hkind

end Sys2Proof.Machine
end

section
/-! The truss's state: elements, ports and regions read after they are rewritten, and what an arrival leaves (R199). -/

namespace Sys2Proof.Machine

theorem elem_modElem (b : Bay) (row col : Nat) (f : Elem → Elem) (r c : Nat) :
    (b.modElem row col f).elem r c = if ekey r c = ekey row col then f (b.elem row col) else b.elem r c :=
  agetD_amod ..

theorem elem_modElem_same (b : Bay) (row col : Nat) (f : Elem → Elem) :
    (b.modElem row col f).elem row col = f (b.elem row col) := by
  rw [elem_modElem, if_pos rfl]

theorem elem_modElem_other (b : Bay) {row col r c : Nat} (f : Elem → Elem) (h : ekey r c ≠ ekey row col) :
    (b.modElem row col f).elem r c = b.elem r c := by
  rw [elem_modElem, if_neg h]

/-- A reading of elements that a rewriting keeps is as it was at every element. -/
theorem elem_modElem_keeps {α : Type} (v : Elem → α) {f : Elem → Elem} (b : Bay) (row col r c : Nat)
    (hv : ∀ e, v (f e) = v e) : v ((b.modElem row col f).elem r c) = v (b.elem r c) := by
  rw [elem_modElem]
  split
  next h => rw [hv, Bay.elem, Bay.elem, h]
  next => rfl

theorem port_modPort_same (b : Bay) (row : Nat) (f : Port → Port) : (b.modPort row f).port row = f (b.port row) :=
  (agetD_amod ..).trans (if_pos rfl)

/-- The token that arrives stands last in its destination's queue. -/
theorem queue_arrive (b : Bay) (r : Route) (t : TTok) :
    ((b.arrive r t).elem r.row r.col).queue r.inp = (b.elem r.row r.col).queue r.inp ++ [t] := by
  rw [Bay.arrive, elem_modElem_same, Elem.queue, agetD_aset, if_pos rfl]

/-- An arrival takes no token off its way. -/
theorem flying_arrive (b : Bay) (r : Route) (t : TTok) (row col k : Nat) :
    ((b.arrive r t).elem row col).flying k = (b.elem row col).flying k := by
  rw [Bay.arrive, elem_modElem_keeps (Elem.flying · k)]
  exact fun _ => rfl

theorem ports_arrive (b : Bay) (r : Route) (t : TTok) : (b.arrive r t).ports = b.ports := rfl

theorem bay_modRegion (s : State) (bay : Nat) (key : TeamKey) (idx : Nat) (f : Region → Region) (c : Nat) :
    (s.modRegion bay key idx f).bay c = if c = bay then
      { s.bay bay with regions := (s.bay bay).regions.map fun g => if g.key = key && g.idx = idx then f g else g }
    else s.bay c := bay_modBay ..

/-- A region rewritten leaves everything else of its bay as it was. -/
theorem bay_modRegion_keeps {α : Type} (v : Bay → α) (hv : ∀ (b : Bay) rs, v { b with regions := rs } = v b)
    (s : State) (bay : Nat) (key : TeamKey) (idx : Nat) (f : Region → Region) (c : Nat) :
    v ((s.modRegion bay key idx f).bay c) = v (s.bay c) := by
  rw [bay_modRegion]
  split
  next h => rw [hv, h]
  next => rfl

end Sys2Proof.Machine
end

section
/-! Element operations (O31, O32): one rule for a firing (R202, R203), then for each family of rows the effects that its
meaning has on what the element reads. -/

namespace Sys2Proof.Machine

open Sys2Proof.Claims

/-! ## The rule of a firing -/

/-- A firing without a glitch whose effects name no uncorrectable SRAM word leaves its effects and its count. -/
theorem fireElem_next {s : State} {e : ElemId} {g : Region} {op : Nat} {x : ElemWord} {f : FireIn → Firing}
    (h : ElemFires s e g op x) (hg : ((s.bay e.bay).elem e.row e.col).glitch = false)
    (hbad : (f (reading s e g op x)).bad = false) :
    fireElem op f x s = .next (afterFiring s e g x (f (reading s e g op x))) := by
  obtain ⟨hcur, hregion, hmay, hready⟩ := h
  have hglitch : (((idle s).bay e.bay).elem e.row e.col).glitch = false := hg
  have hread : (f (reading (idle s) e g op x)).bad = false := hbad
  simp only [idle, reading] at hglitch hread
  simp only [fireElem, hcur, hregion, hmay, hready, hglitch, hread]
  rfl

/-- Row i performs operation op of slot word x: on operands that satisfy P its firing has the effects f, and meets no
uncorrectable SRAM word. -/
def Performs (i : Instr) (op : Nat) (x : ElemWord) (P : FireIn → Prop) (f : FireIn → Firing) : Prop :=
  ∃ meaning : FireIn → Firing, (∀ s, exec i s = fireElem op meaning x s) ∧
    ∀ r : FireIn, r.x = x → P r → meaning r = f r ∧ (f r).bad = false

/-- A row completes with its effects at an element that fires it. -/
theorem Performs.next {i : Instr} {op : Nat} {x : ElemWord} {P : FireIn → Prop} {f : FireIn → Firing}
    (hi : Performs i op x P f) {s : State} {e : ElemId} {g : Region} (h : ElemFires s e g op x)
    (hg : ((s.bay e.bay).elem e.row e.col).glitch = false) (hP : P (reading s e g op x)) :
    exec i s = .next (afterFiring s e g x (f (reading s e g op x))) := by
  obtain ⟨meaning, hexec, heffects⟩ := hi
  obtain ⟨heq, hbad⟩ := heffects (reading s e g op x) rfl hP
  rw [hexec, fireElem_next h hg (heq ▸ hbad), heq]

/-- A row that fails on an error operand sends it to its outputs and dequeues; a test's t is 0 (R209). -/
theorem performs_of_fails {i : Instr} {op : Nat} {x : ElemWord} {meaning : FireIn → Firing} {t : TTok} {isTest : Bool}
    (hexec : ∀ s, exec i s = fireElem op meaning x s) (hfails : ∀ r, r.err = some t → meaning r = r.fails t isTest) :
    Performs i op x (·.err = some t) fun _ =>
      { out := some t, mask := x.omask, deq := x.deq, test := if isTest then some false else none } :=
  ⟨meaning, hexec, fun r hx herr => ⟨by rw [hfails r herr, ← hx]; rfl, rfl⟩⟩

/-- Locals that pass their checks let the firing go on (R200). -/
theorem withLocals_good {r : FireIn} {ls : List W40} (h : ls.all good = true) (isTest : Bool) (k : Firing) :
    r.withLocals ls isTest k = k := if_pos h

/-! ## Values, tests and passed tokens (R204, R205) -/

theorem value2_bad (f : Word → Word → Word) (r : FireIn) : (value2 f r).bad = false := by
  unfold value2; split <;> rfl

theorem test2_bad (f : Word → Word → Bool) (r : FireIn) : (test2 (fun a b => f a b = true) r).bad = false := by
  unfold test2; split <;> rfl

/-- The model's test is that of a Boolean relation. -/
theorem tests_eq_test2 (f : Word → Word → Bool) : tests f = test2 (fun a b => f a b = true) := by
  funext r
  cases herr : r.err with
  | some t => simp only [tests, test2, herr]
  | none => simp only [tests, test2, herr, Bool.decide_eq_true]

theorem shl_eq_mul_pow (a : Word) (n : Nat) : a <<< n = BitVec.ofNat 32 (a.toNat * 2 ^ n) := by
  apply BitVec.eq_of_toNat_eq
  rw [BitVec.toNat_shiftLeft, BitVec.toNat_ofNat, Nat.shiftLeft_eq]

theorem shr_eq_div_pow (a : Word) (n : Nat) : a >>> n = BitVec.ofNat 32 (a.toNat / 2 ^ n) := by
  apply BitVec.eq_of_toNat_eq
  rw [BitVec.toNat_ushiftRight, BitVec.toNat_ofNat, Nat.shiftRight_eq_div_pow,
    Nat.mod_eq_of_lt (Nat.lt_of_le_of_lt (Nat.div_le_self ..) a.isLt)]

/-- The signed minimum by the order of the numbers. -/
theorem min_eq_ite_le (a b : Word) : (if b.slt a then b else a) = if a.toInt ≤ b.toInt then a else b := by
  simp only [BitVec.slt_iff_toInt_lt, ← Int.not_le, ite_not]

/-- The signed maximum by the order of the numbers; equal numbers are one word. -/
theorem max_eq_ite_le (a b : Word) : (if a.slt b then b else a) = if a.toInt ≤ b.toInt then b else a := by
  simp only [BitVec.slt_iff_toInt_lt]
  by_cases h : a.toInt = b.toInt
  · rw [BitVec.eq_of_toInt_eq h, ite_self, ite_self]
  · have hlt : a.toInt < b.toInt ↔ a.toInt ≤ b.toInt := by omega
    simp only [hlt]

theorem computes_eq_value2 (f : Word → Word → Word) : computes f = value2 f := rfl

/-- The rows whose result is a value of A and B. -/
theorem exec_of_elemValue {i : Instr} {op : Nat} {x : ElemWord} {f : Word → Word → Word}
    (h : elemValue? i = some (op, x, f)) (s : State) : exec i s = fireElem op (value2 f) x s := by
  rw [← computes_eq_value2]
  unfold elemValue? at h
  split at h <;> cases h
  case h_9 => simp only [exec_elemShl, execElemShl, shl_eq_mul_pow]
  case h_10 => simp only [exec_elemShr, execElemShr, shr_eq_div_pow]
  case h_11 => simp only [exec_elemMin, execElemMin, min_eq_ite_le]
  case h_12 => simp only [exec_elemMax, execElemMax, max_eq_ite_le]
  all_goals rfl

theorem performs_elemValue {i : Instr} {op : Nat} {x : ElemWord} {f : Word → Word → Word}
    (h : elemValue? i = some (op, x, f)) : Performs i op x (fun _ => True) (value2 f) :=
  ⟨_, exec_of_elemValue h, fun r _ _ => ⟨rfl, value2_bad f r⟩⟩

/-- The tests of A and B. -/
theorem exec_of_elemTest {i : Instr} {op : Nat} {x : ElemWord} {f : Word → Word → Bool}
    (h : elemTest? i = some (op, x, f)) (s : State) : exec i s = fireElem op (tests f) x s := by
  unfold elemTest? at h
  split at h <;> cases h
  all_goals rfl

theorem performs_elemTest {i : Instr} {op : Nat} {x : ElemWord} {f : Word → Word → Bool}
    (h : elemTest? i = some (op, x, f)) : Performs i op x (fun _ => True) (test2 fun a b => f a b = true) :=
  ⟨_, exec_of_elemTest h, fun r _ _ => ⟨congrFun (tests_eq_test2 f) r, test2_bad f r⟩⟩

/-- The rows that pass a token on. -/
theorem exec_of_elemPass {i : Instr} {op : Nat} {x : ElemWord} {tok : FireIn → TTok} {tag : FireIn → BitVec 2}
    (h : elemPass? i = some (op, x, tok, tag)) (s : State) :
    exec i s = fireElem op (fun r => passes r (tok r) (tag r)) x s := by
  unfold elemPass? at h
  split at h <;> cases h
  all_goals rfl

theorem passes_of_none {r : FireIn} (h : r.err = none) (t : TTok) (tag : BitVec 2) :
    passes r t tag = { r.sends ⟨t.w, tag⟩ with dst := some t.w } := by
  simp only [passes, h]

theorem performs_elemPass {i : Instr} {op : Nat} {x : ElemWord} {tok : FireIn → TTok} {tag : FireIn → BitVec 2}
    (h : elemPass? i = some (op, x, tok, tag)) :
    Performs i op x (·.err = none) fun r => { r.sends ⟨(tok r).w, tag r⟩ with dst := some (tok r).w } :=
  ⟨_, exec_of_elemPass h, fun r _ herr => ⟨passes_of_none herr (tok r) (tag r), rfl⟩⟩

/-! ## Counting, generating, steering, joining and predicate operations (R204 to R208) -/

/-- The operands are no error tokens and the locals that an operation may read pass their checks. -/
def OperandsGood (r : FireIn) : Prop := r.err = none ∧ good r.cur = true ∧ good (r.e.local? 3) = true

theorem performs_elemOther {i : Instr} {op : Nat} {x : ElemWord} {f : FireIn → Firing}
    (h : elemOther? i = some (op, x, f)) : Performs i op x OperandsGood f := by
  unfold elemOther? at h
  split at h <;> cases h
  case h_1 =>
    refine ⟨_, exec_elemFfma x, fun r hx ⟨herr, hcur, _⟩ => ⟨?_, rfl⟩⟩
    simp only [herr, withLocals_good, List.all_cons, List.all_nil, hcur, Bool.and_self, elemFp]
  case h_2 => exact ⟨_, exec_elemTag x, fun r _ _ => ⟨rfl, rfl⟩⟩
  case h_3 =>
    refine ⟨_, exec_elemPset x, fun r _ _ => ⟨?_, rfl⟩⟩
    rw [BitVec.setWidth_eq_extractLsb' (by decide)]
  case h_4 => exact ⟨_, exec_elemPclr x, fun r _ _ => ⟨rfl, rfl⟩⟩
  case h_5 =>
    refine ⟨_, exec_elemCnt x, fun r _ ⟨_, hcur, _⟩ => ⟨?_, rfl⟩⟩
    simp only [withLocals_good, List.all_cons, List.all_nil, hcur, Bool.and_self]
  case h_6 =>
    refine ⟨_, exec_elemGen x, fun r _ ⟨_, hcur, hcount⟩ => ?_⟩
    simp only [withLocals_good, List.all_cons, List.all_nil, hcur, hcount, Bool.and_self, bne_iff_ne, ite_not]
    exact ⟨trivial, by split <;> rfl⟩
  case h_7 =>
    refine ⟨_, exec_elemSteer x, fun r _ ⟨herr, _⟩ => ⟨?_, rfl⟩⟩
    rw [passes_of_none herr]
  case h_8 =>
    refine ⟨_, exec_elemJoin x, fun r _ ⟨herr, hcur, _⟩ => ?_⟩
    have hhit : (x.imm != 0 && r.cur.v + 1 == x.imm.setWidth 32) =
        decide (x.imm ≠ 0 ∧ r.cur.v + 1 = x.imm.setWidth 32) := by
      rw [Bool.eq_iff_iff, Bool.and_eq_true, bne_iff_ne, beq_iff_eq, decide_eq_true_eq]
    simp only [herr, withLocals_good, List.all_cons, List.all_nil, hcur, Bool.and_self, hhit]
    by_cases h : x.imm ≠ 0 ∧ r.cur.v + 1 = x.imm.setWidth 32
    · simp only [decide_eq_true h, if_pos h]
      exact ⟨rfl, trivial⟩
    · simp only [decide_eq_false h, if_neg h]
      exact ⟨rfl, trivial⟩
  case h_9 => exact ⟨_, exec_elemErr x, fun r _ _ => ⟨rfl, rfl⟩⟩

/-- Settles O31: each family of rows by what it performs. -/
theorem elementOperations : Obligations.ElementOperations := by
  refine ⟨fun i e s g hg => ⟨?value, ?test, ?pass⟩, ?other⟩
  case value => exact fun op x f h hfires => (performs_elemValue h).next hfires hg trivial
  case test => exact fun op x f h hfires => (performs_elemTest h).next hfires hg trivial
  case pass => exact fun op x tok tag h hfires herr => (performs_elemPass h).next hfires hg herr
  case other =>
    exact fun i op x f h s e g hfires hg herr hcur hcount => (performs_elemOther h).next hfires hg ⟨herr, hcur, hcount⟩

/-! ## The SRAM (R198, R207) -/

/-- An index of 1,024 or more sends an error token with CAUSE 0x01 (R198). -/
theorem sramAt_outside {r : FireIn} {idx : Nat} (h : 1024 ≤ idx) (detail : Nat) (isTest : Bool) (k : W40 → Firing) :
    sramAt r idx detail isTest k = r.fails (errTok 0x01 r.num detail) isTest := if_pos h

/-- A word that is not poisoned is read. -/
theorem sramAt_inside {r : FireIn} {idx : Nat} (h : idx < 1024) (hp : (sramWord r idx).p = false) (detail : Nat)
    (isTest : Bool) (k : W40 → Firing) : sramAt r idx detail isTest k = k (sramWord r idx) := by
  rw [sramWord] at hp ⊢
  simp only [sramAt, Nat.not_le.2 h, hp, if_false, Bool.false_eq_true]

/-- What the SRAM row of operation op does: with an error operand, inside the SRAM, and outside it. -/
structure SramRow (op : Nat) (x : ElemWord) (idx : FireIn → Nat) (f meaning : FireIn → Firing) : Prop where
  error : ∀ r t, r.err = some t → meaning r = r.fails t (op = 25)
  inside : ∀ r, r.x = x → r.err = none → idx r < 1024 → (op = 24 ∨ (sramWord r (idx r)).p = false) →
    (op < 25 ∨ good (sramWord r (idx r)) = true) → meaning r = f r
  outside : ∀ r, r.x = x → r.err = none → 1024 ≤ idx r →
    meaning r = r.fails (errTok 0x01 r.num (if op = 25 then r.a.w.v.toNat else idx r)) (op = 25)
  clean : ∀ r, (f r).bad = false

/-- The shape of the rows that read the SRAM: an error operand passes, otherwise k makes the effects from the word. -/
def sramReads (idx detail : FireIn → Nat) (isTest : Bool) (k : FireIn → W40 → Firing) (r : FireIn) : Firing :=
  match r.err with
  | some t => r.fails t isTest
  | none => sramAt r (idx r) (detail r) isTest (k r)

theorem sramReads_none {r : FireIn} (h : r.err = none) (idx detail : FireIn → Nat) (isTest : Bool)
    (k : FireIn → W40 → Firing) : sramReads idx detail isTest k r = sramAt r (idx r) (detail r) isTest (k r) := by
  simp only [sramReads, h]

/-- A row that reads the SRAM is one of R207 when it names the index and makes the effects of R207 from the word. -/
theorem sramRow_reads {op : Nat} {x : ElemWord} {idx idx' detail : FireIn → Nat} {f : FireIn → Firing}
    {k : FireIn → W40 → Firing} (hop : op ≠ 24) (hidx : ∀ r, r.x = x → idx' r = idx r)
    (hdetail : ∀ r, r.x = x → detail r = if op = 25 then r.a.w.v.toNat else idx r)
    (hk : ∀ r, r.x = x → (op < 25 ∨ good (sramWord r (idx r)) = true) → k r (sramWord r (idx r)) = f r)
    (hclean : ∀ r, (f r).bad = false) : SramRow op x idx f (sramReads idx' detail (op = 25) k) where
  error r t h := by simp only [sramReads, h]
  inside r hx herr hin hp hgood := by
    rw [sramReads_none herr, hidx r hx, sramAt_inside hin (hp.resolve_left hop), hk r hx hgood]
  outside r hx herr hout := by
    rw [sramReads_none herr, hidx r hx, sramAt_outside hout, hdetail r hx]
  clean := hclean

/-- A test bit as a word. -/
theorem ite_eq_ofNat_toNat (t : Bool) : (if t then 1 else 0 : Word) = BitVec.ofNat 32 t.toNat := by
  cases t <;> rfl

theorem ofNat_sramAddr (r : FireIn) : BitVec.ofNat 32 (sramAddr r r.x) = sramIndex r :=
  (BitVec.ofNat_toNat 32 _).trans (BitVec.setWidth_eq _)

/-- The rows of the SRAM. -/
theorem exec_of_elemSram {i : Instr} {op : Nat} {x : ElemWord} {idx : FireIn → Nat} {f : FireIn → Firing}
    (h : elemSram? i = some (op, x, idx, f)) :
    ∃ meaning, SramRow op x idx f meaning ∧ ∀ s, exec i s = fireElem op meaning x s := by
  unfold elemSram? at h
  split at h <;> cases h
  case h_1 =>
    refine ⟨sramReads _ _ _ _, sramRow_reads (by decide) ?_ ?_ ?_ fun _ => rfl, exec_elemLd x⟩ <;> rintro r rfl
    · rfl
    · rfl
    · exact fun _ => rfl
  case h_2 =>
    refine ⟨_, ⟨fun r t ht => by simp only [ht]; rfl, ?inside, ?outside, fun _ => rfl⟩, exec_elemSt x⟩ <;>
      rintro r rfl herr hidx <;> simp only [herr]
    case inside =>
      intro _ _
      rw [ofNat_sramAddr]
      exact if_neg (Nat.not_le.2 hidx)
    case outside => exact if_pos hidx
  case h_3 =>
    refine ⟨sramReads _ _ _ _, sramRow_reads (by decide) ?_ ?_ ?_ fun _ => rfl, exec_elemTas x⟩ <;> rintro r rfl
    · rfl
    · rfl
    · intro hgood
      simp only [hgood.resolve_left (by decide), ite_eq_ofNat_toNat]
      rfl
  case h_4 =>
    refine ⟨sramReads _ _ _ _, sramRow_reads (by decide) ?_ ?_ ?_ fun _ => rfl, exec_elemUpd x⟩ <;> rintro r rfl
    · rfl
    · rfl
    · intro hgood
      simp only [hgood.resolve_left (by decide)]
      rfl

section
variable {i : Instr} {op : Nat} {x : ElemWord} {idx : FireIn → Nat} {f : FireIn → Firing}
  (h : elemSram? i = some (op, x, idx, f))
include h

theorem performs_sram_inside : Performs i op x (fun r => r.err = none ∧ idx r < 1024 ∧
    (op = 24 ∨ (sramWord r (idx r)).p = false) ∧ (op < 25 ∨ good (sramWord r (idx r)) = true)) f := by
  obtain ⟨meaning, hrow, hexec⟩ := exec_of_elemSram h
  exact ⟨meaning, hexec, fun r hx ⟨herr, hidx, hp, hgood⟩ => ⟨hrow.inside r hx herr hidx hp hgood, hrow.clean r⟩⟩

/-- R198's error token: CAUSE 0x01, the element's number, and 16 bits of the index, for `TAS` of the bit index. -/
theorem performs_sram_outside : Performs i op x (fun r => r.err = none ∧ 1024 ≤ idx r) fun r =>
    { r.sends ⟨fresh (BitVec.ofNat 32 (2 ^ 24 + r.num % 2 ^ 8 * 2 ^ 16 +
        (if op = 25 then r.a.w.v.toNat else idx r) % 2 ^ 16)), 3⟩ with
      test := if op = 25 then some false else none } := by
  obtain ⟨meaning, hrow, hexec⟩ := exec_of_elemSram h
  refine ⟨meaning, hexec, fun r hx ⟨herr, hidx⟩ => ⟨?_, rfl⟩⟩
  rw [hrow.outside r hx herr hidx]
  simp only [FireIn.fails, decide_eq_true_eq]
  rfl

theorem performs_sram_error (t : TTok) : Performs i op x (·.err = some t) fun _ =>
    { out := some t, mask := x.omask, deq := x.deq, test := if op = 25 then some false else none } := by
  obtain ⟨meaning, hrow, hexec⟩ := exec_of_elemSram h
  simpa only [decide_eq_true_eq] using performs_of_fails hexec (hrow.error · t)

end

/-! ## Error operands of the other rows, and `MERGE` (R208, R209) -/

theorem performs_value_error {i : Instr} {op : Nat} {x : ElemWord} {f : Word → Word → Word}
    (h : elemValue? i = some (op, x, f)) (t : TTok) :
    Performs i op x (·.err = some t) fun _ => { out := some t, mask := x.omask, deq := x.deq } :=
  performs_of_fails (isTest := false) (exec_of_elemValue h) fun r herr => by simp only [value2, herr]

theorem performs_pass_error {i : Instr} {op : Nat} {x : ElemWord} {tok : FireIn → TTok} {tag : FireIn → BitVec 2}
    (h : elemPass? i = some (op, x, tok, tag)) (t : TTok) :
    Performs i op x (·.err = some t) fun _ => { out := some t, mask := x.omask, deq := x.deq } :=
  performs_of_fails (isTest := false) (exec_of_elemPass h) fun r herr => by simp only [passes, herr]

/-- An operation of a value, a passed token or the SRAM sends an error operand on and dequeues. -/
theorem performs_row_error {i : Instr} {op : Nat} {x : ElemWord} (h : elemRow? i = some (op, x)) (t : TTok) :
    Performs i op x (·.err = some t) fun _ => { out := some t, mask := x.omask, deq := x.deq } := by
  unfold elemRow? at h
  split at h
  next hvalue => cases h; exact performs_value_error hvalue t
  next hpass => cases h; exact performs_pass_error hpass t
  next hsram =>
    split at h
    next => cases h
    next hop =>
      cases h
      have hperforms := performs_sram_error hsram t
      rwa [if_neg hop] at hperforms
  next => cases h

/-- A `TAS` with an error operand gives its predicates t = 0 as well. -/
theorem performs_tas_error (x : ElemWord) (t : TTok) : Performs (.elemTas x) 25 x (·.err = some t) fun _ =>
    { out := some t, mask := x.omask, deq := x.deq, test := some false } :=
  performs_sram_error rfl t

/-- The merge of two heads neither of which is an error token. -/
theorem performs_merge (x : ElemWord) :
    Performs (.elemMerge x) 29 x (fun r => r.a.tag ≠ 3 ∧ r.b.tag ≠ 3) (mergeRow x) := by
  refine ⟨_, exec_elemMerge x, fun r _ ⟨ha, hb⟩ => ⟨?_, ?_⟩⟩
  · simp only [ha, hb, if_false, Bool.and_eq_true, Bool.or_eq_true, decide_eq_true_eq, bne_iff_ne]
    rfl
  · unfold mergeRow
    split
    · rfl
    · split <;> rfl

/-- Settles O32: the SRAM's rows by `exec_of_elemSram`, error operands by the families' own lemmas. -/
theorem elementMemoryAndErrors : Obligations.ElementMemoryAndErrors := by
  refine ⟨⟨?sram, ?merge⟩, ?row, ?tas⟩
  case sram =>
    exact fun i op x idx f h s e g hfires hg herr =>
      ⟨fun hidx hp hgood => (performs_sram_inside h).next hfires hg ⟨herr, hidx, hp, hgood⟩,
        fun hidx => (performs_sram_outside h).next hfires hg ⟨herr, hidx⟩⟩
  case merge => exact fun x s e g hfires hg ha hb => (performs_merge x).next hfires hg ⟨ha, hb⟩
  case row => exact fun i op x h s e g t hfires hg herr => (performs_row_error h t).next hfires hg herr
  case tas => exact fun x s e g t hfires hg herr => (performs_tas_error x t).next hfires hg herr

end Sys2Proof.Machine
end

section
/-! The frame of a firing (O33) and the predicates that it leaves (O34). -/

namespace Sys2Proof.Machine

open Sys2Proof.Claims

/-! ## Predicates (R205) -/

/-- A bit of a value whose bits under a mask m are replaced by those of v. -/
theorem getLsbD_replace {q m v : Byte} {k : Nat} (hk : k < 8) (hv : m.getLsbD k = false → v.getLsbD k = false) :
    ((q &&& ~~~m) ||| v).getLsbD k = if m.getLsbD k then v.getLsbD k else q.getLsbD k := by
  rw [BitVec.getLsbD_or, BitVec.getLsbD_and, BitVec.getLsbD_not, decide_eq_true hk]
  cases hm : m.getLsbD k
  · simp [hv hm]
  · simp

/-- Settles O34: PSETF replaces bits, then PCLRF, each by the outcome of the test. -/
theorem predicatesAfterAFiring : Obligations.PredicatesAfterAFiring := by
  intro q x r k hk
  unfold predsAfter
  have hzero : (0 : Byte).getLsbD k = false := BitVec.getLsbD_zero
  match r.test with
  | none =>
    have hbits (h : x.psetf.getLsbD k = false) : (r.bits &&& x.psetf).getLsbD k = false := by
      rw [BitVec.getLsbD_and, h, Bool.and_false]
    dsimp only
    rw [getLsbD_replace hk (fun _ => hzero), getLsbD_replace hk hbits, hzero, BitVec.getLsbD_and]
    cases x.psetf.getLsbD k <;> simp
  | some true =>
    dsimp only
    rw [getLsbD_replace hk (fun _ => hzero), getLsbD_replace hk id, hzero]
    cases x.psetf.getLsbD k <;> rfl
  | some false =>
    dsimp only
    rw [getLsbD_replace hk id, getLsbD_replace hk (fun _ => hzero), hzero]
    cases x.pclrf.getLsbD k <;> rfl

/-! ## What a firing changes of its bay (R203) -/

/-- All of a bay but its elements: the bay with them blanked. -/
def Bay.unelems (b : Bay) : Bay := { b with elems := [] }

theorem unelems_modElem (b : Bay) (row col : Nat) (f : Elem → Elem) : (b.modElem row col f).unelems = b.unelems := rfl

theorem unelems_send (b : Bay) (row col k : Nat) (t : TTok) : (b.send row col k t).unelems = b.unelems := by
  unfold Bay.send
  split
  · rfl
  · exact unelems_modElem ..

/-- A bay that agrees with another on all but its elements is that bay with other elements. -/
theorem eq_of_unelems {b c : Bay} (h : b.unelems = c.unelems) : b = { c with elems := b.elems } :=
  congrArg (fun x : Bay => { x with elems := b.elems }) h

theorem elem_send_other (b : Bay) {row col r c : Nat} (k : Nat) (t : TTok) (h : ekey r c ≠ ekey row col) :
    (b.send row col k t).elem r c = b.elem r c := by
  unfold Bay.send
  split
  · rfl
  · exact elem_modElem_other b _ h

/-- A reading of a bay that neither a send nor a rewriting of the element changes is as it was before a firing. -/
theorem applyFiring_keeps {α : Type} (v : Bay → α) {row col : Nat} (hsend : ∀ b k t, v (b.send row col k t) = v b)
    (hmod : ∀ b f, v (b.modElem row col f) = v b) (b : Bay) (x : ElemWord) (r : Firing) :
    v (applyFiring b row col x r) = v b := by
  unfold applyFiring
  rw [hmod]
  split
  · rw [foldl_keeps v]
    intro b k
    split
    · exact hsend ..
    · rfl
  · rfl

theorem unelems_applyFiring (b : Bay) (row col : Nat) (x : ElemWord) (r : Firing) :
    (applyFiring b row col x r).unelems = b.unelems :=
  applyFiring_keeps Bay.unelems (unelems_send · row col) (unelems_modElem · row col) b x r

theorem elem_applyFiring_other (b : Bay) {row col p q : Nat} (x : ElemWord) (r : Firing) (h : ekey p q ≠ ekey row col) :
    (applyFiring b row col x r).elem p q = b.elem p q :=
  applyFiring_keeps (Bay.elem · p q) (fun b k t => elem_send_other b k t h) (fun b f => elem_modElem_other b f h) b x r

/-! ## What a firing changes of the state (R222) -/

section
variable (s : State) (e : ElemId) (g : Region) (x : ElemWord) (r : Firing)

theorem bay_counted_other {n : Nat} (h : n ≠ e.bay) : (counted s e g).bay n = s.bay n := by
  rw [counted, bay_modRegion, if_neg h]; rfl

theorem bay_afterFiring_same :
    (afterFiring s e g x r).bay e.bay = applyFiring ((counted s e g).bay e.bay) e.row e.col x r := by
  rw [afterFiring, bay_modBay, if_pos rfl]

theorem bay_afterFiring_other {n : Nat} (h : n ≠ e.bay) : (afterFiring s e g x r).bay n = s.bay n := by
  rw [afterFiring, bay_modBay, if_neg h, bay_counted_other s e g h]

/-- The firing's bay: its elements, the count and the quiescence of the region, and everything else as it was. -/
theorem bay_afterFiring_frame : (afterFiring s e g x r).bay e.bay = { s.bay e.bay with
    elems := ((afterFiring s e g x r).bay e.bay).elems
    regions := (s.bay e.bay).regions.map fun q =>
      if q.key = g.key ∧ q.idx = g.idx then { q with fires := q.fires + 1, quiet := false } else q } := by
  have hkeeps := eq_of_unelems (unelems_applyFiring ((counted s e g).bay e.bay) e.row e.col x r)
  rw [← bay_afterFiring_same] at hkeeps
  refine hkeeps.trans ?_
  rw [counted, bay_modRegion, if_pos rfl]
  simp only [Bool.and_eq_true, decide_eq_true_eq]
  rfl

theorem elem_afterFiring_other {row col : Nat} (h : ekey row col ≠ ekey e.row e.col) :
    ((afterFiring s e g x r).bay e.bay).elem row col = (s.bay e.bay).elem row col := by
  rw [bay_afterFiring_same, elem_applyFiring_other _ x r h, counted,
    bay_modRegion_keeps (Bay.elem · row col) fun _ _ => rfl]
  rfl

/-- A reading of bays that the firing's bay keeps is kept of every bay. -/
theorem afterFiring_keeps {α : Type} (v : Bay → α)
    (hv : ∀ (b : Bay) es rs, v { b with elems := es, regions := rs } = v b) (n : Nat) :
    v ((afterFiring s e g x r).bay n) = v (s.bay n) := by
  by_cases h : n = e.bay
  · rw [h, bay_afterFiring_frame, hv]
  · rw [bay_afterFiring_other s e g x r h]

end

/-- Settles O33, by the frame of the firing's bay. -/
theorem firingsChangeOnlyTheirTruss : Obligations.FiringsChangeOnlyTheirTruss := by
  intro s e g x r
  refine ⟨rfl, fun n => bay_afterFiring_other s e g x r, bay_afterFiring_frame s e g x r, fun n a => ?_, fun w => ?_,
    fun row col => elem_afterFiring_other s e g x r⟩
  · rw [afterFiring_keeps s e g x r Bay.pad fun _ _ _ => rfl]
  · rw [State.warp?, afterFiring_keeps s e g x r Bay.warps fun _ _ _ => rfl, State.warp?]

end Sys2Proof.Machine
end

section
/-! Hops, the quiescence scan and the loader (O37). -/

namespace Sys2Proof.Machine

open Sys2Proof.Claims

/-! ## Hops (R199, R223) -/

/-- The token in flight arrives. -/
theorem execTokenHop_flying {s : State} {e : ElemId} {k : Nat} {r : Route} {t : TTok} {rest : List TTok}
    (hr : aget ((s.bay e.bay).elem e.row e.col).routes k = some r)
    (hf : ((s.bay e.bay).elem e.row e.col).flying k = t :: rest) :
    execTokenHop e k s = .next (s.setBay e.bay (((s.bay e.bay).modElem e.row e.col fun y =>
      { y with flight := aput y.flight k [] rest }).arrive r t)) := by
  simp only [execTokenHop, hr, hf]

/-- The next token of a port's buffer sets out and arrives. -/
theorem execTokenHop_outgoing {s : State} {e : ElemId} {r : Route} {t : TTok} (hcol : e.col = 0)
    (hr : aget ((s.bay e.bay).elem e.row 0).routes 1 = some r) (hf : ((s.bay e.bay).elem e.row 0).flying 1 = [])
    (ht : exportNext (s.bay e.bay) e.row = some t) :
    execTokenHop e 1 s = .next (s.setBay e.bay (((s.bay e.bay).modPort e.row fun p =>
      { p with exports := p.exports.drop 1 }).arrive r t)) := by
  simp [execTokenHop, hcol, hr, hf, ht]

/-! ## Packets (R218, R219) -/

/-- What a packet leaves of the element that it names (Table 7.9); `more` says that a further packet of a prefetching
plane follows. -/
def packetElem (g : Region) (p : CfgPacket) (more : Bool) (e : Elem) : Elem :=
  let e1 := if p.kind = 3 then { e with routes := placeRoutes g p.words } else elemPacket e p
  if p.kind = 1 && !more then { e1 with pref := 2 } else e1

/-- What a packet leaves of its bay: its element, and for kind 4 its port. -/
def packetBay (g : Region) (p : CfgPacket) (more : Bool) (b : Bay) : Bay :=
  let b1 := b.modElem p.row p.col (packetElem g p more)
  if p.kind = 4 then b1.modPort p.row fun q => { q with cfg := putKeys [] 0 p.words } else b1

theorem started_packetElem {g : Region} {p : CfgPacket} (h : p.kind = 15) (more : Bool) (e : Elem) :
    (packetElem g p more e).started = true := by
  simp [packetElem, elemPacket, h]

theorem routes_packetElem {g : Region} {p : CfgPacket} (h : p.kind = 3) (more : Bool) (e : Elem) :
    (packetElem g p more e).routes = placeRoutes g p.words := by
  simp [packetElem, h]

theorem elem_packetBay (g : Region) (p : CfgPacket) (more : Bool) (b : Bay) :
    (packetBay g p more b).elem p.row p.col = packetElem g p more (b.elem p.row p.col) := by
  unfold packetBay
  split
  · exact elem_modElem_same ..
  · exact elem_modElem_same ..

theorem portCfg_packetBay {g : Region} {p : CfgPacket} (h : p.kind = 4) (more : Bool) (b : Bay) :
    portCfg ((packetBay g p more b).port p.row) = portCfg { b.port p.row with cfg := putKeys [] 0 p.words } := by
  rw [packetBay, if_pos h, port_modPort_same]
  rfl

/-! ## The quiescence scan (R222) -/

section
variable {s : State} {bay n : Nat} {g : Region} (hg : (s.bay bay).regions[n]? = some g)

section
variable (hclocked : g.clocked = true) (hloaded : g.loaded = true) (hquiet : g.quiet = false)
include hg hclocked hloaded hquiet

/-- A first clean scan notes the firing count. -/
theorem execQuiescenceScan_first (hempty : regionEmpty (s.bay bay) g = true) (hscan : g.scan ≠ some g.fires) :
    execQuiescenceScan bay n s = .next (s.modRegion bay g.key g.idx fun r => { r with scan := some r.fires }) := by
  simp [execQuiescenceScan, hg, hclocked, hloaded, hquiet, hempty, hscan]

/-- A second clean scan with the same count reports quiescence. -/
theorem execQuiescenceScan_second (hempty : regionEmpty (s.bay bay) g = true) (hscan : g.scan = some g.fires) :
    execQuiescenceScan bay n s = .next ((s.modRegion bay g.key g.idx fun r =>
      { r with quiet := true, scan := none }).occur bay (·.key = g.key) fun e => e.kind = 4 && e.sel = g.idx) := by
  simp [execQuiescenceScan, hg, hclocked, hloaded, hquiet, hempty, hscan]

/-- A scan that finds a token forgets the clean one before it. -/
theorem execQuiescenceScan_token (hempty : regionEmpty (s.bay bay) g = false) (hscan : g.scan ≠ none) :
    execQuiescenceScan bay n s = .next (s.modRegion bay g.key g.idx fun r => { r with scan := none }) := by
  simp [execQuiescenceScan, hg, hclocked, hloaded, hquiet, hempty, hscan]

end

/-! ## The loader (R216 to R221) -/

include hg

/-- A load that waits with no packet before it is performed. -/
theorem execTrussImageLoad_next {l : ImageLoad} {rest : List ImageLoad}
    (hl : g.loads = l :: rest) (hp : g.packets = []) :
    execTrussImageLoad bay n s =
      .next (loadImage (s.modRegion bay g.key g.idx fun r => { r with loads := rest }) bay g l) := by
  simp [execTrussImageLoad, hg, hl, hp]

/-- The next packet reaches its element; beside that only the region's record of the load changes. -/
theorem execConfigPacketDeliver_next {p : CfgPacket} {rest : List CfgPacket}
    (hp : g.packets = p :: rest) :
    ∃ all, execConfigPacketDeliver bay n s = .next ((s.modBay bay
      (packetBay g p (rest.any fun q => q.kind = 1 && q.row = p.row && q.col = p.col))).modRegion bay g.key g.idx
        fun r => { r with packets := rest, loaded := all }) := by
  simp only [execConfigPacketDeliver, hg, hp]
  exact ⟨_, rfl⟩

end

/-- Settles O37: hops by what an arrival leaves, the scan by its branches, the loader by the packet's kind. -/
theorem hopsQuiescenceAndLoading : Obligations.HopsQuiescenceAndLoading := by
  refine ⟨⟨?flying, ?outgoing⟩, ?scan, ?load, ?packet⟩
  case flying =>
    intro s e k r t rest hr hf
    refine ⟨_, execTokenHop_flying hr hf, ?_, ?_, rfl⟩
    · rw [bay_setBay, if_pos rfl, queue_arrive, elem_modElem_keeps (Elem.queue · r.inp)]
      exact fun _ => rfl
    · rw [bay_setBay, if_pos rfl, flying_arrive, elem_modElem_same, Elem.flying, agetD_aput, if_pos rfl]
  case outgoing =>
    intro s e r t hcol hr hf ht
    refine ⟨_, execTokenHop_outgoing hcol hr hf ht, ?_, ?_⟩
    · rw [bay_setBay, if_pos rfl, queue_arrive]
      rfl
    · rw [bay_setBay, if_pos rfl, Bay.port, ports_arrive, ← Bay.port, port_modPort_same]
  case scan =>
    intro s bay n g hg hclocked hloaded hquiet
    exact ⟨execQuiescenceScan_first hg hclocked hloaded hquiet, execQuiescenceScan_second hg hclocked hloaded hquiet,
      execQuiescenceScan_token hg hclocked hloaded hquiet⟩
  case load => exact fun s bay n g l rest hg hl hp => execTrussImageLoad_next hg hl hp
  case packet =>
    intro s bay n g p rest hg hp
    obtain ⟨all, hnext⟩ := execConfigPacketDeliver_next hg hp
    refine ⟨_, hnext, rfl, fun hkind => ?_, fun hkind => ?_, fun hkind => ?_⟩
    · rw [bay_modRegion_keeps (Bay.elem · p.row p.col) fun _ _ => rfl, bay_modBay, if_pos rfl, elem_packetBay,
        started_packetElem hkind]
    · rw [bay_modRegion_keeps (Bay.elem · p.row p.col) fun _ _ => rfl, bay_modBay, if_pos rfl, elem_packetBay,
        routes_packetElem hkind]
    · rw [bay_modRegion_keeps (Bay.port · p.row) fun _ _ => rfl, bay_modBay, if_pos rfl, portCfg_packetBay hkind]

end Sys2Proof.Machine
end
